-- ==== Sys2Proof/Word.lean ====
section
/-! DEFINITION. The word and byte types of the J8 (R4, R5) and their plainest arithmetic. -/

namespace Sys2Proof

/-- A 64-bit register value. -/
abbrev Word := BitVec 64

/-- A byte of memory. -/
abbrev Byte := BitVec 8

/-- Bits `hi` down to `lo` of a number, as a number (R84's `x[h:l]`). -/
def bitsOf (x hi lo : Nat) : Nat := x / 2 ^ lo % 2 ^ (hi + 1 - lo)

/-- Bit `i` of a number. -/
def bitOf (x i : Nat) : Bool := x / 2 ^ i % 2 == 1

/-- A truth value as 0 or 1. -/
def b2n (b : Bool) : Nat := if b then 1 else 0

/-- The integer whose `w`-bit two's complement code is `x mod 2^w`. -/
def sextInt (w x : Nat) : Int :=
  if bitOf x (w - 1) then ((x % 2 ^ w : Nat) : Int) - 2 ^ w else ((x % 2 ^ w : Nat) : Int)

/-- The `w`-bit two's complement code of an integer. -/
def wrapInt (w : Nat) (x : Int) : Nat := (x % (2 ^ w : Nat)).toNat

/-- The number whose little-endian bytes are given (R5). -/
def leNat : List Byte → Nat
  | [] => 0
  | b :: bs => b.toNat + 256 * leNat bs

/-- The `n` little-endian bytes of a number (R5). -/
def leBytes : Nat → Nat → List Byte
  | 0, _ => []
  | n + 1, x => BitVec.ofNat 8 x :: leBytes n (x / 256)

end Sys2Proof
end

