-- ==== Sys2Proof/Config.lean ====
section
/-! DEFINITION. What the spec leaves to the device: free values, which are opaque constants no proof can evaluate, and the
cryptographic functions of the standards that the spec names without defining. Each is applied to operands or to a
plain counter of the state, so that two draws need not agree. -/

namespace Sys2Proof.Config

/-- R54: the I/O die's choice of a VGID for the n-th draw; the model takes the first legal value at or after it. (DESIGN CHOICE, log 27) -/
opaque vgidDraw : Nat → Nat

/-- R384: the n-th 64 random bits drawn for a handle. (DESIGN CHOICE, log 27) -/
opaque handleDraw : Nat → Nat

/-- R377: the n-th draw of the Crucible's random bit generator. (DESIGN CHOICE, log 27) -/
opaque keyDraw : Nat → Nat

/-- Periods of the 2.5 GHz timebase that pass in one step (R7): the spec gives no time per step. (DESIGN CHOICE, log 6) -/
opaque stepPeriods : Nat → Nat

/-- Core cycles of a die's clock that pass in one step (R7, R176 CYCLE). (DESIGN CHOICE, log 6) -/
opaque stepCycles : Nat → Nat → Nat

/-- R178: the home slice of a line within its home die, which no rule numbers. (DESIGN CHOICE, log 97) -/
opaque l2Slice : Nat → Nat

/-- R165: whether the tracking entry of a thread's monitor is displaced in the step of a tick. (DESIGN CHOICE, log 85) -/
opaque trackDisplaced : Nat → Nat → Bool

/-- R64: which of the old and the new contents a fetch sees after stores to a code word: the n-th draw. (DEDUCED, log 8) -/
opaque fetchChoice : Nat → Nat

/-- R252: whether the array skips the blocks of its n-th pass that it may skip. (DESIGN CHOICE, log 22) -/
opaque skipChoice : Nat → Bool

/-- R296: the sequence field of a payload that ends before it: the spec states no value. (DESIGN CHOICE, log 68) -/
opaque shortSeq : Nat → BitVec 32

/-- R338, R380: the virtual base of an owner's reserve in units of 64 KiB: the spec says that the policy fixes it and
gives it no policy field. (DESIGN CHOICE, log 29) -/
opaque reserveBase : Nat → Nat

/-- R375: the fused SHA-384 hash of Lythisel's firmware key. (DESIGN CHOICE, log 28) -/
opaque firmwareKeyHash : Nat

/-- R377: the fused unique secret of the device, and the certificate of its identity key, which Lythisel has signed. (DESIGN CHOICE, log 28) -/
opaque uniqueSecret : Nat
opaque identityCert : List Byte

/-- R377: the private identity key that a boot derives from the unique secret. (DESIGN CHOICE, log 28) -/
opaque deriveKey : Nat → Nat

/-- The public key of a private one on the curve of R375, and ECDH of a private and a public key there. (DESIGN CHOICE, log 28) -/
opaque publicKey : Nat → List Byte
opaque ecdh : Nat → List Byte → Nat

/-- R389: a signature with a private key over what is reported. (DESIGN CHOICE, log 28) -/
opaque spdmSign : Nat → List Nat → Nat

/-- R388: the bytes of a device identity certificate in host memory, and the public key of one that Lythisel has signed. (DESIGN CHOICE, log 28) -/
opaque certBytes : Nat
opaque certKey : List Byte → Option (List Byte)

/-- R418: the coolant's inlet and outlet temperature in degrees and its flow in hundredths of a litre a minute, as the
sensors read at a tick. (DESIGN CHOICE, log 101) -/
opaque coolant : Nat → Nat × Nat × Nat

/-- R383: the bytes of an entry of an ALLOT core list, and what one names: a core number and whether it is a time
share. No rule lays the list out. (DESIGN CHOICE, log 30) -/
opaque coreEntryBytes : Nat
opaque coreEntry : List Byte → Nat × Bool

/-- R383, R337: the bytes of an entry of an ALLOT range list, and what one names: tier, base and length in 64 KiB units,
a permission mask (bit 0 read, 1 write, 2 execute), and the interface of a host window. No rule lays the list out. (DESIGN CHOICE, log 30) -/
opaque rangeEntryBytes : Nat
opaque rangeEntry : List Byte → Nat × Nat × Nat × Nat × Nat

/-- R337, R379: the offset in the reserve of the owner's copy of its allotment map, and the bytes that a map of these numbers is
written as; R379: the bytes that the rest of a sealed context is written as. No rule lays them out. (DESIGN CHOICE, log 30) -/
opaque allotOffset : Nat
opaque allotImage : List Nat → List Byte
opaque contextImage : List Nat → List Byte

/-- R384: whether the n-th host read or write of the Crucible fails. (DESIGN CHOICE, log 70) -/
opaque hostFails : Nat → Bool

/-- R389: the version that the boot ROM reports. (DESIGN CHOICE, log 70) -/
opaque romVersion : Nat

/-- SHA-384 (R375, R383), as a number of 384 bits. (DESIGN CHOICE, log 28) -/
opaque sha384 : List Byte → Nat

/-- ECDSA verification over the curve of R375: key, message, signature. (DESIGN CHOICE, log 28) -/
opaque ecdsaOk : List Byte → List Byte → List Byte → Bool

/-- R380 SEALWRAP: the sealing secret that the device's identity key unwraps, if it unwraps. (DESIGN CHOICE, log 28) -/
opaque unwrapSecret : List Byte → Option Nat

/-- AES-256-GCM (R293, R379): a byte of the key stream of a key and a nonce, and the tag over header and ciphertext. (DESIGN CHOICE, log 28) -/
opaque aesStream : Nat → Nat → Nat → Byte
opaque gcmTag : Nat → Nat → List Byte → List Byte → BitVec 128

/-- R379: HKDF-SHA-384 of sealing secret and handle. (DESIGN CHOICE, log 28) -/
opaque sealKey : Nat → Nat → Nat

/-- R390: the stages of a firmware image, each its public key, its body, its signature and its security version: no rule lays an
image out. (DESIGN CHOICE, log 28) -/
opaque firmwareStages : List Byte → List (List Byte × List Byte × List Byte × Nat)

/-- R402: whether a policy asks for an IDE stream: R380 gives it no field that does. (DESIGN CHOICE, log 105) -/
opaque policyIde : List Byte → Bool

/-- R211: the core cycles of the Crucible's n-th save, which it charges. (DESIGN CHOICE, log 69) -/
opaque saveCycles : Nat → Nat

/-- R351 part 3: the engine state's opaque bytes after the format tag. (DESIGN CHOICE, log 69) -/
opaque engineImage : Nat → Byte

/-- R293, R388: the flow-key handle the two Crucibles agree on. (DESIGN CHOICE, log 27) -/
opaque flowKeyDraw : Nat → Nat

/-- R292: the port that carries a KDT flow, and the identifier it has at its receiver; R293: which of the two directions of a
flow is this device's, by flow-key handle. (DESIGN CHOICE, log 99) -/
opaque flowPort : Nat → Nat
opaque peerFlow : Nat → Nat
opaque flowSide : Nat → Bool

/-- R83: whether the mesh link from core `a` to a neighbouring core `b` is retired. (DESIGN CHOICE, log 70) -/
opaque linkRetired : Nat → Nat → Bool

/-- R413: whether a memory clock in MHz lies within the devices' data rates: R1 gives no range. (DESIGN CHOICE, log 56) -/
opaque memoryClockOk : Nat → Bool

/-- R420: which of the lower valid points a throttled die takes: the n-th choice. (DESIGN CHOICE, log 56) -/
opaque throttleChoice : Nat → Nat

end Sys2Proof.Config
end

