-- ==== Sys2Proof/Syntax.lean ====
section
/-! DEFINITION. The operations and events of the Jalyar J8, one constructor per row of spec/opcode_table.json, in
the table's order. The first 168 constructors are instructions that the decoder yields. The other 107 are the
machine's steps that no encoding names (a formation, a completion, a frame that arrives); their arguments are
what the step's cause brings with it. -/

namespace Sys2Proof

/-- The fields of a 32-bit instruction (R74). BODY is laid out by the instruction's shape (R75). -/
structure F32 where
  neg  : Bool
  pred : BitVec 3
  body : BitVec 20
deriving DecidableEq, Repr, Inhabited

/-- The fields of a 64-bit or 96-bit instruction (R65, R66). `d`, `a`, `b`, `c` are operand codes (R70) or, where
the instruction's encoding row says so, an immediate, a predicate number or zero. -/
structure F64 where
  md   : BitVec 3
  set  : BitVec 3
  wait : BitVec 6
  neg  : Bool
  pred : BitVec 3
  c    : BitVec 9
  b    : BitVec 9
  a    : BitVec 9
  d    : BitVec 9
  lit  : Option (BitVec 32)
deriving DecidableEq, Repr, Inhabited

/-- Integer arithmetic types (R114). -/
inductive IntTy | i8x8 | n8x8 | i16x4 | n16x4 | i32x2 | n32x2 | i64 | n64
deriving DecidableEq, Repr
/-- The signed integer types of `abs` and `neg` (R117). -/
inductive SgnTy | i8x8 | i16x4 | i32x2 | i64
deriving DecidableEq, Repr
/-- Integer compare types (R114). -/
inductive CmpTy | i8 | n8 | i16 | n16 | i32 | n32 | i64 | n64
deriving DecidableEq, Repr
/-- Shift and shuffle types (R114, R154). -/
inductive ShTy | b8x8 | b16x4 | b32x2 | b64
deriving DecidableEq, Repr
/-- Divider types (R114). -/
inductive DivTy | i32x2 | n32x2 | i64 | n64
deriving DecidableEq, Repr
/-- Floating-point arithmetic types (R114). -/
inductive FpTy | f32 | f32x2 | f16x4 | bf16x4
deriving DecidableEq, Repr
/-- Floating-point compare and classify types (R114). -/
inductive FcTy | f32 | f16 | bf16
deriving DecidableEq, Repr
/-- The relations of `cmp` (R125). -/
inductive Cc | eq | ne | lt | le | gt | ge
deriving DecidableEq, Repr
/-- Types of `red.add` (R154). -/
inductive RedAddTy | b32x2 | b64 | f32 | f32x2 | f16x4 | bf16x4
deriving DecidableEq, Repr
/-- Types of `red.min` and `red.max` (R154). -/
inductive RedMmTy | i32x2 | n32x2 | i64 | n64 | f32 | f32x2
deriving DecidableEq, Repr
/-- Address spaces of loads, stores, atomics and monitors (R11, R157, R162). -/
inductive Space | global | bench | marver
deriving DecidableEq, Repr
/-- Load types (R157). -/
inductive MemTy | b8 | b16 | b32 | b64 | b128 | i8 | i16 | i32
deriving DecidableEq, Repr
/-- Store types (R157). -/
inductive StTy | b8 | b16 | b32 | b64 | b128
deriving DecidableEq, Repr
/-- Atomic types (R162). -/
inductive AtTy | n32 | i32 | n64 | i64
deriving DecidableEq, Repr
/-- Types of `atom.fadd` (R162). -/
inductive FaTy | f32 | bf16x2
deriving DecidableEq, Repr
/-- The three paths of R403; a request over the network carries the SHA-384 of the key of its secured session. -/
inductive MgmtPath
  | sideband
  | network (key : Nat)
  | host
deriving DecidableEq, Repr
/-- What a register write reaches: the page of one interface (R314), written under a PASID, or the Crucible's command
window (R382), by one of the paths of R403. -/
inductive HostTarget
  | ifcPage (ifc pasid : Nat)
  | commandWindow (path : MgmtPath)
deriving DecidableEq, Repr
/-- What a peer's Crucible sends with its grant of a flow (R388): which peer it is, its device's certificate, its ephemeral public
key, and its signature. -/
structure PeerGrant where
  peer  : Nat
  cert  : List Byte
  point : List Byte
  sig   : List Byte
deriving DecidableEq, Repr
/-- Lifecycle states (R376). -/
inductive Lifecycle | manufacturing | production | debugUnlocked | decommissioned
deriving DecidableEq, Repr, Inhabited

/-- The operations and events of the part (spec/opcode_table.json). -/
inductive Instr
  -- instructions
  | nop (f : F32)  -- NOP (R77)
  | nopTwin (f : F64)  -- NOP_TWIN (R76)
  | bra (f : F32)  -- BRA (R151)
  | braTwin (f : F64)  -- BRA_TWIN (R151)
  | call (f : F32)  -- CALL (R151)
  | callTwin (f : F64)  -- CALL_TWIN (R151)
  | ret (f : F32)  -- RET (R151)
  | retTwin (f : F64)  -- RET_TWIN (R151)
  | exit (f : F32)  -- EXIT (R151)
  | exitTwin (f : F64)  -- EXIT_TWIN (R151)
  | yield (f : F32)  -- YIELD (R151)
  | yieldTwin (f : F64)  -- YIELD_TWIN (R76)
  | wait (f : F32)  -- WAIT (R77)
  | waitTwin (f : F64)  -- WAIT_TWIN (R77)
  | barArrive (f : F32)  -- BAR_ARRIVE (R167)
  | barArriveTwin (f : F64)  -- BAR_ARRIVE_TWIN (R167)
  | barWait (f : F32)  -- BAR_WAIT (R167)
  | barWaitTwin (f : F64)  -- BAR_WAIT_TWIN (R167)
  | mov (f : F32)  -- MOV (R77)
  | movTwinReg (f : F64)  -- MOV_TWIN_REG (R77)
  | movTwinImm (f : F64)  -- MOV_TWIN_IMM (R77)
  | movTwinLit (f : F64)  -- MOV_TWIN_LIT (R77)
  | trap (f : F32)  -- TRAP (R177)
  | trapTwin (f : F64)  -- TRAP_TWIN (R177)
  | brk (f : F32)  -- BRK (R177)
  | brkTwin (f : F64)  -- BRK_TWIN (R177)
  | jmp (f : F32)  -- JMP (R151)
  | jmpTwinReg (f : F64)  -- JMP_TWIN_REG (R151)
  | jmpTwinLit (f : F64)  -- JMP_TWIN_LIT (R151)
  | addInt (t : IntTy) (f : F64)  -- ADD_INT (R118)
  | subInt (t : IntTy) (f : F64)  -- SUB_INT (R118)
  | mulInt (t : IntTy) (f : F64)  -- MUL_INT (R118)
  | mad (t : IntTy) (f : F64)  -- MAD (R118)
  | minInt (t : IntTy) (f : F64)  -- MIN_INT (R118)
  | maxInt (t : IntTy) (f : F64)  -- MAX_INT (R118)
  | abs (t : SgnTy) (f : F64)  -- ABS (R118)
  | neg (t : SgnTy) (f : F64)  -- NEG (R118)
  | andB (f : F64)  -- AND (R121)
  | orB (f : F64)  -- OR (R121)
  | xorB (f : F64)  -- XOR (R121)
  | andnB (f : F64)  -- ANDN (R121)
  | notB (f : F64)  -- NOT (R121)
  | shl (t : ShTy) (f : F64)  -- SHL (R122)
  | shr (t : ShTy) (f : F64)  -- SHR (R122)
  | sar (t : ShTy) (f : F64)  -- SAR (R122)
  | rot (t : ShTy) (f : F64)  -- ROT (R122)
  | bfx (signed : Bool) (f : F64)  -- BFX (R123)
  | bfi (f : F64)  -- BFI (R123)
  | popc (f : F64)  -- POPC (R121)
  | clz (f : F64)  -- CLZ (R121)
  | brev (f : F64)  -- BREV (R121)
  | shrf (f : F64)  -- SHRF (R124)
  | cmp (cc : Cc) (t : CmpTy) (f : F64)  -- CMP (R126)
  | sel (f : F64)  -- SEL (R126)
  | selm (f : F64)  -- SELM (R126)
  | pand (f : F64)  -- PAND (R126)
  | por (f : F64)  -- POR (R126)
  | pxor (f : F64)  -- PXOR (R126)
  | pandn (f : F64)  -- PANDN (R126)
  | div (t : DivTy) (f : F64)  -- DIV (R129)
  | rem (t : DivTy) (f : F64)  -- REM (R129)
  | divm (t : DivTy) (f : F64)  -- DIVM (R129)
  | lea (f : F64)  -- LEA (R133)
  | mvh (f : F64)  -- MVH (R133)
  | mvs (f : F64)  -- MVS (R133)
  | addFloat (t : FpTy) (f : F64)  -- ADD_FLOAT (R135)
  | subFloat (t : FpTy) (f : F64)  -- SUB_FLOAT (R135)
  | mulFloat (t : FpTy) (f : F64)  -- MUL_FLOAT (R135)
  | fma (t : FpTy) (f : F64)  -- FMA (R135)
  | fnma (t : FpTy) (f : F64)  -- FNMA (R135)
  | minFloat (t : FpTy) (f : F64)  -- MIN_FLOAT (R138)
  | maxFloat (t : FpTy) (f : F64)  -- MAX_FLOAT (R138)
  | fcmp (t : FcTy) (f : F64)  -- FCMP (R139)
  | fclass (t : FcTy) (f : F64)  -- FCLASS (R140)
  | frnd (packed : Bool) (f : F64)  -- FRND (R142)
  | fexpf (packed : Bool) (f : F64)  -- FEXPF (R142)
  | fscale (packed : Bool) (f : F64)  -- FSCALE (R142)
  | frcp (packed : Bool) (f : F64)  -- FRCP (R142)
  | frsqrt (packed : Bool) (f : F64)  -- FRSQRT (R142)
  | fsqrt (packed : Bool) (f : F64)  -- FSQRT (R142)
  | flog2 (packed : Bool) (f : F64)  -- FLOG2 (R142)
  | cvt (f : F64)  -- CVT (R145)
  | shfl (t : ShTy) (f : F64)  -- SHFL (R155)
  | bcast (f : F64)  -- BCAST (R155)
  | ptestSome (f : F64)  -- PTEST_SOME (R155)
  | ptestEvery (f : F64)  -- PTEST_EVERY (R155)
  | ptestAlike (f : F64)  -- PTEST_ALIKE (R155)
  | pmask (f : F64)  -- PMASK (R155)
  | redAdd (t : RedAddTy) (f : F64)  -- RED_ADD (R156)
  | redMin (t : RedMmTy) (f : F64)  -- RED_MIN (R156)
  | redMax (t : RedMmTy) (f : F64)  -- RED_MAX (R156)
  | redAnd (f : F64)  -- RED_AND (R156)
  | redOr (f : F64)  -- RED_OR (R156)
  | redXor (f : F64)  -- RED_XOR (R156)
  | elect (f : F64)  -- ELECT (R155)
  | ld (sp : Space) (t : MemTy) (f : F64)  -- LD (R158)
  | st (sp : Space) (t : StTy) (f : F64)  -- ST (R158)
  | stA (f : F64)  -- ST_A (R160)
  | push (f : F64)  -- PUSH (R161)
  | pop (f : F64)  -- POP (R161)
  | bsend (f : F64)  -- BSEND (R173)
  | atomAdd (t : AtTy) (f : F64)  -- ATOM_ADD (R163)
  | atomAnd (t : AtTy) (f : F64)  -- ATOM_AND (R163)
  | atomOr (t : AtTy) (f : F64)  -- ATOM_OR (R163)
  | atomXor (t : AtTy) (f : F64)  -- ATOM_XOR (R163)
  | atomMin (t : AtTy) (f : F64)  -- ATOM_MIN (R163)
  | atomMax (t : AtTy) (f : F64)  -- ATOM_MAX (R163)
  | atomExch (t : AtTy) (f : F64)  -- ATOM_EXCH (R163)
  | atomCas (t : AtTy) (f : F64)  -- ATOM_CAS (R163)
  | atomFadd (t : FaTy) (f : F64)  -- ATOM_FADD (R163)
  | fence (f : F64)  -- FENCE (R164)
  | watch (f : F64)  -- WATCH (R165)
  | mwait (f : F64)  -- MWAIT (R165)
  | barArm (f : F64)  -- BAR_ARM (R167)
  | barCredit (f : F64)  -- BAR_CREDIT (R167)
  | barQuery (f : F64)  -- BAR_QUERY (R167)
  | barSpill (f : F64)  -- BAR_SPILL (R168)
  | barFill (f : F64)  -- BAR_FILL (R168)
  | sbarArrive (f : F64)  -- SBAR_ARRIVE (R169)
  | sbarWait (f : F64)  -- SBAR_WAIT (R169)
  | cntAdd (f : F64)  -- CNT_ADD (R171)
  | cntFail (f : F64)  -- CNT_FAIL (R171)
  | cntWait (f : F64)  -- CNT_WAIT (R171)
  | cntPoll (f : F64)  -- CNT_POLL (R171)
  | svc (f : F64)  -- SVC (R175)
  | mfsr (f : F64)  -- MFSR (R176)
  | mtsr (f : F64)  -- MTSR (R176)
  | causeclrReg (f : F64)  -- CAUSECLR_REG (R203)
  | causeclrLit (f : F64)  -- CAUSECLR_LIT (R203)
  | causeclrImm (f : F64)  -- CAUSECLR_IMM (R203)
  | tret (f : F64)  -- TRET (R203)
  | tabort (f : F64)  -- TABORT (R203)
  | cubeMmaBench (f : F64)  -- CUBE_MMA_BENCH (R264)
  | cubeMmaReg (f : F64)  -- CUBE_MMA_REG (R264)
  | cubeOutBench (f : F64)  -- CUBE_OUT_BENCH (R264)
  | cubeOutReg (f : F64)  -- CUBE_OUT_REG (R264)
  | cubeArd (f : F64)  -- CUBE_ARD (R272)
  | cubeAwr (f : F64)  -- CUBE_AWR (R272)
  | cubeAzero (f : F64)  -- CUBE_AZERO (R273)
  | cubeBld (f : F64)  -- CUBE_BLD (R275)
  | cubeQuery (f : F64)  -- CUBE_QUERY (R276)
  | xqueryReg (f : F64)  -- XQUERY_REG (R231)
  | xqueryImm (f : F64)  -- XQUERY_IMM (R231)
  | xcancelReg (f : F64)  -- XCANCEL_REG (R231)
  | xcancelImm (f : F64)  -- XCANCEL_IMM (R231)
  | collRun (f : F64)  -- COLL_RUN (R310)
  | collArm (f : F64)  -- COLL_ARM (R295)
  | collRelReg (f : F64)  -- COLL_REL_REG (R311)
  | collRelImm (f : F64)  -- COLL_REL_IMM (R311)
  | collDisarmReg (f : F64)  -- COLL_DISARM_REG (R311)
  | collDisarmImm (f : F64)  -- COLL_DISARM_IMM (R311)
  | collQueryReg (f : F64)  -- COLL_QUERY_REG (R311)
  | collQueryImm (f : F64)  -- COLL_QUERY_IMM (R311)
  | collCancel (f : F64)  -- COLL_CANCEL (R312)
  | lnch (f : F64)  -- LNCH (R331)
  | lcancel (f : F64)  -- LCANCEL (R332)
  | lquery (f : F64)  -- LQUERY (R332)
  | regqImm (f : F64)  -- REGQ_IMM (R44)
  | regqReg (f : F64)  -- REGQ_REG (R44)
  | tfill (f : F64)  -- TFILL (R347)
  | tinv (f : F64)  -- TINV (R348)
  | tprobe (f : F64)  -- TPROBE (R349)
  | treplayReg (f : F64)  -- TREPLAY_REG (R350)
  | treplayImm (f : F64)  -- TREPLAY_IMM (R350)
  | hret (f : F64)  -- HRET (R350)
  | csave (f : F64)  -- CSAVE (R351)
  | crestore (f : F64)  -- CRESTORE (R351)
  | sreply (f : F64)  -- SREPLY (R355)
  -- events and steps that no encoding names
  | bundleFormation (quad : Nat)  -- BUNDLE_FORMATION (R35)
  | threadUrgent (thread : Nat)  -- THREAD_URGENT (R39)
  | memoryAccessComplete (pid : Nat)  -- MEMORY_ACCESS_COMPLETE (R158)
  | dividerComplete (pid : Nat)  -- DIVIDER_COMPLETE (R130)
  | specialFunctionComplete (pid : Nat)  -- SPECIAL_FUNCTION_COMPLETE (R142)
  | conversionComplete (pid : Nat)  -- CONVERSION_COMPLETE (R145)
  | engineResourceFreed (die : Nat)  -- ENGINE_RESOURCE_FREED (R22)
  | breakpointMatch (warp lanes : Nat)  -- BREAKPOINT_MATCH (R407)
  | dumpPageCopy (handle : Nat)  -- DUMP_PAGE_COPY (R411)
  | tinvComplete (inv : Nat)  -- TINV_COMPLETE (R348)
  | tfillComplete (pid : Nat)  -- TFILL_COMPLETE (R347)
  | lnchAnswer (pid : Nat)  -- LNCH_ANSWER (R331)
  | trapEntry (warp : Nat)  -- TRAP_ENTRY (R197)
  | workgroupStop (vgid : Nat)  -- WORKGROUP_STOP (R206)
  | handlerInvocation (core : Nat)  -- HANDLER_INVOCATION (R342)
  | saveDeadlineExpiry (vgid : Nat)  -- SAVE_DEADLINE_EXPIRY (R211)
  | workgroupRestore (vgid core : Nat)  -- WORKGROUP_RESTORE (R210)
  | workgroupPlacement (launch : Nat)  -- WORKGROUP_PLACEMENT (R324)
  | workgroupEnd (vgid : Nat)  -- WORKGROUP_END (R33)
  | timeSliceExpiry (core : Nat)  -- TIME_SLICE_EXPIRY (R326)
  | displacement (die owner : Nat)  -- DISPLACEMENT (R328)
  | launchRecordCheck (launch : Nat) (ecc : Bool)  -- LAUNCH_RECORD_CHECK (R59)
  | dependenceCheck (launch : Nat) (ecc : Bool)  -- DEPENDENCE_CHECK (R319)
  | launchEnd (launch : Nat)  -- LAUNCH_END (R62)
  | transferLineLanded (core chan : Nat)  -- TRANSFER_LINE_LANDED (R23)
  | transferPartComplete (core chan : Nat)  -- TRANSFER_PART_COMPLETE (R225)
  | transferOpFail (core chan bit : Nat)  -- TRANSFER_OP_FAIL (R226)
  | cubePass (core : Nat) (mismatch : List Nat) (ecc : Bool)  -- CUBE_PASS (R254)
  | cubeOpComplete (core : Nat)  -- CUBE_OP_COMPLETE (R268)
  | bsendDelivery (send : Nat)  -- BSEND_DELIVERY (R173)
  | barrierCreditDelivery (credit : Nat)  -- BARRIER_CREDIT_DELIVERY (R19)
  | collOpComplete (op : Nat) (ecc : Bool)  -- COLL_OP_COMPLETE (R308)
  | collTimeout (op : Nat)  -- COLL_TIMEOUT (R303)
  | kdtData (head : List Byte) (ecn : Bool) (body : List Byte)  -- KDT_DATA (R293)
  | kdtAck (head body : List Byte)  -- KDT_ACK (R293)
  | kdtNack (head body : List Byte)  -- KDT_NACK (R293)
  | kdtRetransmitTimeout (flow : Nat)  -- KDT_RETRANSMIT_TIMEOUT (R293)
  | kdtRateRecovery (flow : Nat)  -- KDT_RATE_RECOVERY (R293)
  | ingestFrame (port : Nat) (frame : List Byte) (fcsOk ecc : Bool)  -- INGEST_FRAME (R296)
  | zoneCounterAddition (owner zone : Nat) (ecc : Bool)  -- ZONE_COUNTER_ADDITION (R296)
  | pfcPauseRepeat (port cls : Nat)  -- PFC_PAUSE_REPEAT (R297)
  | pfcFrameReceived (port : Nat) (classes : Nat) (times : List Nat)  -- PFC_FRAME_RECEIVED (R291)
  | autodispDispatch (owner : Nat)  -- AUTODISP_DISPATCH (R362)
  | fqdone (owner : Nat) (w : Word)  -- FQDONE (R361)
  | dispatch (owner : Nat) (w : Word)  -- DISPATCH (R361)
  | fillgo (owner : Nat) (w : Word)  -- FILLGO (R361)
  | invgo (owner : Nat) (w : Word)  -- INVGO (R361)
  | atsCompletion (pasid page : Nat) (read write : Bool)  -- ATS_COMPLETION (R367)
  | pageRequestResponse (index pasid code : Nat)  -- PAGE_REQUEST_RESPONSE (R367)
  | hostInvalidation (pasid page pages : Nat)  -- HOST_INVALIDATION (R369)
  | prgOrphanTimeout (index : Nat)  -- PRG_ORPHAN_TIMEOUT (R368)
  | submit (ifc offset pasid : Nat) (deferrable : Bool) (bytes : List Byte)  -- SUBMIT (R315)
  | cancel (ifc pasid : Nat) (w : Word)  -- CANCEL (R314)
  | registerWrite (target : HostTarget) (offset : Nat) (bytes : List Byte)  -- REGISTER_WRITE (R314)
  | create (cmd : List Byte)  -- CREATE (R386)
  | policy (cmd : List Byte)  -- POLICY (R381)
  | allot (cmd : List Byte)  -- ALLOT (R386)
  | assign (cmd : List Byte)  -- ASSIGN (R383)
  | unassign (cmd : List Byte)  -- UNASSIGN (R383)
  | run (cmd : List Byte)  -- RUN (R386)
  | pause (cmd : List Byte)  -- PAUSE (R385)
  | resume (cmd : List Byte)  -- RESUME (R386)
  | evict (cmd : List Byte)  -- EVICT (R385)
  | reset (cmd : List Byte)  -- RESET (R385)
  | destroy (cmd : List Byte)  -- DESTROY (R385)
  | flow (cmd : List Byte)  -- FLOW (R388)
  | pauseComplete (owner : Nat)  -- PAUSE_COMPLETE (R385)
  | evictComplete (owner : Nat)  -- EVICT_COMPLETE (R385)
  | resumeEvictedComplete (owner : Nat)  -- RESUME_EVICTED_COMPLETE (R385)
  | resetComplete (owner : Nat)  -- RESET_COMPLETE (R385)
  | flowPeerGrant (handle : Nat) (grant : PeerGrant)  -- FLOW_PEER_GRANT (R388)
  | flowGrantTimeout (handle : Nat)  -- FLOW_GRANT_TIMEOUT (R388)
  | spdmRequest (path : MgmtPath) (index : Nat)  -- SPDM_REQUEST (R389)
  | spdmHandleQuery (path : MgmtPath) (handle : Nat)  -- SPDM_HANDLE_QUERY (R389)
  | firmwareUpdate (path : MgmtPath) (image : List Byte)  -- FIRMWARE_UPDATE (R390)
  | functionLevelReset  -- FUNCTION_LEVEL_RESET (R402)
  | completionTimeout  -- COMPLETION_TIMEOUT (R404)
  | hostLoss  -- HOST_LOSS (R404)
  | hostReturn  -- HOST_RETURN (R405)
  | portConfigWrite (path : MgmtPath) (port speed prtb cls udp : Nat)  -- PORT_CONFIG_WRITE (R403)
  | managementKeyWrite (path : MgmtPath) (index : Nat) (hash : Nat)  -- MANAGEMENT_KEY_WRITE (R403)
  | errorLogRead (path : MgmtPath)  -- ERROR_LOG_READ (R403)
  | clockPlanWrite (path : MgmtPath) (plan : List Byte)  -- CLOCK_PLAN_WRITE (R415)
  | powerLimitSet (watts : Nat)  -- POWER_LIMIT_SET (R419)
  | debugSessionOpen (path : MgmtPath) (handle : Nat) (keyHash : Nat) (scope : Nat) (hold : Bool) (bps : List (Nat × Nat × Nat)) (trace : Option (Nat × Nat))  -- DEBUG_SESSION_OPEN (R406)
  | groupStep (warp lane : Nat)  -- GROUP_STEP (R408)
  | laneExclusiveStep (warp lane : Nat)  -- LANE_EXCLUSIVE_STEP (R408)
  | debugRegisterAccess (warp lane : Nat) (reg : Nat) (write : Option Word)  -- DEBUG_REGISTER_ACCESS (R407)
  | debugMemoryAccess (handle va : Nat) (write : Option Byte)  -- DEBUG_MEMORY_ACCESS (R407)
  | traceSample (quad : Nat)  -- TRACE_SAMPLE (R409)
  | causalTrialStart (handle die lo hi delay duration : Nat) (progress : List Nat)  -- CAUSAL_TRIAL_START (R410)
  | causalTrialEnd (die : Nat)  -- CAUSAL_TRIAL_END (R410)
  | coreDump (handle : Nat)  -- CORE_DUMP (R411)
  | sessionRelease (handle : Nat)  -- SESSION_RELEASE (R411)
  | freezeAssert  -- FREEZE_ASSERT (R412)
  | freezeRelease  -- FREEZE_RELEASE (R412)
  | operatingPointMove (die point : Nat)  -- OPERATING_POINT_MOVE (R417)
  | powerLimitCheck (watts : Nat) (hottest : Nat)  -- POWER_LIMIT_CHECK (R419)
  | thermalThrottle (die celsius : Nat)  -- THERMAL_THROTTLE (R420)
  | thermalShutdown (die celsius : Nat)  -- THERMAL_SHUTDOWN (R420)
  | thermalRelease (celsius : List Nat)  -- THERMAL_RELEASE (R420)
  | undervoltage (millivolts : Nat)  -- UNDERVOLTAGE (R418)
  | moduleReset  -- MODULE_RESET (R421)
  | illegalEncoding  -- ILLEGAL_ENCODING (R79)
  | instructionFetch  -- INSTRUCTION_FETCH (R64)
  | lifecycleTransition (dest : Lifecycle)  -- LIFECYCLE_TRANSITION (R376)
  | serviceHartAccess (owner addr : Nat) (write : Option Byte)  -- SERVICE_HART_ACCESS (R361)
deriving DecidableEq, Repr

end Sys2Proof
end

