-- ==== Sys2Proof/WellFormed.lean ====
section
/-! DEFINITION. Which terms of `Instr` stand for an instruction or an event of the J8: the field checks of the
instruction chapters' encoding tables (R43, R73–R76, R79, R112–R144, R148–R177, R202, R230, R263, R309, R330, R345)
and the ranges of the events' arguments. -/

namespace Sys2Proof

def IntTy.idx : IntTy → Nat
  | .i8x8 => 0 | .n8x8 => 1 | .i16x4 => 2 | .n16x4 => 3 | .i32x2 => 4 | .n32x2 => 5 | .i64 => 6 | .n64 => 7
def SgnTy.idx : SgnTy → Nat
  | .i8x8 => 0 | .i16x4 => 2 | .i32x2 => 4 | .i64 => 6
def CmpTy.idx : CmpTy → Nat
  | .i8 => 0 | .n8 => 1 | .i16 => 2 | .n16 => 3 | .i32 => 4 | .n32 => 5 | .i64 => 6 | .n64 => 7
def ShTy.idx : ShTy → Nat
  | .b8x8 => 0 | .b16x4 => 1 | .b32x2 => 2 | .b64 => 3
def DivTy.idx : DivTy → Nat
  | .i32x2 => 0 | .n32x2 => 1 | .i64 => 2 | .n64 => 3
def FpTy.idx : FpTy → Nat
  | .f32 => 0 | .f32x2 => 1 | .f16x4 => 2 | .bf16x4 => 3
def FcTy.idx : FcTy → Nat
  | .f32 => 0 | .f16 => 1 | .bf16 => 2
def Cc.idx : Cc → Nat
  | .eq => 0 | .ne => 1 | .lt => 2 | .le => 3 | .gt => 4 | .ge => 5
def RedAddTy.idx : RedAddTy → Nat
  | .b32x2 => 0 | .b64 => 1 | .f32 => 2 | .f32x2 => 3 | .f16x4 => 4 | .bf16x4 => 5
def RedMmTy.idx : RedMmTy → Nat
  | .i32x2 => 0 | .n32x2 => 1 | .i64 => 2 | .n64 => 3 | .f32 => 4 | .f32x2 => 5
def Space.idx : Space → Nat
  | .global => 0 | .bench => 1 | .marver => 2
def MemTy.idx : MemTy → Nat
  | .b8 => 0 | .b16 => 1 | .b32 => 2 | .b64 => 3 | .b128 => 4 | .i8 => 5 | .i16 => 6 | .i32 => 7
def StTy.idx : StTy → Nat
  | .b8 => 0 | .b16 => 1 | .b32 => 2 | .b64 => 3 | .b128 => 4
def AtTy.idx : AtTy → Nat
  | .n32 => 0 | .i32 => 1 | .n64 => 2 | .i64 => 3
def FaTy.idx : FaTy → Nat
  | .f32 => 0 | .bf16x2 => 1

/-- The use an encoding row makes of one 9-bit field (R70, R73, R79). -/
inductive FieldKind
  | zero                  -- unused: must be 0
  | src                   -- any readable operand code
  | dst                   -- a v code or `%zero`
  | dstV                  -- a v code only
  | dstVW                 -- a v code, a w code or `%zero`
  | srcW                  -- a w code
  | srcWZ                 -- a w code, `%zero` or `%lit`
  | litOnly               -- `%lit`
  | pred                  -- a predicate in [2:0], [8:3] zero
  | group (n : Nat)       -- the first of n consecutive v codes
  | imm (lo hi : Nat)     -- an immediate in a range
  | order (ords : List Nat)  -- an ordering code (R148) with one of these orders
deriving DecidableEq, Repr

/-- Whether the instruction takes the 32-bit literal (R66). -/
inductive LitUse | never | may | must
deriving DecidableEq, Repr

/-- Whether SET may name a slot (R65, R68). -/
inductive SetUse | never | may | must
deriving DecidableEq, Repr

/-- One encoding row of a 64-bit or 96-bit instruction. -/
structure Row where
  opc : Nat
  mds : List Nat
  d   : FieldKind
  a   : FieldKind
  b   : FieldKind
  c   : FieldKind
  lit : LitUse
  set : SetUse
  also : Bool := true
deriving DecidableEq, Repr

/-- The six BODY shapes (R75). -/
inductive Shape | n | j | w | b | m | t
deriving DecidableEq, Repr

/-- R70, R79: the code may be read as a source. `%lit` needs a literal. -/
def srcOk (lit : Bool) (x : Nat) : Bool := x < 475 && (x != 449 || lit)

/-- R148: an ordering code whose order is in the list. Relaxed carries scope 00. -/
def orderOk (ords : List Nat) (x : Nat) : Bool :=
  x < 32 && ords.contains (x % 8) && (x % 8 != 0 || x == 0)

def FieldKind.ok (lit : Bool) (x : Nat) : FieldKind → Bool
  | .zero => x == 0
  | .src => srcOk lit x
  | .dst => x < 384 || x == 448
  | .dstV => x < 384
  | .dstVW => x ≤ 448
  | .srcW => 384 ≤ x && x < 448
  | .srcWZ => (384 ≤ x && x ≤ 448) || (x == 449 && lit)
  | .litOnly => x == 449 && lit
  | .pred => x < 8
  | .group n => x + n ≤ 384
  | .imm lo hi => lo ≤ x && x ≤ hi
  | .order ords => orderOk ords x

def LitUse.ok (lit : Bool) : LitUse → Bool
  | .never => !lit
  | .may => true
  | .must => lit

def SetUse.ok (set : Nat) : SetUse → Bool
  | .never => set == 0
  | .may => set < 7
  | .must => 0 < set && set < 7

/-- The checks of R79 step 1 on the fields of a 64-bit or 96-bit instruction of a row. -/
def Row.ok (r : Row) (f : F64) : Bool :=
  r.mds.contains f.md.toNat && r.lit.ok f.lit.isSome && r.set.ok f.set.toNat &&
  r.d.ok f.lit.isSome f.d.toNat && r.a.ok f.lit.isSome f.a.toNat &&
  r.b.ok f.lit.isSome f.b.toNat && r.c.ok f.lit.isSome f.c.toNat && r.also

/-- R75: the zero bits of a BODY shape, with the operand checks of shape M. -/
def Shape.ok (body : Nat) : Shape → Bool
  | .n => body == 0
  | .j => true
  | .w => body < 64
  | .b => body < 64
  | .m => body < 2 ^ 18
  | .t => body < 2 ^ 16

/-! ### The encoding rows -/

/-- A binary form with register and immediate variants (R113). `base` is MOD with [61] clear. A literal that no operand names is
ignored here and in the rows below. (DEDUCED, log 25) -/
def binRow (opc : Nat) (base : List Nat) (set : SetUse) (d : FieldKind) (f : F64) : Row :=
  if f.md.getLsbD 0 then
    { opc, mds := base.map (· + 1), d, a := .src, b := .zero, c := .imm 0 511, lit := .may, set }
  else { opc, mds := base, d, a := .src, b := .src, c := .zero, lit := .may, set }

/-- A ternary form whose third source may be an immediate (R113, R120). -/
def terRow (opc : Nat) (base : List Nat) (f : F64) : Row :=
  if f.md.getLsbD 0 then
    { opc, mds := base.map (· + 1), d := .dst, a := .src, b := .src, c := .imm 0 511, lit := .may, set := .never }
  else { opc, mds := base, d := .dst, a := .src, b := .src, c := .src, lit := .may, set := .never }

/-- A unary form (R113). -/
def unRow (opc : Nat) (mds : List Nat) (set : SetUse) : Row :=
  { opc, mds, d := .dst, a := .src, b := .zero, c := .zero, lit := .may, set }

/-- A form with two register sources and no immediate (R134, R137). -/
def bin2Row (opc : Nat) (mds : List Nat) (set : SetUse) (d : FieldKind) : Row :=
  { opc, mds, d, a := .src, b := .src, c := .zero, lit := .may, set }

/-- A form with three register sources (R113). -/
def ter3Row (opc : Nat) (mds : List Nat) : Row :=
  { opc, mds, d := .dst, a := .src, b := .src, c := .src, lit := .may, set := .never }

/-- A form that names no operand. -/
def noneRow (opc : Nat) (md : Nat) (lit : LitUse) : Row :=
  { opc, mds := [md], d := .zero, a := .zero, b := .zero, c := .zero, lit, set := .never }

/-- A barrier instruction with its index in C (R76, R166). -/
def barRow (opc : Nat) (d a b : FieldKind) (hi : Nat) : Row :=
  { opc, mds := [1], d, a, b, c := .imm 0 hi, lit := .never, set := .never }

/-- A load or store: the short form's offset in C, or an ordering code and an optional literal offset (R157). -/
def memRow (opc : Nat) (d b : FieldKind) (ords : List Nat) (f : F64) : Row :=
  if f.md.getLsbD 0 then
    { opc, mds := [1], d, a := .src, b, c := .imm 0 511, lit := .never, set := .may }
  else { opc, mds := [0], d, a := .src, b, c := .order ords, lit := .may, set := .may }

/-- An atomic (R162). -/
def atomRow (opc : Nat) (b : FieldKind) : Row :=
  { opc, mds := [0, 2, 4], d := .dst, a := .src, b, c := .order [0, 1, 2, 3, 4], lit := .may, set := .may }

/-- A form with register and immediate variants of one small number, in A or in C (R230, R309). -/
def chanRow (opc : Nat) (d b : FieldKind) (imm : Bool) (hi : Nat) : Row :=
  if imm then { opc, mds := [1], d, a := .zero, b, c := .imm 0 hi, lit := .never, set := .never }
  else { opc, mds := [0], d, a := .src, b, c := .zero, lit := .never, set := .never }

/-- A reduction (R154). -/
def redRow (opc : Nat) (mds : List Nat) : Row :=
  { opc, mds, d := .dstVW, a := .src, b := .zero, c := .zero, lit := .may, set := .never }

/-- Widths of the `cvt` format codes 0–12 (R143). -/
def cvtWidth (code : Nat) : Nat :=
  [32, 16, 16, 8, 8, 32, 32, 16, 16, 8, 8, 4, 2].getD code 0

/-- R143, R144: the code, group and mode checks of `cvt`. -/
def cvtOk (f : F64) : Bool :=
  let dc := f.c.toNat % 16
  let sc := f.c.toNat / 16 % 16
  f.c.toNat < 256 && dc < 13 && sc < 13 && dc != sc &&
  f.b.toNat < Nat.max (cvtWidth dc) (cvtWidth sc) / Nat.min (cvtWidth dc) (cvtWidth sc) &&
  (f.md == 0 || dc < 5 || sc < 5)

/-- R81, R83: the literal is a route of 1 to 13 hops with no turn code at index n − 1 or above. -/
def routeOk (lit : Option (BitVec 32)) : Bool :=
  match lit with
  | none => false
  | some r =>
    let n := r.toNat / 4 % 16
    1 ≤ n && n ≤ 13 && r.toNat / 2 ^ (4 + 2 * n) == 0

/-- R76, R175: literal bits [31:16] are zero. -/
def litCodeOk (lit : Option (BitVec 32)) : Bool :=
  match lit with
  | none => false
  | some r => r.toNat < 2 ^ 16

/-- A group of `n` registers in a field that takes any readable code when `n` is 1 (R161). -/
def groupOr (n : Nat) (one : FieldKind) : FieldKind := if n ≤ 1 then one else .group n

/-- The 32-bit forms: OP6, shape and fields (R76). -/
def shortForm : Instr → Option (Nat × Shape × F32)
  | .nop f => some (0x00, .n, f)
  | .bra f => some (0x01, .j, f)
  | .call f => some (0x02, .j, f)
  | .ret f => some (0x03, .n, f)
  | .exit f => some (0x04, .n, f)
  | .yield f => some (0x05, .n, f)
  | .wait f => some (0x06, .w, f)
  | .barArrive f => some (0x07, .b, f)
  | .barWait f => some (0x08, .b, f)
  | .mov f => some (0x09, .m, f)
  | .trap f => some (0x0A, .t, f)
  | .brk f => some (0x0B, .t, f)
  | .jmp f => some (0x0C, .m, f)
  | _ => none

/-- The 64-bit and 96-bit forms: the encoding row and the fields. Counter, barrier, watch, collective, launch and `tfill`
instructions have no 96-bit form here, while cross-lane sources may name `%lit`; the descriptions of all of them are silent
(R66). (DEDUCED, log 25) -/
def longForm : Instr → Option (Row × F64)
  -- R76
  | .nopTwin f => some (noneRow 0x2C0 0 .never, f)
  | .braTwin f => some (noneRow 0x2C1 0 .must, f)
  | .callTwin f => some (noneRow 0x2C2 0 .must, f)
  | .retTwin f => some (noneRow 0x2C3 0 .never, f)
  | .exitTwin f => some (noneRow 0x2C4 0 .never, f)
  | .yieldTwin f => some (noneRow 0x2C5 0 .never, f)
  | .waitTwin f => some (noneRow 0x2C6 0 .never, f)
  | .barArriveTwin f => some (barRow 0x2C7 .zero .zero .zero 63, f)
  | .barWaitTwin f => some (barRow 0x2C8 .zero .zero .zero 63, f)
  | .movTwinReg f => some ({ unRow 0x2C9 [0] .never with lit := .never }, f)
  | .movTwinImm f => some ({ noneRow 0x2C9 1 .never with d := .dst, c := .imm 0 511 }, f)
  | .movTwinLit f => some ({ unRow 0x2C9 [0] .never with a := .litOnly, lit := .must }, f)
  | .trapTwin f => some ({ noneRow 0x2CA 0 .must with also := litCodeOk f.lit }, f)
  | .brkTwin f => some ({ noneRow 0x2CB 0 .must with also := litCodeOk f.lit }, f)
  | .jmpTwinReg f => some ({ noneRow 0x2CC 0 .never with a := .src }, f)
  | .jmpTwinLit f => some ({ noneRow 0x2CC 0 .must with a := .litOnly }, f)
  -- R117
  | .addInt t f => some (binRow (0x000 + t.idx) [0, 2] .never .dst f, f)
  | .subInt t f => some (binRow (0x008 + t.idx) [0, 2] .never .dst f, f)
  | .mulInt t f => some (binRow (0x010 + t.idx) [0, 2, 4] .never .dst f, f)
  | .mad t f => some (terRow (0x018 + t.idx) [0, 2] f, f)
  | .minInt t f => some (binRow (0x020 + t.idx) [0] .never .dst f, f)
  | .maxInt t f => some (binRow (0x028 + t.idx) [0] .never .dst f, f)
  | .abs t f => some (unRow (0x030 + t.idx) [0, 2] .never, f)
  | .neg t f => some (unRow (0x038 + t.idx) [0, 2] .never, f)
  -- R120
  | .andB f => some (binRow 0x040 [0] .never .dst f, f)
  | .orB f => some (binRow 0x041 [0] .never .dst f, f)
  | .xorB f => some (binRow 0x042 [0] .never .dst f, f)
  | .andnB f => some (binRow 0x043 [0] .never .dst f, f)
  | .notB f => some (unRow 0x044 [0] .never, f)
  | .shl t f => some (binRow (0x048 + t.idx) [0] .never .dst f, f)
  | .shr t f => some (binRow (0x04C + t.idx) [0] .never .dst f, f)
  | .sar t f => some (binRow (0x050 + t.idx) [0] .never .dst f, f)
  | .rot t f => some (binRow (0x054 + t.idx) [0] .never .dst f, f)
  | .bfx sg f => some ({ ter3Row (if sg then 0x059 else 0x058) [0] with b := .zero }, f)
  | .bfi f => some (ter3Row 0x05A [0], f)
  | .popc f => some (unRow 0x05B [0] .never, f)
  | .clz f => some (unRow 0x05C [0] .never, f)
  | .brev f => some (unRow 0x05D [0] .never, f)
  | .shrf f => some (terRow 0x05E [0] f, f)
  -- R125
  | .cmp cc t f => some (binRow (0x080 + 8 * cc.idx + t.idx) [0] .never .pred f, f)
  | .sel f => some ({ ter3Row 0x0B0 [0] with c := .pred }, f)
  | .selm f => some (ter3Row 0x0B1 [0], f)
  | .pand f => some ({ noneRow 0x0B8 0 .never with d := .pred, a := .pred, b := .pred }, f)
  | .por f => some ({ noneRow 0x0B9 0 .never with d := .pred, a := .pred, b := .pred }, f)
  | .pxor f => some ({ noneRow 0x0BA 0 .never with d := .pred, a := .pred, b := .pred }, f)
  | .pandn f => some ({ noneRow 0x0BB 0 .never with d := .pred, a := .pred, b := .pred }, f)
  -- R128
  | .div t f => some (binRow (0x0C0 + t.idx) [0] .may .dst f, f)
  | .rem t f => some (binRow (0x0C4 + t.idx) [0] .may .dst f, f)
  | .divm t f => some (binRow (0x0C8 + t.idx) [0] .may (.group 2) f, f)
  -- R132
  | .lea f => some ({ ter3Row 0x0E0 [1] with c := .imm 0 7 }, f)
  | .mvh f => some ({ unRow 0x0E1 [0] .never with lit := .must }, f)
  | .mvs f => some ({ noneRow 0x0E2 0 .must with d := .dst }, f)
  -- R134, R137
  | .addFloat t f => some (bin2Row (0x100 + t.idx) [0, 1, 2, 3] .never .dst, f)
  | .subFloat t f => some (bin2Row (0x104 + t.idx) [0, 1, 2, 3] .never .dst, f)
  | .mulFloat t f => some (bin2Row (0x108 + t.idx) [0, 1, 2, 3] .never .dst, f)
  | .fma t f => some (ter3Row (0x10C + t.idx) [0, 1, 2, 3], f)
  | .fnma t f => some (ter3Row (0x110 + t.idx) [0, 1, 2, 3], f)
  | .minFloat t f => some (bin2Row (0x140 + t.idx) [0] .never .dst, f)
  | .maxFloat t f => some (bin2Row (0x144 + t.idx) [0] .never .dst, f)
  | .fcmp t f => some (bin2Row (0x148 + t.idx) [0, 1, 2, 3, 4, 5, 6, 7] .never .pred, f)
  | .fclass t f => some (unRow (0x14C + t.idx) [0] .never, f)
  -- R141, R143
  | .frnd p f => some (unRow (0x180 + b2n p) [0, 1, 2, 3] .may, f)
  | .fexpf p f => some (unRow (0x182 + b2n p) [0, 1, 2, 3] .may, f)
  | .fscale p f => some (bin2Row (0x184 + b2n p) [0, 1, 2, 3] .may .dst, f)
  | .frcp p f => some (unRow (0x186 + b2n p) [0, 1, 2, 3] .may, f)
  | .frsqrt p f => some (unRow (0x188 + b2n p) [0, 1, 2, 3] .may, f)
  | .fsqrt p f => some (unRow (0x18A + b2n p) [0, 1, 2, 3] .may, f)
  | .flog2 p f => some (unRow (0x18C + b2n p) [0, 1, 2, 3] .may, f)
  | .cvt f =>
    some ({ unRow 0x1A0 [0, 1, 2, 3] .may with b := .imm 0 511, c := .imm 0 511, also := cvtOk f }, f)
  -- R154
  | .shfl t f => some (binRow (0x1C0 + t.idx) [0] .never .dst f, f)
  | .bcast f =>
    some (if f.md.getLsbD 0 then
        { opc := 0x1C4, mds := [1], d := .dstVW, a := .src, b := .zero, c := .imm 0 31, lit := .may, set := .never }
      else { opc := 0x1C4, mds := [0], d := .dstVW, a := .src, b := .src, c := .zero, lit := .may, set := .never }, f)
  | .ptestSome f => some ({ noneRow 0x1C5 0 .never with d := .pred, a := .pred }, f)
  | .ptestEvery f => some ({ noneRow 0x1C5 1 .never with d := .pred, a := .pred }, f)
  | .ptestAlike f => some ({ noneRow 0x1C5 2 .never with d := .pred, a := .pred }, f)
  | .pmask f => some ({ noneRow 0x1C5 3 .never with d := .dstVW, a := .pred }, f)
  | .redAdd t f => some (redRow (0x1C8 + t.idx) (if t.idx < 2 then [0, 4] else [0, 1, 2, 3, 4, 5, 6, 7]), f)
  | .redMin t f => some (redRow (0x1D0 + t.idx) [0, 4], f)
  | .redMax t f => some (redRow (0x1D8 + t.idx) [0, 4], f)
  | .redAnd f => some (redRow 0x1E0 [0], f)
  | .redOr f => some (redRow 0x1E1 [0], f)
  | .redXor f => some (redRow 0x1E2 [0], f)
  | .elect f => some ({ noneRow 0x1E8 0 .never with d := .pred }, f)
  -- R157, R160, R161, R172
  | .ld sp t f => some (memRow (0x200 + 8 * sp.idx + t.idx) (if t = .b128 then .group 2 else .dst) .zero [0, 1, 4] f, f)
  | .st sp t f => some (memRow (0x218 + 8 * sp.idx + t.idx) .zero (if t = .b128 then .group 2 else .src) [0, 2, 4] f, f)
  | .stA f => some (memRow 0x230 .zero .src [0] f, f)
  | .push f => some ({ noneRow 0x231 1 .never with a := groupOr f.c.toNat .src, c := .imm 1 8 }, f)
  | .pop f => some ({ noneRow 0x232 1 .never with d := groupOr f.c.toNat .dst, c := .imm 1 8 }, f)
  | .bsend f =>
    some ({ opc := 0x233, mds := [0], d := .src, a := .src, b := .src, c := .imm 0 511, lit := .must, set := .may,
            also := routeOk f.lit && (f.c.getLsbD 2 || f.c.toNat < 8) }, f)
  -- R162
  | .atomAdd t f => some (atomRow (0x240 + t.idx) .src, f)
  | .atomAnd t f => some (atomRow (0x244 + t.idx) .src, f)
  | .atomOr t f => some (atomRow (0x248 + t.idx) .src, f)
  | .atomXor t f => some (atomRow (0x24C + t.idx) .src, f)
  | .atomMin t f => some (atomRow (0x250 + t.idx) .src, f)
  | .atomMax t f => some (atomRow (0x254 + t.idx) .src, f)
  | .atomExch t f => some (atomRow (0x258 + t.idx) .src, f)
  | .atomCas t f => some (atomRow (0x25C + t.idx) (.group 2), f)
  | .atomFadd t f => some (atomRow (0x260 + t.idx) .src, f)
  -- R164, R166, R170
  | .fence f => some ({ noneRow 0x2A0 0 .never with c := .order [1, 2, 3, 4] }, f)
  | .watch f => some ({ noneRow 0x2A1 0 .never with mds := [0, 2, 4], a := .src }, f)
  | .mwait f => some (noneRow 0x2A2 0 .never, f)
  | .barArm f => some (barRow 0x280 .zero .src .zero 63, f)
  | .barCredit f => some (barRow 0x281 .zero .src .src 63, f)
  | .barQuery f => some (barRow 0x282 (.group 2) .zero .zero 63, f)
  | .barSpill f => some (barRow 0x283 .zero .src .zero 63, f)
  | .barFill f => some (barRow 0x284 .zero .src .zero 63, f)
  | .sbarArrive f => some (barRow 0x285 .zero .zero .zero 3, f)
  | .sbarWait f => some (barRow 0x286 .zero .zero .zero 3, f)
  | .cntAdd f =>
    some ({ opc := 0x290, mds := [0], d := .zero, a := .src, b := .src, c := .order [0, 2], lit := .never, set := .may }, f)
  | .cntFail f =>
    some ({ opc := 0x291, mds := [0], d := .zero, a := .src, b := .src, c := .order [2], lit := .never, set := .may }, f)
  | .cntWait f =>
    some ({ opc := 0x292, mds := [0], d := .pred, a := .src, b := .src, c := .order [1], lit := .never, set := .never }, f)
  | .cntPoll f =>
    some ({ opc := 0x293, mds := [0], d := .pred, a := .src, b := .src, c := .order [1], lit := .never, set := .never }, f)
  -- R175, R176, R202
  | .svc f =>
    some ({ opc := 0x2E2, mds := [0], d := .dst, a := .src, b := .src, c := .zero, lit := .must, set := .must,
            also := litCodeOk f.lit }, f)
  | .mfsr f => some ({ noneRow 0x2E0 1 .never with d := .dst, c := .imm 0 10 }, f)
  | .mtsr f => some ({ noneRow 0x2E1 1 .may with a := .srcWZ, c := .imm 0 1 }, f)
  | .causeclrReg f => some ({ noneRow 0x2F0 0 .never with a := .srcW }, f)
  | .causeclrLit f => some ({ noneRow 0x2F0 0 .must with a := .litOnly }, f)
  | .causeclrImm f => some ({ noneRow 0x2F0 1 .never with c := .imm 0 511 }, f)
  | .tret f => some (noneRow 0x2F1 0 .never, f)
  | .tabort f => some ({ noneRow 0x2F2 1 .never with c := .imm 0 127 }, f)
  -- R263
  | .cubeMmaBench f => some ({ noneRow 0x300 0 .may with a := if f.lit.isSome then .litOnly else .src, set := .may }, f)
  | .cubeMmaReg f => some ({ noneRow 0x300 1 .never with a := .group 8, set := .may }, f)
  | .cubeOutBench f => some ({ noneRow 0x301 0 .may with a := if f.lit.isSome then .litOnly else .src, set := .may }, f)
  | .cubeOutReg f => some ({ noneRow 0x301 1 .never with a := .group 8, set := .may }, f)
  | .cubeArd f =>
    some (if f.md.getLsbD 0 then
        { opc := 0x302, mds := [1, 3], d := .dstV, a := .src, b := .zero, c := .imm 0 511, lit := .never, set := .may }
      else { opc := 0x302, mds := [0, 2], d := .dstV, a := .src, b := .zero, c := .zero, lit := .may, set := .may }, f)
  | .cubeAwr f =>
    some (if f.md.getLsbD 0 then
        { opc := 0x303, mds := [1], d := .zero, a := .src, b := .src, c := .imm 0 511, lit := .never, set := .may }
      else { opc := 0x303, mds := [0], d := .zero, a := .src, b := .src, c := .zero, lit := .may, set := .may }, f)
  | .cubeAzero f =>
    some ({ noneRow 0x304 0 .may with a := .src, b := .src, also := f.lit.isNone || f.a.toNat == 449 || f.b.toNat == 449 }, f)
  | .cubeBld f =>
    some ({ opc := 0x305, mds := [1], d := .group f.c.toNat, a := .src, b := .zero, c := .imm 1 64, lit := .never,
            set := .may }, f)
  | .cubeQuery f => some ({ noneRow 0x306 0 .never with d := .dst }, f)
  -- R230
  | .xqueryReg f => some (chanRow 0x340 .dst .zero false 15, f)
  | .xqueryImm f => some (chanRow 0x340 .dst .zero true 15, f)
  | .xcancelReg f => some (chanRow 0x341 .dst .zero false 15, f)
  | .xcancelImm f => some (chanRow 0x341 .dst .zero true 15, f)
  -- R309
  | .collRun f => some ({ noneRow 0x360 0 .never with a := .src, set := .may }, f)
  | .collArm f => some ({ noneRow 0x361 0 .never with d := .pred, a := .src }, f)
  | .collRelReg f => some (chanRow 0x362 .zero .src false 31, f)
  | .collRelImm f => some (chanRow 0x362 .zero .src true 31, f)
  | .collDisarmReg f => some (chanRow 0x363 .dst .zero false 31, f)
  | .collDisarmImm f => some (chanRow 0x363 .dst .zero true 31, f)
  | .collQueryReg f => some (chanRow 0x364 .dst .zero false 31, f)
  | .collQueryImm f => some (chanRow 0x364 .dst .zero true 31, f)
  | .collCancel f => some ({ noneRow 0x365 0 .never with d := .dst }, f)
  -- R330, R43
  | .lnch f => some ({ noneRow 0x380 0 .never with d := .dst, a := .src, set := .may }, f)
  | .lcancel f => some ({ noneRow 0x381 0 .never with d := .dst, a := .src }, f)
  | .lquery f => some ({ noneRow 0x382 0 .never with d := .dst, a := .src }, f)
  | .regqImm f => some ({ noneRow 0x398 1 .never with d := .pred, c := .imm 0 511 }, f)
  | .regqReg f => some ({ noneRow 0x398 0 .never with d := .pred, a := .srcW }, f)
  -- R345
  | .tfill f =>
    some ({ opc := 0x3A0, mds := [0], d := .dst, a := .src, b := .src, c := .src, lit := .never, set := .may }, f)
  | .tinv f =>
    some ({ opc := 0x3A1, mds := [0], d := .dst, a := .src, b := .src, c := .zero, lit := .never, set := .may }, f)
  | .tprobe f => some ({ noneRow 0x3A2 0 .never with d := .dstV, a := .src }, f)
  | .treplayReg f => some (chanRow 0x3A3 .zero .src false 3, f)
  | .treplayImm f => some (chanRow 0x3A3 .zero .src true 3, f)
  | .hret f => some (noneRow 0x3A4 0 .never, f)
  | .csave f =>
    some ({ opc := 0x3A5, mds := [1], d := .zero, a := .src, b := .src, c := .imm 0 3, lit := .never, set := .may }, f)
  | .crestore f =>
    some ({ opc := 0x3A6, mds := [1], d := .zero, a := .src, b := .src, c := .imm 0 3, lit := .never, set := .may }, f)
  | .sreply f =>
    some ({ opc := 0x3A7, mds := [0], d := .zero, a := .src, b := .src, c := .zero, lit := .never, set := .never }, f)
  | _ => none

/-- Operand checks of the 32-bit forms `mov` and `jmp`, which name codes in BODY (R76, R77). -/
def shortOperandsOk : Instr → Bool
  | .mov f =>
    FieldKind.ok false (f.body.toNat % 512) .dst && FieldKind.ok false (f.body.toNat / 512) .src
  | .jmp f =>
    f.body.toNat % 512 == 0 && FieldKind.ok false (f.body.toNat / 512) .src
  | _ => true

/-- The key that a network request carries is a hash of 384 bits (R403). -/
def pathOk : MgmtPath → Bool
  | .network key => key < 2 ^ 384
  | .sideband | .host => true

/-- The ranges of the events' arguments: the module's counts of R1 and R8, and the sizes of the records that an
event carries. (DEDUCED, log 79) -/
def eventOk : Instr → Bool
  | .bundleFormation quad | .traceSample quad => quad < 8192
  | .threadUrgent thread => thread < 8192 * 16 * 32
  | .engineResourceFreed die => die < 4
  | .trapEntry warp => warp < 8192 * 16
  | .breakpointMatch warp lanes => warp < 8192 * 16 && lanes < 2 ^ 32
  | .groupStep warp lane | .laneExclusiveStep warp lane => warp < 8192 * 16 && lane < 32
  | .debugRegisterAccess warp lane reg _ => warp < 8192 * 16 && lane < 32 && reg < 512
  | .handlerInvocation core | .timeSliceExpiry core | .cubePass core _ _ | .cubeOpComplete core => core < 2048
  | .workgroupStop vgid | .saveDeadlineExpiry vgid | .workgroupEnd vgid => 0 < vgid && vgid < 2 ^ 24
  | .workgroupRestore vgid core => 0 < vgid && vgid < 2 ^ 24 && core < 2048
  | .displacement die owner => die < 4 && owner < 64
  | .transferLineLanded core chan | .transferPartComplete core chan => core < 2048 && chan < 16
  | .transferOpFail core chan bit => core < 2048 && chan < 16 && bit < 6
  | .kdtData head _ body | .kdtAck head body | .kdtNack head body => head.length == 32 && 16 ≤ body.length && body.length ≤ 8976
  | .ingestFrame port frame _ _ => port < 8 && frame.length < 2 ^ 16
  | .zoneCounterAddition owner zone _ => owner < 64 && zone < 32
  | .pfcPauseRepeat port cls => port < 8 && cls < 8
  | .pfcFrameReceived port classes times => port < 8 && classes < 256 && times.length == 8
  | .autodispDispatch owner | .fqdone owner _ | .dispatch owner _ | .fillgo owner _ | .invgo owner _ => owner < 64
  | .atsCompletion pasid _ _ _ | .hostInvalidation pasid _ _ => pasid < 2 ^ 20
  | .pageRequestResponse index pasid code => index < 512 && pasid < 2 ^ 20 && code < 16
  | .prgOrphanTimeout index => index < 512
  | .submit ifc offset pasid _ bytes => ifc < 4096 && offset < 128 && pasid < 2 ^ 20 && bytes.length ≤ 4096
  | .cancel ifc pasid _ => ifc < 4096 && pasid < 2 ^ 20
  | .registerWrite tgt offset bytes =>
    offset + bytes.length ≤ 4096 &&
    match tgt with
    | .ifcPage ifc pasid => ifc < 4096 && pasid < 2 ^ 20
    | .commandWindow path => pathOk path
  | .create cmd | .policy cmd | .allot cmd | .assign cmd | .unassign cmd | .run cmd | .pause cmd | .resume cmd
  | .evict cmd | .reset cmd | .destroy cmd | .flow cmd => cmd.length == 256
  | .pauseComplete owner | .evictComplete owner | .resumeEvictedComplete owner | .resetComplete owner => owner < 64
  | .flowPeerGrant handle grant => handle < 2 ^ 64 && grant.peer < 2 ^ 64
  | .flowGrantTimeout handle | .coreDump handle | .dumpPageCopy handle | .sessionRelease handle => handle < 2 ^ 64
  | .spdmRequest path index => pathOk path && index < 256
  | .spdmHandleQuery path handle => pathOk path && handle < 2 ^ 64
  | .firmwareUpdate path _ | .errorLogRead path => pathOk path
  | .portConfigWrite path port _ _ cls udp => pathOk path && port < 8 && cls < 8 && udp < 2 ^ 16
  | .managementKeyWrite path index hash => pathOk path && index < 4 && hash < 2 ^ 384
  | .clockPlanWrite path plan => pathOk path && plan.length == 328
  | .powerLimitCheck _ hottest => hottest < 4
  | .debugSessionOpen path handle keyHash scope _ bps trace =>
    pathOk path && handle < 2 ^ 64 && keyHash < 2 ^ 384 && scope < 3 && bps.length ≤ 8 &&
    match trace with
    | some (va, n) => va < 2 ^ 56 && n < 2 ^ 56
    | none => true
  | .debugMemoryAccess handle va _ => handle < 2 ^ 64 && va < 2 ^ 64
  | .causalTrialStart handle die _ _ delay _ progress =>
    handle < 2 ^ 64 && die < 4 && delay ≤ 4096 && progress.length ≤ 8
  | .causalTrialEnd die | .thermalThrottle die _ | .thermalShutdown die _ => die < 4
  | .operatingPointMove die point => die < 4 && point < 8
  | .thermalRelease celsius => celsius.length == 4
  | .serviceHartAccess owner addr _ => owner < 64 && addr < 2 ^ 56
  | _ => true

/-- The well-formed terms: the instructions that decode does not reject (R79 step 1), and the events whose
arguments are in range. (DEDUCED, log 25) -/
def Instr.wf (i : Instr) : Bool :=
  match shortForm i, longForm i with
  | some (_, sh, f), _ => sh.ok f.body.toNat && shortOperandsOk i
  | none, some (r, f) => r.ok f
  | none, none => eventOk i

/-- One more than the highest v code that a field names, 0 when it names none. -/
def FieldKind.vTop (x : Nat) : FieldKind → Nat
  | .src | .dst | .dstV | .dstVW => if x < 384 then x + 1 else 0
  | .group n => x + n
  | _ => 0

/-- One more than the highest v code the instruction names, with its register groups (R40, R79 step 3). -/
def Instr.vTop (i : Instr) : Nat :=
  match longForm i with
  | some (r, f) =>
    Nat.max (Nat.max (r.d.vTop f.d.toNat) (r.a.vTop f.a.toNat)) (Nat.max (r.b.vTop f.b.toNat) (r.c.vTop f.c.toNat))
  | none =>
    match i with
    | .mov f => Nat.max (FieldKind.vTop (f.body.toNat % 512) .dst) (FieldKind.vTop (f.body.toNat / 512) .src)
    | .jmp f => FieldKind.vTop (f.body.toNat / 512) .src
    | _ => 0

end Sys2Proof
end

