-- ==== Sys2Proof/Decode.lean ====
section
/-! DEFINITION. The decoder, total on any bytes and rejecting by name (R63–R66, R70–R79), then the encoder, both from
the encoding tables of the instruction chapters. -/

namespace Sys2Proof

/-- Why bytes do not decode. Each of them is the cause ILLEGAL of R79, but for `tooShort`, which says that the
byte list ends before the instruction does. -/
inductive DecodeError
  | tooShort
  | lengthReserved          -- LEN = 11 (R63)
  | opcodeUnassigned        -- an OP6 or major opcode that no row assigns (R76, R78)
  | fieldsIllegal           -- a field check of R79 step 1 fails
deriving DecidableEq, Repr

def IntTy.ofIdx (k : Nat) : IntTy :=
  match k with
  | 0 => .i8x8 | 1 => .n8x8 | 2 => .i16x4 | 3 => .n16x4 | 4 => .i32x2 | 5 => .n32x2 | 6 => .i64 | _ => .n64
def CmpTy.ofIdx (k : Nat) : CmpTy :=
  match k with
  | 0 => .i8 | 1 => .n8 | 2 => .i16 | 3 => .n16 | 4 => .i32 | 5 => .n32 | 6 => .i64 | _ => .n64
def SgnTy.ofIdx (k : Nat) : Option SgnTy :=
  match k with
  | 0 => some .i8x8 | 2 => some .i16x4 | 4 => some .i32x2 | 6 => some .i64 | _ => none
def ShTy.ofIdx (k : Nat) : ShTy :=
  match k with
  | 0 => .b8x8 | 1 => .b16x4 | 2 => .b32x2 | _ => .b64
def DivTy.ofIdx (k : Nat) : DivTy :=
  match k with
  | 0 => .i32x2 | 1 => .n32x2 | 2 => .i64 | _ => .n64
def FpTy.ofIdx (k : Nat) : FpTy :=
  match k with
  | 0 => .f32 | 1 => .f32x2 | 2 => .f16x4 | _ => .bf16x4
def FcTy.ofIdx (k : Nat) : Option FcTy :=
  match k with
  | 0 => some .f32 | 1 => some .f16 | 2 => some .bf16 | _ => none
def Cc.ofIdx (k : Nat) : Cc :=
  match k with
  | 0 => .eq | 1 => .ne | 2 => .lt | 3 => .le | 4 => .gt | _ => .ge
def RedAddTy.ofIdx (k : Nat) : Option RedAddTy :=
  match k with
  | 0 => some .b32x2 | 1 => some .b64 | 2 => some .f32 | 3 => some .f32x2 | 4 => some .f16x4 | 5 => some .bf16x4
  | _ => none
def RedMmTy.ofIdx (k : Nat) : Option RedMmTy :=
  match k with
  | 0 => some .i32x2 | 1 => some .n32x2 | 2 => some .i64 | 3 => some .n64 | 4 => some .f32 | 5 => some .f32x2
  | _ => none
def MemTy.ofIdx (k : Nat) : MemTy :=
  match k with
  | 0 => .b8 | 1 => .b16 | 2 => .b32 | 3 => .b64 | 4 => .b128 | 5 => .i8 | 6 => .i16 | _ => .i32
def StTy.ofIdx (k : Nat) : Option StTy :=
  match k with
  | 0 => some .b8 | 1 => some .b16 | 2 => some .b32 | 3 => some .b64 | 4 => some .b128 | _ => none
def AtTy.ofIdx (k : Nat) : AtTy :=
  match k with
  | 0 => .n32 | 1 => .i32 | 2 => .n64 | _ => .i64

/-- The instruction that OP6 selects (R76). -/
def classify32 (op6 : Nat) (f : F32) : Option Instr :=
  match op6 with
  | 0x00 => some (.nop f)
  | 0x01 => some (.bra f)
  | 0x02 => some (.call f)
  | 0x03 => some (.ret f)
  | 0x04 => some (.exit f)
  | 0x05 => some (.yield f)
  | 0x06 => some (.wait f)
  | 0x07 => some (.barArrive f)
  | 0x08 => some (.barWait f)
  | 0x09 => some (.mov f)
  | 0x0A => some (.trap f)
  | 0x0B => some (.brk f)
  | 0x0C => some (.jmp f)
  | _ => none

/-- The twins at 0x2C0–0x2CC (R76). -/
def classifyTwin (k : Nat) (f : F64) : Option Instr :=
  match k with
  | 0 => some (.nopTwin f)
  | 1 => some (.braTwin f)
  | 2 => some (.callTwin f)
  | 3 => some (.retTwin f)
  | 4 => some (.exitTwin f)
  | 5 => some (.yieldTwin f)
  | 6 => some (.waitTwin f)
  | 7 => some (.barArriveTwin f)
  | 8 => some (.barWaitTwin f)
  | 9 => some (if f.md.getLsbD 0 then .movTwinImm f else if f.lit.isSome then .movTwinLit f else .movTwinReg f)
  | 10 => some (.trapTwin f)
  | 11 => some (.brkTwin f)
  | 12 => some (if f.lit.isSome then .jmpTwinLit f else .jmpTwinReg f)
  | _ => none

/-- Logic, shifts and bit fields, 0x040–0x05F (R120). -/
def classifyLogic (k : Nat) (f : F64) : Option Instr :=
  match k / 8 with
  | 0 =>
    match k % 8 with
    | 0 => some (.andB f)
    | 1 => some (.orB f)
    | 2 => some (.xorB f)
    | 3 => some (.andnB f)
    | 4 => some (.notB f)
    | _ => none
  | 1 => some (if k % 8 < 4 then .shl (.ofIdx (k % 4)) f else .shr (.ofIdx (k % 4)) f)
  | 2 => some (if k % 8 < 4 then .sar (.ofIdx (k % 4)) f else .rot (.ofIdx (k % 4)) f)
  | 3 =>
    match k % 8 with
    | 0 => some (.bfx false f)
    | 1 => some (.bfx true f)
    | 2 => some (.bfi f)
    | 3 => some (.popc f)
    | 4 => some (.clz f)
    | 5 => some (.brev f)
    | 6 => some (.shrf f)
    | _ => none
  | _ => none

/-- Select and predicate logic, 0x0B0–0x0BF (R125). -/
def classifySelect (k : Nat) (f : F64) : Option Instr :=
  match k with
  | 0 => some (.sel f)
  | 1 => some (.selm f)
  | 8 => some (.pand f)
  | 9 => some (.por f)
  | 10 => some (.pxor f)
  | 11 => some (.pandn f)
  | _ => none

/-- Floating-point arithmetic at 0x100 (R134) and minimum to classify at 0x140 (R137). -/
def classifyFloat (k : Nat) (f : F64) : Option Instr :=
  match k / 4 with
  | 0 => some (.addFloat (.ofIdx (k % 4)) f)
  | 1 => some (.subFloat (.ofIdx (k % 4)) f)
  | 2 => some (.mulFloat (.ofIdx (k % 4)) f)
  | 3 => some (.fma (.ofIdx (k % 4)) f)
  | 4 => some (.fnma (.ofIdx (k % 4)) f)
  | 16 => some (.minFloat (.ofIdx (k % 4)) f)
  | 17 => some (.maxFloat (.ofIdx (k % 4)) f)
  | 18 => (FcTy.ofIdx (k % 4)).map (.fcmp · f)
  | 19 => (FcTy.ofIdx (k % 4)).map (.fclass · f)
  | _ => none

/-- Special functions, 0x180–0x18D (R141). -/
def classifySpecial (k : Nat) (f : F64) : Option Instr :=
  match k / 2 with
  | 0 => some (.frnd (k % 2 == 1) f)
  | 1 => some (.fexpf (k % 2 == 1) f)
  | 2 => some (.fscale (k % 2 == 1) f)
  | 3 => some (.frcp (k % 2 == 1) f)
  | 4 => some (.frsqrt (k % 2 == 1) f)
  | 5 => some (.fsqrt (k % 2 == 1) f)
  | 6 => some (.flog2 (k % 2 == 1) f)
  | _ => none

/-- Cross-lane, 0x1C0–0x1FF (R154). -/
def classifyLanes (k : Nat) (f : F64) : Option Instr :=
  match k / 8 with
  | 0 =>
    match k % 8 with
    | 4 => some (.bcast f)
    | 5 =>
      match f.md.toNat with
      | 0 => some (.ptestSome f)
      | 1 => some (.ptestEvery f)
      | 2 => some (.ptestAlike f)
      | 3 => some (.pmask f)
      | _ => none
    | 6 => none
    | 7 => none
    | t => some (.shfl (.ofIdx t) f)
  | 1 => (RedAddTy.ofIdx (k % 8)).map (.redAdd · f)
  | 2 => (RedMmTy.ofIdx (k % 8)).map (.redMin · f)
  | 3 => (RedMmTy.ofIdx (k % 8)).map (.redMax · f)
  | 4 =>
    match k % 8 with
    | 0 => some (.redAnd f)
    | 1 => some (.redOr f)
    | 2 => some (.redXor f)
    | _ => none
  | 5 => if k % 8 = 0 then some (.elect f) else none
  | _ => none

/-- Loads, stores, the aperture, the spill stack and `bsend`, 0x200–0x23F (R157). -/
def classifyMemory (k : Nat) (f : F64) : Option Instr :=
  match k / 8 with
  | 0 => some (.ld .global (.ofIdx (k % 8)) f)
  | 1 => some (.ld .bench (.ofIdx (k % 8)) f)
  | 2 => some (.ld .marver (.ofIdx (k % 8)) f)
  | 3 => (StTy.ofIdx (k % 8)).map (.st .global · f)
  | 4 => (StTy.ofIdx (k % 8)).map (.st .bench · f)
  | 5 => (StTy.ofIdx (k % 8)).map (.st .marver · f)
  | 6 =>
    match k % 8 with
    | 0 => some (.stA f)
    | 1 => some (.push f)
    | 2 => some (.pop f)
    | 3 => some (.bsend f)
    | _ => none
  | _ => none

/-- Atomics, 0x240–0x27F (R162). -/
def classifyAtomic (k : Nat) (f : F64) : Option Instr :=
  match k / 4 with
  | 0 => some (.atomAdd (.ofIdx (k % 4)) f)
  | 1 => some (.atomAnd (.ofIdx (k % 4)) f)
  | 2 => some (.atomOr (.ofIdx (k % 4)) f)
  | 3 => some (.atomXor (.ofIdx (k % 4)) f)
  | 4 => some (.atomMin (.ofIdx (k % 4)) f)
  | 5 => some (.atomMax (.ofIdx (k % 4)) f)
  | 6 => some (.atomExch (.ofIdx (k % 4)) f)
  | 7 => some (.atomCas (.ofIdx (k % 4)) f)
  | 8 =>
    match k % 4 with
    | 0 => some (.atomFadd .f32 f)
    | 1 => some (.atomFadd .bf16x2 f)
    | _ => none
  | _ => none

/-- Barriers, counters and monitors, 0x280–0x2BF (R164, R166, R170). -/
def classifySync (k : Nat) (f : F64) : Option Instr :=
  match k with
  | 0x00 => some (.barArm f)
  | 0x01 => some (.barCredit f)
  | 0x02 => some (.barQuery f)
  | 0x03 => some (.barSpill f)
  | 0x04 => some (.barFill f)
  | 0x05 => some (.sbarArrive f)
  | 0x06 => some (.sbarWait f)
  | 0x10 => some (.cntAdd f)
  | 0x11 => some (.cntFail f)
  | 0x12 => some (.cntWait f)
  | 0x13 => some (.cntPoll f)
  | 0x20 => some (.fence f)
  | 0x21 => some (.watch f)
  | 0x22 => some (.mwait f)
  | _ => none

/-- System registers, `svc` and the trap instructions, 0x2E0–0x2FF (R175, R176, R202). -/
def classifySystem (k : Nat) (f : F64) : Option Instr :=
  match k with
  | 0x00 => some (.mfsr f)
  | 0x01 => some (.mtsr f)
  | 0x02 => some (.svc f)
  | 0x10 =>
    some (if f.md.getLsbD 0 then .causeclrImm f else if f.lit.isSome then .causeclrLit f else .causeclrReg f)
  | 0x11 => some (.tret f)
  | 0x12 => some (.tabort f)
  | _ => none

/-- The engines' instructions: cube, transfer, collective, launch and handler support, 0x300–0x3BF. -/
def classifyEngine (k : Nat) (f : F64) : Option Instr :=
  match k with
  | 0x00 => some (if f.md.getLsbD 0 then .cubeMmaReg f else .cubeMmaBench f)
  | 0x01 => some (if f.md.getLsbD 0 then .cubeOutReg f else .cubeOutBench f)
  | 0x02 => some (.cubeArd f)
  | 0x03 => some (.cubeAwr f)
  | 0x04 => some (.cubeAzero f)
  | 0x05 => some (.cubeBld f)
  | 0x06 => some (.cubeQuery f)
  | 0x40 => some (if f.md.getLsbD 0 then .xqueryImm f else .xqueryReg f)
  | 0x41 => some (if f.md.getLsbD 0 then .xcancelImm f else .xcancelReg f)
  | 0x60 => some (.collRun f)
  | 0x61 => some (.collArm f)
  | 0x62 => some (if f.md.getLsbD 0 then .collRelImm f else .collRelReg f)
  | 0x63 => some (if f.md.getLsbD 0 then .collDisarmImm f else .collDisarmReg f)
  | 0x64 => some (if f.md.getLsbD 0 then .collQueryImm f else .collQueryReg f)
  | 0x65 => some (.collCancel f)
  | 0x80 => some (.lnch f)
  | 0x81 => some (.lcancel f)
  | 0x82 => some (.lquery f)
  | 0x98 => some (if f.md.getLsbD 0 then .regqImm f else .regqReg f)
  | 0xA0 => some (.tfill f)
  | 0xA1 => some (.tinv f)
  | 0xA2 => some (.tprobe f)
  | 0xA3 => some (if f.md.getLsbD 0 then .treplayImm f else .treplayReg f)
  | 0xA4 => some (.hret f)
  | 0xA5 => some (.csave f)
  | 0xA6 => some (.crestore f)
  | 0xA7 => some (.sreply f)
  | _ => none

/-- The instruction that the major opcode selects (R78). -/
def classify64 (opc : Nat) (f : F64) : Option Instr :=
  if opc < 0x040 then
    match opc / 8 with
    | 0 => some (.addInt (.ofIdx (opc % 8)) f)
    | 1 => some (.subInt (.ofIdx (opc % 8)) f)
    | 2 => some (.mulInt (.ofIdx (opc % 8)) f)
    | 3 => some (.mad (.ofIdx (opc % 8)) f)
    | 4 => some (.minInt (.ofIdx (opc % 8)) f)
    | 5 => some (.maxInt (.ofIdx (opc % 8)) f)
    | 6 => (SgnTy.ofIdx (opc % 8)).map (.abs · f)
    | _ => (SgnTy.ofIdx (opc % 8)).map (.neg · f)
  else if opc < 0x080 then classifyLogic (opc - 0x040) f
  else if opc < 0x0B0 then some (.cmp (.ofIdx ((opc - 0x080) / 8)) (.ofIdx (opc % 8)) f)
  else if opc < 0x0C0 then classifySelect (opc - 0x0B0) f
  else if opc < 0x0E0 then
    match (opc - 0x0C0) / 4 with
    | 0 => some (.div (.ofIdx (opc % 4)) f)
    | 1 => some (.rem (.ofIdx (opc % 4)) f)
    | 2 => some (.divm (.ofIdx (opc % 4)) f)
    | _ => none
  else if opc < 0x100 then
    match opc - 0x0E0 with
    | 0 => some (.lea f)
    | 1 => some (.mvh f)
    | 2 => some (.mvs f)
    | _ => none
  else if opc < 0x180 then classifyFloat (opc - 0x100) f
  else if opc < 0x1A0 then classifySpecial (opc - 0x180) f
  else if opc < 0x1C0 then (if opc = 0x1A0 then some (.cvt f) else none)
  else if opc < 0x200 then classifyLanes (opc - 0x1C0) f
  else if opc < 0x240 then classifyMemory (opc - 0x200) f
  else if opc < 0x280 then classifyAtomic (opc - 0x240) f
  else if opc < 0x2C0 then classifySync (opc - 0x280) f
  else if opc < 0x2E0 then classifyTwin (opc - 0x2C0) f
  else if opc < 0x300 then classifySystem (opc - 0x2E0) f
  else classifyEngine (opc - 0x300) f

/-- The fields of a 32-bit word (R74). -/
def fields32 (w : Nat) : F32 where
  neg := bitOf w 11
  pred := BitVec.ofNat 3 (w / 2 ^ 8)
  body := BitVec.ofNat 20 (w / 2 ^ 12)

/-- The fields of a 64-bit word pair, with the literal of a 96-bit form (R65, R66). -/
def fields64 (w : Nat) (lit : Option (BitVec 32)) : F64 where
  md := BitVec.ofNat 3 (w / 2 ^ 61)
  set := BitVec.ofNat 3 (w / 2 ^ 58)
  wait := BitVec.ofNat 6 (w / 2 ^ 52)
  neg := bitOf w 51
  pred := BitVec.ofNat 3 (w / 2 ^ 48)
  c := BitVec.ofNat 9 (w / 2 ^ 39)
  b := BitVec.ofNat 9 (w / 2 ^ 30)
  a := BitVec.ofNat 9 (w / 2 ^ 21)
  d := BitVec.ofNat 9 (w / 2 ^ 12)
  lit := lit

/-- Accept a classified instruction when it passes the checks of R79 step 1. -/
def admitInstr (i : Option Instr) : Except DecodeError Instr :=
  match i with
  | none => .error .opcodeUnassigned
  | some i => if i.wf then .ok i else .error .fieldsIllegal

/-- Decode the first word of a 32-bit instruction. -/
def decode32 (w : Nat) : Except DecodeError Instr := admitInstr (classify32 (bitsOf w 7 2) (fields32 w))

/-- Decode the first two words of a longer instruction, with its literal if it has one. -/
def decode64 (w : Nat) (lit : Option (BitVec 32)) : Except DecodeError Instr :=
  admitInstr (classify64 (bitsOf w 11 2) (fields64 w lit))

/-- The length in bytes that the first byte's two low bits give, 0 for the reserved code (R63). -/
def lengthOf (first : Nat) : Nat :=
  match first % 4 with
  | 0 => 4
  | 1 => 8
  | 2 => 12
  | _ => 0

/-- Decode the instruction at the front of a byte list, with the bytes that follow it. -/
def decode (bs : List Byte) : Except DecodeError (Instr × List Byte) :=
  match bs with
  | [] => .error .tooShort
  | b :: _ =>
    match lengthOf b.toNat with
    | 0 => .error .lengthReserved
    | n =>
      if bs.length < n then .error .tooShort
      else
        let w := leNat (bs.take 8)
        let i := match n with
          | 4 => decode32 (leNat (bs.take 4))
          | 8 => decode64 w none
          | _ => decode64 w (some (BitVec.ofNat 32 (leNat ((bs.drop 8).take 4))))
        match i with
        | .error e => .error e
        | .ok i => .ok (i, bs.drop n)

/-- The bits of a 32-bit instruction (R74). -/
def pack32 (op6 : Nat) (f : F32) : Nat :=
  4 * op6 + 2 ^ 8 * f.pred.toNat + 2 ^ 11 * b2n f.neg + 2 ^ 12 * f.body.toNat

/-- The low 64 bits of a longer instruction (R65). -/
def pack64 (opc : Nat) (f : F64) : Nat :=
  (if f.lit.isSome then 2 else 1) + 4 * opc + 2 ^ 12 * f.d.toNat + 2 ^ 21 * f.a.toNat + 2 ^ 30 * f.b.toNat +
    2 ^ 39 * f.c.toNat + 2 ^ 48 * f.pred.toNat + 2 ^ 51 * b2n f.neg + 2 ^ 52 * f.wait.toNat +
    2 ^ 58 * f.set.toNat + 2 ^ 61 * f.md.toNat

/-- The bytes of an instruction, in memory order (R5, R63). An event has none. -/
def encode (i : Instr) : List Byte :=
  match shortForm i, longForm i with
  | some (op6, _, f), _ => leBytes 4 (pack32 op6 f)
  | none, some (r, f) =>
    match f.lit with
    | none => leBytes 8 (pack64 r.opc f)
    | some l => leBytes 8 (pack64 r.opc f) ++ leBytes 4 l.toNat
  | none, none => []

/-- The instruction the decoder reads from an instruction whose bits are `w`, bit 0 the least significant bit of its
first word. Every bit above `nbits` is 0. -/
def decodeTableWord (nbits w : Nat) : Option Instr :=
  match decode (leBytes 12 (w % 2 ^ nbits)) with
  | .ok (i, _) => some i
  | .error _ => none

end Sys2Proof
end

