-- ==== Sys2Proof/Machine/State.lean ====
section
/-! DEFINITION. The state of a Jalyar J8 module as plain data: every piece of state the spec gives the machine, the
inputs that wait to be taken (the agenda), and the machine after a module reset (R421). Large collections are
sparse maps in one canonical form: keys strictly rising, no entry equal to the default that an unlisted key reads
as. A key is a number built in Sys2Proof/Machine/Ops.lean (a warp, a thread, a register of a thread, a byte of a bench). -/

namespace Sys2Proof.Machine

/-- A sparse map from numbers; an unlisted key reads as `default`. -/
abbrev SMap (α : Type) := List (Nat × α)

/-! ### Threads and warps (R29, R32–R45, R53, R56) -/

/-- The wait a thread stands in (R56), with what R56 records for the scheduler. -/
inductive Wait
  | ready                                    -- in the ready set
  | scoreboard (mask : Nat)                  -- until every slot of the mask is clear
  | resource                                 -- an engine resource (R22), a channel, a mailbox or a queue place
  | translation (access : Nat) (misses : List (Nat × Nat))  -- a walk, a fault entry or a page request (R335): the access's
                                             -- number, and the granule and address of each place of this lane still missing
  | barrier (set : Bool) (entry phase : Nat) -- until PHASE differs
  | counter (addr target : Nat)              -- until value ≥ target or a status bit is set (R16)
  | presence (marver : Bool) (lines : List Nat)  -- until every line is present (R24)
  | monitor                                  -- until the monitor fires (R165)
  | rendezvous                               -- until every live thread of the warp arrives (R38)
  | formation                                -- until the next formation (R36)
  | result (pid : Nat)                       -- until the thread's own instruction is complete (R115, R149)
deriving DecidableEq, Repr, Inhabited

/-- The arrival record of a thread (R167), and the record of a barrier wait. -/
structure Arrival where
  set   : Bool    -- a set barrier (R169): `entry` is then k
  entry : Nat
  phase : Nat
deriving DecidableEq, Repr, Inhabited

/-- Where a locked range lies. `global` ranges are owner virtual, `phys` ranges device physical (R229). -/
inductive LockSpace
  | global (owner : Nat)
  | phys
  | bench (core : Nat)
  | marver (die : Nat)
  | acc (core : Nat)
  | bhold (warp : Nat)
deriving DecidableEq, Repr, Inhabited

structure Thread where
  live     : Bool              -- R33
  pc       : Word
  preds    : BitVec 7          -- p0–p6; p7 is constant true (R29)
  slots    : BitVec 6          -- sb0–sb5 (R68)
  spd      : Nat               -- spill depth in words (R150)
  wait     : Wait              -- R56
  since    : Nat               -- the tick at which the thread became ready (R39)
  urgent   : Bool              -- ready for 192 cycles (R39)
  wcode    : Nat               -- the wait it was last withdrawn from, coded as in R198
  arrival  : Option Arrival    -- R167
  awaited  : Option Arrival    -- the barrier phase a wait stands on (R167, R201)
  passed   : Bool              -- a completion has satisfied its barrier wait, which has not issued again yet (R18)
  acqSlots : BitVec 6          -- slots an acquire adds to later memory accesses (R149)
  monitor  : Word              -- the monitor in the form of WATCH (R176)
  monLine  : Option (LockSpace × Nat)  -- the watched line, named as the race directory names it (R165, R188)
  fired    : Bool              -- the watched line has been written since the watch (R165)
  raised   : Bool              -- the thread raised a synchronous cause at its PC (R198)
  faultVa  : Word              -- ADDR of the trap frame (R198)
  code     : Nat               -- CODE of the trap frame (R198)
deriving DecidableEq, Repr, Inhabited

structure Warp where
  live      : Bool             -- the slot holds a warp (R41)
  vgid      : Nat              -- its workgroup's VGID, 0 for the supervisor warp (R55)
  index     : Nat              -- warp index in the workgroup (R53)
  owner     : Nat
  units     : List Nat         -- the unit map (R40); its length is the quota in units
  flags     : BitVec 9         -- sticky flags (R101)
  fen       : BitVec 9         -- trap enables (R102)
  cause     : BitVec 32        -- R195
  syncNew   : Bool             -- a synchronous cause waits for trap entry (R196)
  asyncNew  : Bool             -- an asynchronous cause waits to be taken at once (R196)
  inHandler : Bool             -- R197
  spBase    : Word             -- R150
  spLen     : Nat
  frameFail : Bool             -- a trap frame's page was refused (R197)
  stopped   : Bool             -- stopped at an instruction boundary (R206, R407)
  stepping  : Bool             -- a debugger's step runs in it (R408)
deriving DecidableEq, Repr, Inhabited

/-! ### Barrier entries, locks, translations -/

/-- A barrier table entry (R17). -/
structure BarEntry where
  vgid  : Nat
  v     : Bool
  phase : Nat
  expA  : Nat
  cntA  : Nat
  expB  : Nat
  cntB  : Nat
deriving DecidableEq, Repr, Inhabited

/-- What a range lock guards (R20). -/
inductive LockKind | read | write | counter
deriving DecidableEq, Repr, Inhabited

structure RLock where
  op    : Nat          -- the engine operation or zone that holds it
  rid   : Nat          -- which of its ranges this is part of (R224)
  die   : Nat          -- the die whose 256 entries per owner it counts against (R22); 4 for core-local locks
  owner : Nat
  space : LockSpace
  kind  : LockKind
  lo    : Nat
  hi    : Nat          -- one past the end
deriving DecidableEq, Repr, Inhabited

/-- A TLB entry (R334, R346). -/
structure TlbEntry where
  owner : Nat
  va    : Nat
  frame : Nat
  size  : Nat          -- 0 64 KiB, 1 2 MiB, 2 512 MiB, 3 16 GiB
  tier  : Nat
  ifc   : Nat
  uc    : Bool
  r     : Bool
  w     : Bool
  x     : Bool
  pin   : Bool
  epoch : Nat          -- the invocation count at which it was installed or last widened
deriving DecidableEq, Repr, Inhabited

/-- An open line of a die's race directory (R188). -/
structure OpenLine where
  die   : Nat
  space : LockSpace
  line  : Nat          -- the line's base address, or its device physical base for a global line
  vgid  : Nat
  mask  : Nat          -- granule mask
deriving DecidableEq, Repr, Inhabited

/-- Granules that an engine operation part or a `bsend` copy has opened (R189). -/
structure Opened where
  space : LockSpace
  line  : Nat
  mask  : Nat
deriving DecidableEq, Repr, Inhabited

/-! ### Accesses and results in flight -/

/-- Where the bytes of a translated access lie. Bench and marver bytes are named by their key in the state. -/
inductive Loc
  | dev (pa : Nat)                            -- GDDR-7 or LPDDR-6
  | host (ifc pasid : Nat) (addr : Nat) (uc : Bool)
  | bench (key : Nat)
  | marver (key : Nat)
deriving DecidableEq, Repr, Inhabited

/-- One lane's part of a pending access or result. -/
structure LaneWork where
  lane  : Nat
  va    : Nat          -- virtual address or offset
  loc   : Loc
  data  : Word
  data2 : Word
deriving DecidableEq, Repr, Inhabited

/-- What a pending instruction still has to do (R30, R68, R116, R158). -/
inductive Work
  | writeRegs (ws : List (Nat × Nat × Word))                       -- lane, register, value
  | load (sp : Space) (t : MemTy) (d : Nat) (ls : List LaneWork)
  | store (sp : Space) (bytes scope : Nat) (ls : List LaneWork)
  | atomic (sp : Space) (op t d scope : Nat) (ls : List LaneWork)
  | cntAdd (scope : Nat) (ls : List LaneWork)
  | cntFail (scope : Nat) (ls : List LaneWork)
  | slotOnly                                                       -- an engine event clears it
deriving DecidableEq, Repr, Inhabited

/-- The unit that completes a pending instruction. -/
inductive WorkUnit | memory | bsend | divider | special | conversion | engine | tfill | tinv | lnch
deriving DecidableEq, Repr, Inhabited

structure Pending where
  pid   : Nat
  unit  : WorkUnit
  warp  : Nat
  lanes : List Nat
  slot  : Nat          -- 1–6, or 0 for an instruction without a slot
  flags : BitVec 9     -- flags it sets when it completes (R101)
  acq   : Option Nat   -- the scope at which its completion is an acquire (R149)
  rel   : Bool := false  -- its completion completes a release (R189)
  work  : Work
  outer : Bool := false   -- it belongs to the depth-1 state that a nested walk has put away (R364)
  more  : List Nat := []  -- lanes of the same instruction that still wait for acceptance (R264)
  after : List Nat := []  -- engine operations that must end before it completes (R231, R312)
deriving DecidableEq, Repr, Inhabited

/-- A store that the core's memory port, or the cross-die path, has accepted and its home has not yet performed (R178). -/
structure PortStore where
  pid   : Nat
  core  : Nat
  owner : Nat
  vgid  : Nat
  va    : Nat
  loc   : Loc
  bytes : List Byte
  cross : Bool         -- it stands on the ordered path from its die to its home die (R178)
deriving DecidableEq, Repr, Inhabited

/-! ### Engine operations -/

/-- What a lane has read for a hand-off whose acceptance it waits for: a template, a parameter block or a descriptor
(R218, R264, R306). -/
structure Asked where
  warp  : Nat
  lane  : Nat
  chan  : Nat          -- the channel of a transfer
  words : List Word
deriving DecidableEq, Repr, Inhabited

/-- Who waits on a walk request or a fault entry. -/
inductive Requester
  | thread (warp access : Nat)   -- the number of the access that waits; 0 for the frames of a trap entry (R197)
  | engine (op : Nat)
  | launch (l : Nat)
  | handler (core : Nat)
  | parked                 -- the oldest parked host write (R405)
  | debug (owner : Nat)    -- the debugger of an owner's session (R407)
deriving DecidableEq, Repr, Inhabited


/-- A transfer operation (R215–R228): its template as read at acceptance, and what OFF adds to its bases (R216). -/
structure XferOp where
  op     : Nat
  vgid   : Nat
  owner  : Nat
  warp   : Nat          -- the issuing warp's index in its workgroup
  tmplIx : Nat
  tmpl   : List Word
  soff   : Int
  doff   : Int
  parts  : Nat          -- parts completed
  landed : Nat          -- destination lines or blocks of the running part that have landed
  used   : List Nat     -- granules that the running part has translated (R226)
  pages  : List (Nat × Nat)  -- PASID and 4 KiB page of the host addresses it has used (R369)
  wrote  : List Opened  -- lines that the running part has opened (R189)
  sent   : Option (Nat × Loc)  -- its credit travels: the message, and the place of the counter (R52, R225)
  paused : Bool         -- R228
  refused : Bool        -- a translation it waits for was refused (R350)
  ended  : Option (Nat × Bool × Bool)  -- it has failed: status bit; MEMRACE and ENGINE to record (R226)
deriving DecidableEq, Repr, Inhabited

/-- A cube operation (R258–R271). -/
structure CubeOp where
  op     : Nat
  vgid   : Nat
  owner  : Nat
  warp   : Nat          -- the issuing warp's index in its workgroup
  lane   : Nat
  pid    : Nat          -- the pending instruction whose slot it holds, 0 for none
  ready  : Bool         -- it has passed every step of acceptance (R264)
  block  : List Word
  tags   : Option (List Nat)  -- the tags of B, once read (R261)
  pass   : Nat          -- passes or 16 × 16 blocks finished
  badCols : List Nat    -- the columns that mismatched when the running pass last ran (R254)
  replay : Bool         -- a replay of the running pass is owed (R254)
  wrote  : List Opened  -- destination lines opened (R268)
  sent   : Option Nat   -- its credit travels in this message (R52, R268)
  refused : Bool        -- a translation it waits for was refused (R350)
deriving DecidableEq, Repr, Inhabited

/-- A `bsend` copy on its way (R172–R174). -/
structure BsendCopy where
  id     : Nat
  core   : Nat          -- the destination core
  setV   : Nat          -- the set instance's VGID
  vgid   : Nat          -- the sender's
  owner  : Nat
  offset : Nat
  datum  : Word
  entry  : Option Nat
  warp   : Nat           -- the sender's
  index  : Nat           -- that warp's index in its workgroup
  ctr    : Nat           -- the sender's counter; `ctrOn` says whether it named one
  ctrOn  : Bool
  landed : Option (Bool × Bool × Nat)  -- once it has landed: whether its word was written, whether it or its credit was
                                       -- dropped, and further status bits
deriving DecidableEq, Repr, Inhabited

/-- An arrival or credit on its way to an entry by VGID (R19). -/
structure CreditMsg where
  id    : Nat
  vgid  : Nat           -- of the entry
  src   : Nat           -- the VGID of the workgroup whose operation sends it
  core  : Nat
  entry : Nat
  arr   : Nat
  bytes : Nat
  owner : Nat
  warp  : Nat           -- the issuing warp's index
  op    : Nat           -- the operation whose part waits for the answer
  result : Option Nat   -- the answer: 0 credited, 1 dropped, 2 it would pass a field (R18, R19, R225)
deriving DecidableEq, Repr, Inhabited

/-- A collective operation (R300–R308). -/
structure CollOp where
  op     : Nat
  die    : Nat
  vgid   : Nat
  owner  : Nat
  warp   : Nat          -- the issuing warp's index in its workgroup
  desc   : List Word
  ranks  : List (Nat × Nat × Nat)   -- FKEY, DIE, ADDR of each rank (R302); empty until the table is read
  seq    : Nat                       -- the operation's number on its GROUP and rank (R303)
  mine   : Bool                      -- its own contribution has been read and sent
  used   : List Nat                  -- granules translated (R226)
  pages  : List (Nat × Nat)          -- PASID and 4 KiB page of the host addresses used (R369)
  wrote  : List Opened    -- destination lines opened
  sent   : Option (Nat × Loc)        -- its credit travels: the message, and the place of the counter (R52, R308)
  refused : Bool                     -- a translation it waits for was refused (R350)
  told   : Bool                      -- it has failed, and its peers have been told or cannot be (R303)
  ended  : Option (Nat × Bool × Bool)  -- it has failed: status bit; MEMRACE and ENGINE to record (R226, R308)
deriving DecidableEq, Repr, Inhabited

/-- What one rank brings to a matched operation (R303): held until every rank on this device has taken it. -/
structure Contrib where
  owner  : Nat
  group  : Nat
  rank   : Nat
  die    : Option Nat    -- the die that issued it, none for a rank on another device
  via    : Nat           -- the flow-key handle of the flow that brought it; 0 for a rank on this device
  seq    : Nat
  desc   : List Word
  src    : List Byte
  tags   : List Byte
  failed : Bool
  taken  : List Nat      -- ranks on this device whose operation has ended
deriving DecidableEq, Repr, Inhabited

/-- A landing zone (R294–R299). -/
structure Zone where
  armed   : Bool
  revoked : Bool
  paused  : Bool
  port    : Nat
  cls     : Nat
  daddr   : Nat
  udpdst  : Nat
  base    : Nat
  z       : Nat
  ctr     : Nat
  xoff    : Nat
  xon     : Nat
  seqen   : Bool
  seqoff  : Nat
  strip   : Nat
  w       : Nat
  rd      : Nat
  drops   : Nat
  pend    : Nat
  uncounted : Nat       -- landed bytes not yet added to the counter (R296)
  queue   : List (List Byte)  -- records that wait for a translation, oldest first
  closing : Bool        -- `coll.disarm` waits for its records and additions (R311)
  refused : Bool        -- a translation it waits for was refused
  status  : Nat         -- status bits still to be set in the counter (R299)
  die     : Nat         -- the die whose engine armed it
  op      : Nat         -- the holder number of its locks
deriving DecidableEq, Repr, Inhabited

/-- A KDT datagram that a flow has to send (R292). -/
structure Datagram where
  type   : Nat          -- 1 data, 2 acknowledgement, 3 negative acknowledgement
  psn    : Nat          -- taken when it first leaves
  opid   : Nat
  offset : Nat
  last   : Bool
  bytes  : List Byte    -- its payload
  wire   : List Byte    -- as it first left: header, encrypted payload, tag; empty until then
deriving DecidableEq, Repr, Inhabited

/-- A KDT flow (R292, R293, R388). -/
structure Flow where
  live     : Bool
  owner    : Nat
  peer     : Nat          -- peer handle
  addr     : Nat          -- the IPv6 address of the peer's device, as the last rank table that names the flow gives it (R302)
  key      : Nat          -- the flow-key handle
  secret   : Nat          -- the AES-256 key that the two Crucibles agreed
  side     : Bool         -- the direction bit of what this device sends
  sendPsn  : Nat          -- next PSN to send
  ackedPsn : Nat          -- all below are acknowledged
  recvNext : Nat          -- lowest PSN not received
  recvGot  : List Nat     -- PSNs received beyond it, within the window of 256
  inbox    : List (Nat × Nat × Bool × List Byte)  -- received payloads of unfinished streams: OPID, OFFSET, LAST, bytes
  unacked  : List Datagram  -- datagrams sent and not yet acknowledged, oldest first
  queue    : List Datagram  -- datagrams that wait to leave, oldest first
  nextNs   : Nat          -- the time before which its rate lets none leave
  nacked   : Option Nat   -- the first gap for which a negative acknowledgement has been queued
  retries  : Nat          -- retransmissions of the oldest unacknowledged PSN
  rate     : Nat          -- sending rate; 2^20 is the port rate
  ece      : Bool         -- a congestion mark to echo
  dropped  : Nat
  failed   : Bool
deriving DecidableEq, Repr, Inhabited

/-! ### Workgroups, sets, launches -/

/-- Where a workgroup stands in its life (R33, R206, R210). -/
inductive WgPhase | none | resident | stopping | saved | restoring
deriving DecidableEq, Repr, Inhabited

structure Workgroup where
  phase     : WgPhase
  launch    : Nat
  owner     : Nat
  index     : Nat            -- %wgid
  core      : Nat
  q0        : Nat
  warps     : List Nat       -- warp ids by warp index; empty while saved
  benchBase : Nat
  benchLen  : Nat            -- bytes
  accBase   : Nat            -- offset of its share within each quad's 32 KiB
  accKiB    : Nat
  barCore   : Nat            -- the core that holds its entries (R209)
  bars      : List Nat       -- entry numbers by index (R46)
  free      : List Nat       -- free-unit counts of the four quads (R42)
  freeUnits : List Nat       -- the freed units themselves, quad-major: quad*16 + unit
  spill     : Option (Nat × Nat)  -- base and bytes of its spill areas
  sets      : List Nat       -- set-instance VGIDs in increasing set index
  order     : Nat            -- placement number, for R327 and R328
  frame     : Option (Nat × Nat)  -- the save frame: owner core index, directory slot (R354)
  cubeErr   : Nat            -- ERR of R276
  cubeDone  : Nat            -- DONE of R276
  dumpHeld  : Bool                    -- saved for a dump and not yet released (R411)
  displaced : Bool                    -- it was saved for displacement and waits for its wait to be satisfied (R328)
  roomFor   : Option (Nat × Nat)      -- the launch and index of the workgroup that its displacement made room for (R328)
  quotas    : List Nat                -- units of each warp while it is away (R207)
  waits     : List (Nat × Wait)       -- the waits recorded at its stop (R56), with the warp index
  savedX    : List (Nat × XferOp)     -- paused transfers with their channel (R228)
  savedC    : List CubeOp             -- paused cube operations (R271)
  savedL    : List RLock              -- their core-local locks, by place in the allotment (R207)
  savedO    : List OpenLine           -- its open bench lines, by place in the allotment (R193)
  savedW    : List Warp               -- flags and causes that engines recorded since its stop, by warp index
  keptFlags : BitVec 9                -- the flags of its warps as the save recorded them, for FLAGS of R60
  savedP    : List Pending            -- hand-offs still in flight; `warp` is the warp index
  savedR    : List (List Word)        -- the w registers of its warps, by warp index
  savedF    : List (Nat × Nat × Word × Nat)  -- threads that raised a cause not yet delivered: warp index, lane, ADDR, CODE
  replies   : List (Nat × Nat × Nat × Nat × Word)  -- svc answers while away: warp index, lane, destination, slot, value
deriving DecidableEq, Repr, Inhabited

structure SetInst where
  live    : Bool
  launch  : Nat
  index   : Nat            -- set index in the group table
  co      : Bool
  shape   : Nat
  members : List Nat       -- workgroup indices
  expA    : Nat
  expB    : Nat
  entry   : Option (Nat × Nat)   -- core and entry of the set barrier (R52)
  die     : Option Nat           -- the die of its first member (R13)
  marver  : Option (Nat × Nat)   -- region: byte offset, bytes (R13, R71)
  marvKiB : Nat
  origin  : Option Nat           -- 32·oy + ox of a placed co-resident set (R51)
deriving DecidableEq, Repr, Inhabited

/-- The states of a launch (R317). -/
inductive LaunchState | none | accepted | waiting | queued | running | ending
deriving DecidableEq, Repr, Inhabited

structure Launch where
  state    : LaunchState
  owner    : Nat
  seq      : Word                 -- R316
  ifc      : Option Nat           -- the interface of a host launch
  record   : List Byte            -- the 128 bytes of R58
  arm      : List Word            -- the BARL words read at acceptance
  home     : Nat                  -- home die (R324)
  order    : Nat                  -- acceptance number (R318)
  accepted : Nat                  -- tick of its acceptance (R64)
  next     : Nat                  -- lowest workgroup index not yet placed
  placedHi : List Nat             -- indices at or above it that are placed already
  placed   : Nat                  -- PLACED of R332
  sets     : List Nat             -- set-instance VGIDs, in set index order
  wgDone   : Nat
  ended    : Nat                  -- workgroups that have ended
  started  : Option Nat           -- tick of the first instruction
  status   : Nat                  -- R61
  detail   : Nat
  ending   : Bool                 -- ends early (R62)
  endTick  : Nat                  -- the tick at which that end began
  refused  : List Nat             -- granules whose translation the launch unit waited for and that were refused (R350)
  flags    : BitVec 9
  causes   : BitVec 32
  raceLoss : Nat
  hcyc     : Nat
  hbytes   : Nat
  failWg   : Option Nat
  noRecord : Bool                 -- R320
  recorded : Option Nat           -- its record is written, as the n-th of the package; the notification follows (R322)
deriving DecidableEq, Repr, Inhabited

/-! ### Handlers, walks and faults (R341–R365) -/

structure WalkReq where
  owner   : Nat
  die     : Nat
  granule : Nat            -- VA[55:16]
  va      : Nat            -- of the first requester
  word    : Word           -- request word (R343)
  core    : Nat            -- the supervisor warp it goes to
  waiters : List Requester
  taken   : Bool           -- an invocation holds it
deriving DecidableEq, Repr, Inhabited

/-- The kinds of handler invocation (R342, R343). -/
inductive InvKind | walk | fault | save | restore | svc
deriving DecidableEq, Repr, Inhabited

/-- One item of an invocation: what lane `i` works on (R342). -/
structure InvItem where
  key   : Nat                      -- granule, fault serial, warp index or mailbox index
  va    : Nat
  word  : Nat                      -- the request word of a walk (R343)
  ended : Bool
  launch : Option Nat := none      -- the launch of its first requester, which is charged (R363)
  wg     : Option Nat := none      -- the workgroup of its first requester, for FAILWG (R60)
  die    : Nat := 0                -- the die of a walk request, which may have no core of the owner (R341)
deriving DecidableEq, Repr, Inhabited

/-- The depth-1 invocation that a nested walk has interrupted (R364). -/
structure OuterInv where
  kind  : InvKind
  items : List InvItem
  start : Nat
  wregs : List Word                -- its w registers, which R364's record does not hold
  refused : Bool                   -- the nested walk refused the access (R350)
  lane  : Nat                      -- the lane of the access that missed, and its address
  va    : Nat
deriving DecidableEq, Repr, Inhabited

structure Invocation where
  owner : Nat
  kind  : InvKind
  depth : Nat
  items : List InvItem             -- item i is lane i's
  vgid  : Nat                      -- the workgroup of a save or restore
  start : Nat                      -- tick of its entry
  hcyc  : Nat
  hbytes : Nat
  outer : Option OuterInv          -- the depth-1 invocation beneath depth 2 (R364)
  frozen : Bool                    -- R365
  posted : List Nat                -- serials of its open HANDLER entries
deriving DecidableEq, Repr, Inhabited

/-- One mailbox record (R175). -/
structure SvcRec where
  words : List Word
  warp  : Nat
  lane  : Nat
  dest  : Nat
  slot  : Nat
  vgid  : Nat
  index : Nat            -- warp index, for a requester that has been saved
  order : Nat            -- its number among the records of the package, for R342's age
  taken : Bool
deriving DecidableEq, Repr, Inhabited

/-- A fault-queue entry's part that the hardware keeps: its waiters (R359). -/
structure FaultWaiters where
  live    : Bool
  index   : Nat            -- ring index
  die     : Nat
  va      : Nat
  kind    : Nat            -- 1 POSTED, 2 HANDLER
  core    : Nat            -- the core that posted it
  launch  : Option Nat     -- the launch of its first requester (R363)
  wg      : Option Nat     -- the workgroup of its first requester (R60)
  word    : Word           -- its first requester's request word (R343)
  waiters : List Requester
  dispatched : Option Nat  -- a core waits to run the fault handler on it
  order   : Nat            -- the number of that dispatch, for R342's age
  taken   : Bool           -- an invocation holds it
  seen    : Bool           -- AUTODISP has considered it (R362)
deriving DecidableEq, Repr, Inhabited

/-- A post that a full ring holds (R357). -/
structure HeldPost where
  owner : Nat
  die   : Nat
  core  : Nat
  kind  : Nat
  va    : Nat
  word  : Word
  user  : Word
  detail : Nat
  depth : Nat
  launch : Option Nat
  wg    : Option Nat
  waiters : List Requester
deriving DecidableEq, Repr, Inhabited

/-- A `tinv` in flight (R348). -/
structure InvReq where
  id      : Nat
  owner   : Nat
  va      : Nat
  len     : Nat
  removed : Nat
  pages   : List (Nat × Nat)  -- address and bytes of every page that it removed
  pid     : Option Nat     -- the issuing instruction; none for the hart's port
  lane    : Nat
  dest    : Nat
deriving DecidableEq, Repr, Inhabited

/-! ### Cores and dies -/

structure Core where
  retired  : Bool                     -- retirement map (R8, R254)
  inv      : Option Invocation        -- the supervisor warp's invocation (R342)
  mailbox  : SMap (Option SvcRec)     -- 32 records (R175)
  turn     : Nat                      -- the owner whose slice it is, plus 1; 0 for none
  cube     : List CubeOp              -- the queue of four (R264)
  spares   : List Nat                 -- cell columns retired, by output position 16·m + n (R254)
  spent    : Option (List Nat)        -- a column needed a spare and its quad had none: the launches that ran there then (R255)
  supLast  : Bool                     -- the last issue slot of quad 0 was the supervisor warp's (R39)
  replays  : Nat                      -- R254
  retires  : Nat
  saves    : List (Bool × Nat)        -- save and restore work waiting: restore?, VGID (R342)
  windows  : SMap Nat                 -- by window of bench and accumulator: the owner that last used it, plus 1
deriving DecidableEq, Repr, Inhabited

structure CausalTrial where
  live     : Bool
  owner    : Nat
  lo       : Nat
  hi       : Nat
  delay    : Nat
  duration : Nat
  progress : List Nat
  start    : Nat
  debt     : Nat               -- V
  paid     : SMap Nat          -- P of each quad
  issues   : Nat               -- C
  counts   : List Nat          -- n_k
deriving DecidableEq, Repr, Inhabited

structure Die where
  raceLoss : Nat                 -- directory overflows on this die (R192)
  opPoint  : Nat                 -- operating point (R417)
  celsius  : Nat                 -- junction temperature last read (R420)
  throttled : Bool
  devSeq   : SMap Nat            -- per owner: launches accepted from `lnch` on this die (R316)
  trial    : CausalTrial         -- R410
  lastPosts : List (Nat × Nat)   -- the 16 entries last written on this die: owner, serial (R359)
  tinvDone : List (Nat × Nat × Nat × Nat)  -- completed tinv: owner, va, len, tick (R347)
deriving DecidableEq, Repr, Inhabited

/-! ### Owners, interfaces, the Crucible -/

/-- Virtual-device states (R386). -/
inductive DevState | none | stopped | running | paused | evicted
deriving DecidableEq, Repr, Inhabited

structure FrameRange where
  tier : Nat
  base : Nat
  len  : Nat
  r    : Bool
  w    : Bool
  x    : Bool
  ifc  : Nat               -- for a host window (R337)
deriving DecidableEq, Repr, Inhabited

structure Owner where
  live      : Bool
  handle    : Nat
  state     : DevState
  policy    : List Byte            -- the 608 bytes of R380
  cores     : List Nat             -- cores held whole
  shares    : List Nat             -- cores held as a time share
  ranges    : List FrameRange      -- tiers 0 and 1
  windows   : List FrameRange      -- host windows (R337)
  marvBase  : List Nat             -- its marver base on each die (R13)
  marvBytes : Nat
  rbase     : Nat                  -- R338
  rsize     : Nat
  ifcs      : List Nat
  zones     : SMap Zone
  frozen    : List Nat             -- dies on which it is frozen (R365)
  memKey    : Nat                  -- number of the memory key in force (R377)
  secret    : Nat                  -- sealing secret (R377)
  epoch     : Nat                  -- last EPOCH kept, 0 where there is none (R379, R386)
  seals     : Nat                  -- contexts of this handle sealed so far (R379)
  nonces    : SMap Nat             -- last accepted NONCE of each host key (R383)
  pending   : Option (Nat × Nat)   -- CODE and TAG of a PENDING command (R385)
  resumeBlob : List Byte           -- the ciphertext a RESUME decrypts (R385)
  keptCores : List Nat             -- while EVICTED: the cores, shares, ranges and pinned pages of the sealed allotment (R379)
  keptShares : List Nat
  keptRanges : List FrameRange
  keptPins : List TlbEntry
  evictBuf  : Nat × Nat            -- the host buffer of an EVICT
  chargeCyc : Nat                  -- charges of no launch (R363)
  chargeBytes : Nat
  hart      : SMap Word            -- the hart's port registers by offset (R361)
  hartIrq   : Bool                 -- machine external interrupt pending
  hartFault : Option Nat           -- the address of its hart's last access that was an access fault (R361)
  hartSram  : SMap Byte            -- 1 MiB of local SRAM (R1)
  spillUsed : List (Nat × Nat)     -- runs of the spill pool in use (R150)
  marvUsed  : List (Nat × Nat × Nat)  -- marver regions in use: die, offset, bytes (R13)
  collSeq   : SMap Nat             -- operations issued per GROUP and rank (R303)
deriving DecidableEq, Repr, Inhabited

/-- One assignable interface (R314), which is one TDI (R402). -/
structure Ifc where
  owner    : Option Nat
  pasid    : Nat
  naddr    : Word
  seqNum   : Nat             -- NUM of the next SEQ
  inflight : Nat
  retryCnt : BitVec 32
  errCnt   : BitVec 32
  lastErr  : Word
  answer   : Nat             -- completion status of the last write to SUBMIT: 1 UR, 2 RRS, 3 SC (R315)
  ide      : Option Nat      -- the number of the key of its selective IDE stream (R402)
deriving DecidableEq, Repr, Inhabited

/-- A page-request group index (R367, R368). -/
structure PrgIndex where
  open_    : Bool
  orphan   : Bool
  ifc      : Nat
  pasid    : Nat
  page     : Nat
deriving DecidableEq, Repr, Inhabited

/-- A device translation cache entry (R367). -/
structure DtcEntry where
  pasid : Nat
  page  : Nat                -- HA[63:12]
  r     : Bool
  w     : Bool
deriving DecidableEq, Repr, Inhabited

/-- An address translation request to the host that has not been answered (R367). -/
structure AtsReq where
  ifc     : Nat
  pasid   : Nat
  page    : Nat
  read    : Bool                -- the permission asked for
  write   : Bool
  granules : List (Nat × Nat)   -- owner and VA granule of the accesses that wait
  waiters : List Requester
  prg     : Option Nat          -- the page-request group index, once a page request is sent
  denied  : Bool                -- the host did not grant it: a page request is sent or waits for an index
deriving DecidableEq, Repr, Inhabited

/-- A host-bound write (R404, R405): what it writes, by distance from its address. A cached line is written back as one. -/
structure HostWrite where
  ifc   : Option Nat         -- none: a write of the physical function
  pasid : Nat
  addr  : Nat
  bytes : List (Nat × Byte)
deriving DecidableEq, Repr, Inhabited

/-- A cached 64-byte line of host memory (R180). -/
structure HostLine where
  owner : Nat
  ifc   : Nat
  valid : Bool
  bytes : List Byte
  dirty : Nat                -- mask of written bytes
deriving DecidableEq, Repr, Inhabited

/-- A network port (R290, R291, R297). -/
structure Port where
  speed    : Nat             -- Gb/s
  prtb     : Nat
  kdtClass : Nat
  udpPort  : Nat
  nextCfg  : Option (Nat × Nat × Nat × Nat)  -- applied at the next module reset (R403)
  paused   : Nat             -- classes this port holds paused, mask
  peerPause : List Nat       -- pause time received per class, in quanta of 512 bit times
  peerUntil : List Nat       -- the time at which the pause of each class ends, in nanoseconds
  dropped  : Nat             -- frames discarded and counted
  sent     : List (Nat × Nat)  -- PFC frames sent: class, pause time
  out      : List (Nat × List Byte)  -- KDT datagrams sent: destination address, and bytes
deriving DecidableEq, Repr, Inhabited

/-- A stage of the firmware (R375). -/
structure FwStage where
  key     : List Byte    -- the public key that it comes with
  body    : List Byte
  sig     : List Byte
  version : Nat          -- its security version
deriving DecidableEq, Repr, Inhabited

/-- The device identity key (R377). -/
structure IdKey where
  priv : Nat
  pub  : List Byte
deriving DecidableEq, Repr, Inhabited

structure Crucible where
  lifecycle : Lifecycle
  booted    : Bool               -- every stage has verified (R375)
  fwKeyHash : Nat                -- fuses: the SHA-384 hash of Lythisel's firmware key (R375)
  minVer    : Nat                -- fused minimum security version
  stages    : List FwStage       -- the firmware stages that boot runs, in order
  staged    : Option (List FwStage)  -- an image that waits for the next module reset (R390)
  unique    : Nat                -- fuses: the unique secret (R377)
  identity  : Option IdKey       -- the device identity key, derived at boot (R376, R377)
  cert      : List Byte          -- its certificate, signed by Lythisel (R377)
  cmdrec    : SMap Byte          -- CMDREC (R382)
  result    : Word
  resval    : Word
  busy      : Bool
  doneCnt   : Word
  notify    : Word
  doneLog   : SMap Word          -- 128 words at 0x200
  mgmtKeys  : List Nat           -- four management-key hashes (R403)
  errorLog  : List (List Nat)    -- cube retirements and replays, ECC, refused plans (R403)
  usedHandles : List Nat
  drawn     : Nat                -- random draws taken
  prgEnded  : Bool               -- Response Failure has ended page requests (R367)
  waiting   : Option (List Byte) -- a record that waits for the host (R404)
  answer    : List Nat           -- what the last management request was answered (R389, R403)
  answerSig : Option Nat         -- the device identity key's signature of that answer, where SPDM signs it (R389)
deriving DecidableEq, Repr, Inhabited

/-- A grant that FLOW has made and whose match has not come (R388): the flow-key handle, the certificate it named, and the
number of the draw of this side's ephemeral key. -/
structure FlowAsk where
  handle : Nat
  peer   : Nat
  tick   : Nat
  key    : Nat
  cert   : List Byte
  eph    : Nat
deriving DecidableEq, Repr, Inhabited

/-- A grant that a peer's Crucible has sent (R388): its device's certificate, and its ephemeral public key. -/
structure FlowGrant where
  handle : Nat
  peer   : Nat
  tick   : Nat
  cert   : List Byte
  point  : List Byte
deriving DecidableEq, Repr, Inhabited

/-- A debug session (R406). A breakpoint is a PC, a lane mask, and a VGID or 0. -/
structure Session where
  live   : Bool
  owner  : Nat
  scope  : Nat                   -- 0 warp, 1 workgroup, 2 owner on the die
  hold   : Bool
  bps    : List (Nat × Nat × Nat)
  report : Nat                   -- 0 none, 1 BLOCKED, 2 WAITING, 3 stopped at brk or breakpoint, 4 cause
  value  : Word                  -- the last value read
  access : Option (Nat × Option Byte)  -- the debugger's memory access that waits for its translation: VA, and what it writes (R407)
  ring   : Option (Nat × Nat × Nat)  -- trace ring: VA, bytes, write position (R409)
  lost   : Bool
  asked  : Bool                  -- a dump waits for its workgroups to be saved (R411)
  dump   : List Nat              -- dump-pending page addresses (R411)
  dumped : SMap (List Byte)      -- pages copied, by address
  out    : List Byte             -- the dump as it leaves the device
deriving DecidableEq, Repr, Inhabited

/-- Module-wide power, clock and link state. -/
structure Module where
  plan       : List Byte         -- the clock plan in force (R415)
  nextPlan   : Option (List Byte)
  powerLimit : Nat
  inReset    : Bool              -- held in reset (R375, R418, R420)
  inputMv    : Nat               -- the input voltage last read, in millivolts (R418)
  clocksOff  : Bool              -- every clock stopped (R412, R420)
  hot        : Bool              -- a die has reached 110 °C and nothing has released the module (R420)
  freezePin  : Bool
  hostLost   : Bool
  timeouts   : Nat               -- consecutive completion timeouts (R404)
  parked     : List HostWrite    -- the parking buffer (R404)
  prgAlloc   : Nat               -- the outstanding page-request allocation the host grants (R367)
  inputPower : Nat               -- the input power last read, in watts (R418)
  linkIde    : Option Nat        -- the number of the key of the IDE link stream (R402)
deriving DecidableEq, Repr, Inhabited

/-- The threads of one warp of a formed bundle, and the PC at which they issue (R35). -/
structure Focus where
  warp  : Nat
  pc    : Word
  lanes : List Nat
  lead  : Bool           -- the bundle's first part, which R410 counts
deriving DecidableEq, Repr, Inhabited

structure State where
  tick     : Nat                  -- steps taken since reset
  turn     : Nat                  -- formations and internal events chosen so far, each first in turn
  fresh    : Nat                  -- counter the free values are applied to
  serial   : Nat                  -- numbers operations, accesses and launches in flight
  cur      : Focus                -- the warp whose instruction issues
  issueQ   : List Focus           -- formed bundles, oldest first
  agenda   : List Instr           -- events that have come about and wait to be taken
  absent   : Option Nat           -- a device address that holds no memory was accessed (R9)
  threads  : SMap Thread
  warps    : SMap Warp
  vregs    : SMap Word
  wregs    : SMap Word
  mem      : List Host.Cell       -- device physical memory
  bench    : SMap Byte
  benchAbs : SMap Bool            -- bench lines whose presence bit is clear
  acc      : SMap Byte
  marver   : SMap Byte
  marvAbs  : SMap Bool
  icache   : SMap (List (Nat × Nat))  -- earlier contents of device words with the tick of their change, by address/4 (R64)
  bars     : SMap BarEntry
  locks    : List RLock
  tlb      : SMap (List TlbEntry)
  opened   : List OpenLine        -- race directories, newest first
  pending  : List Pending
  port     : List PortStore
  wgs      : SMap Workgroup
  sets     : SMap SetInst
  released : List (Nat × Nat)     -- released VGIDs with the tick (R54)
  launches : SMap Launch
  xfer     : SMap (List XferOp)   -- by core*16 + channel
  asked    : List Asked
  bsends   : List BsendCopy
  credits  : List CreditMsg
  colls    : List CollOp
  contribs : List Contrib
  flows    : SMap Flow
  flowAsk  : List FlowAsk
  flowGot  : List FlowGrant
  walks    : List WalkReq
  faults   : SMap FaultWaiters    -- by owner*2^32 + serial mod 2^32
  held     : List HeldPost
  tinvs    : List InvReq
  cores    : SMap Core
  dies     : SMap Die
  owners   : SMap Owner
  ifcs     : SMap Ifc
  prgs     : SMap PrgIndex
  ats      : List AtsReq
  dtc      : List DtcEntry
  host     : SMap Byte            -- host memory, by PASID*2^64 + address
  hostL2   : SMap HostLine        -- cached host lines, by PASID*2^58 + address/64
  ports    : SMap Port
  crucible : Crucible
  sessions : SMap Session         -- by owner
  module   : Module
deriving DecidableEq, Repr

/-- Why the machine stops with a fault. -/
inductive Fault
  /-- Raised by every operation that reaches device physical memory, through `finish`, when the address lies in
  neither range of R9. Safe: the spec says that no memory is there, and no allotment can contain such an address. -/
  | noSuchMemory (addr : Nat)
deriving DecidableEq, Repr

/-- Why an instruction or event has no meaning here. -/
inductive Refusal
  /-- Raised only by the arms of Dispatch.lean for an instruction not yet given its meaning. Safe: nothing runs. -/
  | notModelled (mnemonic : String)
deriving DecidableEq, Repr

/-- A port after a module reset: PRTB and the KDT port as R291 and R292 state them; speed and KDT class are the
model's choice (assumption log 3). (DESIGN CHOICE, log 3) -/
def resetPort : Port :=
  { speed := 800, prtb := 140000, kdtClass := 0, udpPort := 47312, nextCfg := none, paused := 0,
    peerPause := [0, 0, 0, 0, 0, 0, 0, 0],
    peerUntil := [0, 0, 0, 0, 0, 0, 0, 0], dropped := 0, sent := [], out := [] }

/-- The identity key pair that boot derives from the unique secret (R377). -/
def deriveIdentity (unique : Nat) : IdKey :=
  { priv := Config.deriveKey unique, pub := Config.publicKey (Config.deriveKey unique) }

/-- The Crucible after a module reset (R382); the fused values are the model's choice (assumption log 3). (DESIGN CHOICE, log 3) -/
def resetCrucible : Crucible :=
  { lifecycle := .production, booted := true, fwKeyHash := Config.firmwareKeyHash, minVer := 0, stages := [], staged := none,
    unique := Config.uniqueSecret, identity := some (deriveIdentity Config.uniqueSecret), cert := Config.identityCert, cmdrec := [],
    result := 0, resval := 0, busy := false, doneCnt := 0, notify := 0, doneLog := [], mgmtKeys := [0, 0, 0, 0],
    errorLog := [], usedHandles := [], drawn := 0, prgEnded := false, waiting := none, answer := [], answerSig := none }

/-- The module after the last step of R421. (DESIGN CHOICE, log 3) (DESIGN CHOICE, log 100) -/
def resetModule : Module :=
  { plan := [], nextPlan := none, powerLimit := 2800, inReset := false, inputMv := 48000, clocksOff := false, hot := false,
    freezePin := false, hostLost := false, timeouts := 0, parked := [], prgAlloc := 512, inputPower := 0, linkIde := none }

/-- The machine right after a module reset (R421): no owner, no launch, memories zeroed, every warp slot empty. (DESIGN CHOICE, log 3) (DESIGN CHOICE, log 100) -/
def State.reset : State :=
  { tick := 0, turn := 0, fresh := 0, serial := 1, cur := { warp := 0, pc := 0, lanes := [], lead := false }, issueQ := [], agenda := [],
    absent := none, threads := [], warps := [], vregs := [], wregs := [], mem := [], bench := [], benchAbs := [],
    acc := [], marver := [], marvAbs := [], icache := [], bars := [], locks := [], tlb := [], opened := [],
    pending := [], port := [], wgs := [], sets := [], released := [], launches := [], xfer := [], asked := [], bsends := [],
    credits := [], colls := [], contribs := [], flows := [], flowAsk := [], flowGot := [], walks := [], faults := [], held := [], tinvs := [],
    cores := [], dies := [], owners := [], ifcs := [], prgs := [], ats := [], dtc := [], host := [], hostL2 := [],
    ports := [(0, resetPort), (1, resetPort), (2, resetPort), (3, resetPort), (4, resetPort), (5, resetPort),
      (6, resetPort), (7, resetPort)],
    crucible := resetCrucible, sessions := [], module := resetModule }

end Sys2Proof.Machine
end

