-- ==== Sys2Proof/Machine/Maps.lean ====
section
/-! DEFINITION. Reading and writing sparse maps, keeping their canonical form, and little-endian bytes in them (R5). -/

namespace Sys2Proof.Machine

/-- The value at a key; an unlisted key reads as the default. (DESIGN CHOICE, log 4) -/
def SMap.get {α : Type} [Inhabited α] (m : SMap α) (k : Nat) : α :=
  match m with
  | [] => default
  | (k', v) :: r => if k' = k then v else SMap.get r k

/-- Put an entry at its place in the rising order, replacing the entry of the same key. -/
def SMap.put {α : Type} (m : SMap α) (k : Nat) (v : α) : SMap α :=
  match m with
  | [] => [(k, v)]
  | (k', v') :: r =>
    if k < k' then (k, v) :: (k', v') :: r
    else if k = k' then (k, v) :: r
    else (k', v') :: SMap.put r k v

/-- Remove the entry of a key. -/
def SMap.del {α : Type} (m : SMap α) (k : Nat) : SMap α := m.filter (fun e => e.1 ≠ k)

/-- Write a value; writing the default removes the entry. -/
def SMap.set {α : Type} [DecidableEq α] [Inhabited α] (m : SMap α) (k : Nat) (v : α) : SMap α :=
  if v = default then m.del k else m.put k v

/-- The canonical form: keys strictly rising, no entry equal to the default. -/
def SMap.wf {α : Type} [DecidableEq α] [Inhabited α] (m : SMap α) : Bool :=
  decide (m.Pairwise (fun a b => a.1 < b.1)) && m.all (fun e => decide (e.2 ≠ default))

/-- The listed keys. -/
def SMap.keys {α : Type} (m : SMap α) : List Nat := m.map (·.1)

/-- Change the value at a key. -/
def SMap.update {α : Type} [DecidableEq α] [Inhabited α] (m : SMap α) (k : Nat) (f : α → α) : SMap α :=
  m.set k (f (m.get k))

/-- `n` values from key `k` up. -/
def SMap.getRange {α : Type} [Inhabited α] (m : SMap α) (k n : Nat) : List α :=
  (List.range n).map (fun i => m.get (k + i))

/-- Write a list of values from key `k` up. -/
def SMap.setRange {α : Type} [DecidableEq α] [Inhabited α] (m : SMap α) (k : Nat) (vs : List α) : SMap α :=
  match vs with
  | [] => m
  | v :: r => SMap.setRange (m.set k v) (k + 1) r

/-- Write the same value to `n` keys from `k` up. -/
def SMap.fill {α : Type} [DecidableEq α] [Inhabited α] (m : SMap α) (k n : Nat) (v : α) : SMap α :=
  if v = default then m.filter (fun e => e.1 < k ∨ k + n ≤ e.1) else m.setRange k (List.replicate n v)

/-- Memory in its canonical form: an unlisted byte reads 0. -/
abbrev Memory := List Host.Cell

/-- The canonical form of memory. -/
def Memory.wf (m : Memory) : Bool := SMap.wf (α := BitVec 8) m

end Sys2Proof.Machine
end

