-- ==== Sys2Proof/Machine/Ops.lean ====
section
/-! DEFINITION. The operations that the meanings share: naming places, threads and registers, raising causes, issuing an
instruction for the threads of one warp (R34, R37, R38, R67, R68, R79, R80), device time, and counters of the model. -/

namespace Sys2Proof.Machine

/-! ### Places (R8) and keys -/

def coreOf (w : Nat) : Nat := w / 64
def quadOf (w : Nat) : Nat := w / 16
def dieOf (w : Nat) : Nat := w / 32768
def dieOfCore (c : Nat) : Nat := c / 512
/-- The supervisor warp's slot is the ninth of quad 0 (R55). -/
def isSup (w : Nat) : Bool := w % 64 == 8
def supOf (core : Nat) : Nat := core * 64 + 8
def tid (w lane : Nat) : Nat := w * 32 + lane
def vkey (w lane n : Nat) : Nat := (w * 32 + lane) * 512 + n
def wkey (w n : Nat) : Nat := w * 64 + n
def lanes32 : List Nat := List.range 32

/-- The home die of a device physical address (R9), if memory is there. (DEDUCED, log 71) -/
def homeOf (pa : Nat) : Option Nat :=
  if pa < 2 ^ 39 then (if pa % 2 ^ 37 < 96 * 2 ^ 30 then some (pa / 2 ^ 37) else none)
  else if 2 ^ 40 ≤ pa ∧ pa < 2 ^ 41 then some (bitsOf pa 13 12)
  else none

/-! ### Reading and changing parts of the state -/

def State.thread (s : State) (w lane : Nat) : Thread := s.threads.get (tid w lane)
def State.warp (s : State) (w : Nat) : Warp := s.warps.get w
def State.wg (s : State) (w : Nat) : Workgroup := s.wgs.get (s.warp w).vgid
def State.v (s : State) (w lane n : Nat) : Word := s.vregs.get (vkey w lane n)
def State.w (s : State) (w n : Nat) : Word := s.wregs.get (wkey w n)
def State.setV (s : State) (w lane n : Nat) (x : Word) : State := { s with vregs := s.vregs.set (vkey w lane n) x }
def State.setW (s : State) (w n : Nat) (x : Word) : State := { s with wregs := s.wregs.set (wkey w n) x }

def State.setThread (s : State) (w lane : Nat) (f : Thread → Thread) : State :=
  { s with threads := s.threads.update (tid w lane) f }
def State.setWarp (s : State) (w : Nat) (f : Warp → Warp) : State := { s with warps := s.warps.update w f }
def State.setWg (s : State) (v : Nat) (f : Workgroup → Workgroup) : State := { s with wgs := s.wgs.update v f }
def State.setLaunch (s : State) (l : Nat) (f : Launch → Launch) : State := { s with launches := s.launches.update l f }
def State.setCore (s : State) (c : Nat) (f : Core → Core) : State := { s with cores := s.cores.update c f }
def State.setDie (s : State) (d : Nat) (f : Die → Die) : State := { s with dies := s.dies.update d f }
def State.setOwner (s : State) (o : Nat) (f : Owner → Owner) : State := { s with owners := s.owners.update o f }
def State.setIfc (s : State) (i : Nat) (f : Ifc → Ifc) : State := { s with ifcs := s.ifcs.update i f }

/-- Change the threads of the listed lanes of a warp. -/
def State.onLanes (s : State) (w : Nat) (lanes : List Nat) (f : Nat → Thread → Thread) : State :=
  lanes.foldl (fun s l => s.setThread w l (f l)) s

/-- Add an event that the machine will take after those already waiting. -/
def State.post (s : State) (i : Instr) : State := { s with agenda := s.agenda ++ [i] }

/-- A fresh number for an operation, an access or a launch. (DESIGN CHOICE, log 78) -/
def State.nextSerial (s : State) : State := { s with serial := s.serial + 1 }

/-- Predicate `p` of a thread; p7 is constant true (R29). -/
def Thread.p (t : Thread) (p : Nat) : Bool := if p = 7 then true else t.preds.getLsbD p

/-- Write predicate `p`; a write to p7 is discarded (R73). -/
def Thread.setP (t : Thread) (p : Nat) (b : Bool) : Thread :=
  if p = 7 then t
  else { t with preds := if b then t.preds ||| (1#7 <<< p) else t.preds &&& ~~~ (1#7 <<< p) }

def State.setP (s : State) (w lane p : Nat) (b : Bool) : State := s.setThread w lane (·.setP p b)

/-- Slot number 1–6 names sb0–sb5 (R65). -/
def Thread.slotSet (t : Thread) (slot : Nat) : Thread :=
  if slot = 0 then t else { t with slots := t.slots ||| (1#6 <<< (slot - 1)) }
def Thread.slotClear (t : Thread) (slot : Nat) : Thread :=
  if slot = 0 then t
  else { t with slots := t.slots &&& ~~~ (1#6 <<< (slot - 1)), acqSlots := t.acqSlots &&& ~~~ (1#6 <<< (slot - 1)) }

/-- The slot that an acquire sets joins the wait of its thread's later memory accesses (R149). -/
def Thread.acquireSlot (t : Thread) (slot : Nat) : Thread :=
  if slot = 0 then t else { t with acqSlots := t.acqSlots ||| (1#6 <<< (slot - 1)) }

/-- The live lanes of a warp, in increasing order. -/
def State.liveLanes (s : State) (w : Nat) : List Nat := lanes32.filter (fun l => (s.thread w l).live)

/-- The guard of an instruction in a thread (R67). -/
def guardOf (s : State) (w : Nat) (neg : Bool) (pred : Nat) (lane : Nat) : Bool :=
  xor ((s.thread w lane).p pred) neg

/-- The launch a warp runs for; 0 when it runs for none. -/
def State.launchOf (s : State) (w : Nat) : Nat := (s.wg w).launch

/-! ### Device time (R7): the model counts steps, and reads time through opaque lengths -/

def sumBelow (f : Nat → Nat) : Nat → Nat
  | 0 => 0
  | n + 1 => sumBelow f n + f n

/-- Timebase cycles since reset at a tick (R7): what timeouts, timers and VGID reuse count. (DESIGN CHOICE, log 6) -/
def periodsAt (tick : Nat) : Nat := sumBelow Config.stepPeriods tick
/-- Device time in nanoseconds at a tick: five timebase cycles are two nanoseconds (R7, R60, R71 `%time`). (DESIGN CHOICE, log 6) -/
def nsAt (tick : Nat) : Nat := periodsAt tick * 2 / 5
/-- Core cycles of a die since reset at a tick (R7, R176 CYCLE). (DESIGN CHOICE, log 6) -/
def cyclesAt (die tick : Nat) : Nat := sumBelow (Config.stepCycles die) tick

/-! ### Causes (R195, R196) -/

def causeIllegal : Nat := 0
def causePriv : Nat := 1
def causeAlign : Nat := 2
def causeBounds : Nat := 3
def causeRangelock : Nat := 4
def causeMemrace : Nat := 5
def causeIntOverflow : Nat := 12
def causeBreak : Nat := 13
def causeStep : Nat := 14
def causeSvc : Nat := 15
def causeBarspill : Nat := 16
def causeFormat : Nat := 17
def causeTrap : Nat := 18
def causeTranslate : Nat := 19
def causeEngine : Nat := 20
def causeRegquota : Nat := 21
def causeStack : Nat := 22

/-- A cause that one lane raises: its bit, the ADDR and the CODE of its trap frame (R198). -/
structure Raise where
  lane : Nat
  bit  : Nat
  addr : Nat := 0
  code : Nat := 0
deriving DecidableEq, Repr

/-- Record one cause bit in the warp and in its launch's CAUSES (R196). -/
def State.orCause (s : State) (w bit : Nat) : State :=
  let s := s.setWarp w (fun x => { x with cause := x.cause ||| (1#32 <<< bit) })
  if s.launchOf w = 0 then s
  else s.setLaunch (s.launchOf w) (fun x => { x with causes := x.causes ||| (1#32 <<< bit) })

/-- Record the synchronous causes that an instruction raised at its issue (R84, R196). -/
def State.raise (s : State) (w : Nat) (rs : List Raise) : State :=
  let s := rs.foldl (fun s r =>
    (s.orCause w r.bit).setThread w r.lane
      (fun t => { t with raised := true, faultVa := BitVec.ofNat 64 r.addr, code := r.code, wait := .ready })) s
  s.setWarp w (fun x => { x with syncNew := true })

/-- Record an asynchronous cause for an earlier issue of the warp (R196). -/
def State.raiseAsync (s : State) (w bit : Nat) : State :=
  (s.orCause w bit).setWarp w (fun x => { x with asyncNew := true })

/-- Every listed lane raises the same cause, with no address. -/
def raiseAll (bit : Nat) (lanes : List Nat) : List Raise := lanes.map (fun l => { lane := l, bit := bit })

/-- Whether a warp issues nothing until it has entered its trap handler (R196). -/
def Warp.held (x : Warp) : Bool := x.stopped || x.syncNew || (x.cause != 0 && !x.inHandler)

/-! ### Issue (R37, R38, R67, R68, R79, R80, R267) -/

/-- What an instruction asks of issue before its effect. -/
structure Hdr where
  neg  : Bool
  pred : Nat
  wait : BitVec 6
  set  : Nat
  len  : Nat
  vTop : Nat
  dests : List Nat        -- v codes it writes (R267)
  priv : Bool := false    -- 0x3A0–0x3BF (R79)
  coll : Bool := false    -- warp-collective (R38)
  drain : Bool := false   -- waits until sb0–sb5 are clear (R44, R151, R176)
  mem  : Bool := false    -- a memory access of R149
  rel  : Option Nat := none
  acq  : Option Nat := none
deriving DecidableEq, Repr

/-- What the body of an instruction leaves for issue to do. -/
inductive Res
  | next (s : State)               -- the effect is done; every issuing thread goes to the next instruction
  | split (s : State) (stay : List Nat)  -- the effect is done; the body has placed the threads of `stay` itself
  | hold (s : State)               -- it has not issued; the body has put the threads in a wait
  | trap (rs : List Raise)         -- causes were raised; the instruction has no effect in the warp (R84)

/-- The v codes an instruction writes, by its encoding row (R267). -/
def destsOf (r : Row) (f : F64) : List Nat :=
  match r.d with
  | .dst | .dstV | .dstVW => if f.d.toNat < 384 then [f.d.toNat] else []
  | .group n => (List.range n).map (f.d.toNat + ·)
  | _ => []

/-- The issue header of a 64-bit or 96-bit instruction. -/
def hdrOf (i : Instr) (f : F64) : Hdr where
  neg := f.neg
  pred := f.pred.toNat
  wait := f.wait
  set := f.set.toNat
  len := if f.lit.isSome then 12 else 8
  vTop := i.vTop
  dests := match longForm i with
    | some (r, f) => destsOf r f
    | none => []

/-- The issue header of a 32-bit instruction (R74). -/
def hdrOf32 (i : Instr) (f : F32) : Hdr where
  neg := f.neg
  pred := f.pred.toNat
  wait := 0
  set := 0
  len := 4
  vTop := i.vTop
  dests := match i with
    | .mov f => if f.body.toNat % 512 < 384 then [f.body.toNat % 512] else []
    | _ => []

/-- The slots that memory accesses of a thread hold: loads, stores, atomics, counter instructions and sends (R149). -/
def accessSlots (s : State) (w lane : Nat) : BitVec 6 :=
  s.pending.foldl (fun m p =>
    if p.warp = w ∧ p.slot ≠ 0 ∧ p.lanes.contains lane ∧ (p.unit = .memory ∨ p.unit = .bsend) then m ||| (1#6 <<< (p.slot - 1))
    else m) 0

/-- The slots a thread must find clear before it issues (R68, R149). What an instruction's effect waits for binds only a
thread whose guard is true: the others honour the wait mask (R67, R151); a warp-collective instruction that drains the
slots waits on every live thread's (R44, R176). -/
def slotMask (s : State) (h : Hdr) (w lane : Nat) : BitVec 6 :=
  let t := s.thread w lane
  let acts := guardOf s w h.neg h.pred lane
  let base := h.wait ||| (if h.set = 0 then 0 else 1#6 <<< (h.set - 1))
  let acq := if h.mem || h.rel.isSome then t.acqSlots else 0
  let all := if h.drain && (h.coll || acts) then 0x3F else 0
  let rel := if h.rel.isSome && acts then accessSlots s w lane else 0
  base ||| acq ||| all ||| rel

/-- Put a thread into a wait. -/
def State.enter (s : State) (w lane : Nat) (k : Wait) : State := s.setThread w lane (fun t => { t with wait := k })

/-- Put listed threads of a warp into a wait. -/
def State.enterAll (s : State) (w : Nat) (lanes : List Nat) (k : Wait) : State :=
  s.onLanes w lanes (fun _ t => { t with wait := k })

/-- The threads of a warp that stand at the focus and are to issue. -/
def issuing (s : State) : List Nat :=
  s.cur.lanes.filter (fun l =>
    (s.thread s.cur.warp l).live && (s.thread s.cur.warp l).pc == s.cur.pc && (s.thread s.cur.warp l).wait = .ready)

/-- Move listed threads past the instruction (R63). -/
def State.advance (s : State) (w : Nat) (lanes : List Nat) (pc : Word) (len : Nat) : State :=
  s.onLanes w lanes (fun _ t =>
    { t with pc := pc + BitVec.ofNat 64 len, wait := .ready, since := s.tick, urgent := false, awaited := none, passed := false,
             wcode := 0 })

/-- Whether a v register of a warp is write-locked as B-hold (R267). -/
def bholdLocked (s : State) (w : Nat) (n : Nat) : Bool :=
  s.locks.any (fun k => k.space = .bhold w && k.kind = .write && k.lo ≤ n && n < k.hi)

/-- Run the body for the threads that issue, `gl` of which have their guard true. (DEDUCED, log 80) -/
def runBody (s : State) (h : Hdr) (lanes : List Nat) (body : State → List Nat → Res) : State :=
  let w := s.cur.warp
  let gl := lanes.filter (guardOf s w h.neg h.pred)
  if gl = [] then s.advance w lanes s.cur.pc h.len
  else if h.dests.any (bholdLocked s w) then s.raise w (raiseAll causeRangelock gl)
  else
    match body s gl with
    | .next s' => s'.advance w lanes s.cur.pc h.len
    | .split s' stay => s'.advance w (lanes.filter (fun l => !stay.contains l)) s.cur.pc h.len
    | .hold s' => s'
    | .trap rs => s.raise w rs

/-- A warp-collective instruction: the threads wait until every live thread of the warp stands there (R38). -/
def rendezvous (s : State) (h : Hdr) (ready : List Nat) (body : State → List Nat → Res) : State :=
  let w := s.cur.warp
  let s1 := s.enterAll w ready .rendezvous
  let live := s1.liveLanes w
  if live.all (fun l => (s1.thread w l).wait = .rendezvous) then
    if live.all (fun l => (s1.thread w l).pc == s.cur.pc) then
      runBody (s1.enterAll w live .ready) h live body
    else s1.raise w (raiseAll causeIllegal live)
  else s1

/-- Issue an instruction for the threads of the focus: decode causes first (R79, R80), then readiness (R68), then the
rendezvous (R38), then the effect. A bundle of the supervisor warp issues only when every thread in it is ready (R37): its
issues are counted (R363). (DEDUCED, log 80) -/
def issue (h : Hdr) (body : State → List Nat → Res) (s : State) : State :=
  let w := s.cur.warp
  let lanes := issuing s
  if lanes = [] ∨ (s.warp w).held then s
  else if h.priv && !isSup w then s.raise w (raiseAll causePriv lanes)
  else if 32 * (s.warp w).units.length < h.vTop then s.raise w (raiseAll causeRegquota lanes)
  else
    let ready := lanes.filter (fun l => (s.thread w l).slots &&& slotMask s h w l == 0)
    let late := lanes.filter (fun l => (s.thread w l).slots &&& slotMask s h w l != 0)
    let s := s.onLanes w late (fun l t => { t with wait := .scoreboard (slotMask s h w l).toNat })
    if ready = [] ∨ (isSup w ∧ late ≠ []) then s
    else if h.coll then rendezvous s h ready body
    else runBody s h ready body

end Sys2Proof.Machine
end

