-- ==== Sys2Proof/Machine/Operands.lean ====
section
/-! DEFINITION. Reading operands (R69–R72) and writing destinations (R73). -/

namespace Sys2Proof.Machine

/-- The k-th byte field of a launch record as a number: bits `hi:lo` of R58. -/
def Launch.field (l : Launch) (hi lo : Nat) : Nat := bitsOf (leNat l.record) hi lo

def Launch.gridX (l : Launch) : Nat := l.field 95 64
def Launch.gridY (l : Launch) : Nat := l.field 111 96
def Launch.gridZ (l : Launch) : Nat := l.field 127 112
def Launch.nWarps (l : Launch) : Nat := l.field 132 128
def Launch.barN (l : Launch) : Nat := l.field 191 185

/-- Position of a value in a list. -/
def posIn (x : Nat) : List Nat → Nat
  | [] => 0
  | y :: r => if y = x then 0 else posIn x r + 1

/-- The set membership word of a workgroup in its k-th set (R53). -/
def setWord (s : State) (g : Workgroup) (k : Nat) : Nat :=
  match g.sets[k]? with
  | none => 0
  | some v =>
    let i := s.sets.get v
    2 ^ 40 * posIn g.index i.members + 2 ^ 32 * b2n i.co + 2 ^ 24 * i.index + v

/-- The marver region of the workgroup's k-th set (R71). -/
def smarWord (s : State) (g : Workgroup) (k : Nat) : Nat :=
  match g.sets[k]? with
  | none => 0
  | some v =>
    match (s.sets.get v).marver with
    | none => 0
    | some (off, n) => 2 ^ 32 * n + off

/-- The special operands of R71, but for `%lit`. The supervisor warp belongs to no workgroup (R55), so what a
workgroup or launch fixes reads 0 there. -/
def special (s : State) (w lane code : Nat) : Nat :=
  let x := s.warp w
  let g := s.wg w
  let l := s.launches.get g.launch
  match code with
  | 450 => lane
  | 451 => 32 * x.index + lane
  | 452 => x.index
  | 453 => g.index
  | 454 => g.index % l.gridX
  | 455 => g.index / l.gridX % l.gridY
  | 456 => g.index / (l.gridX * l.gridY)
  | 457 => x.vgid
  | 458 => setWord s g 0
  | 459 => setWord s g 1
  | 460 => setWord s g 2
  | 461 => setWord s g 3
  | 462 => l.nWarps
  | 463 => l.gridX
  | 464 => l.gridY
  | 465 => l.gridZ
  | 466 => quadOf w % 4
  | 467 => coreOf w % 512
  | 468 => dieOf w
  | 469 => x.units.length
  | 470 => nsAt s.tick
  | 471 => smarWord s g 0
  | 472 => smarWord s g 1
  | 473 => smarWord s g 2
  | 474 => smarWord s g 3
  | _ => 0

/-- The 64-bit value an operand code reads in a thread (R70, R71). The literal is zero-extended (R72). -/
def opnd (s : State) (w lane : Nat) (lit : Option (BitVec 32)) (code : Nat) : Word :=
  if code < 384 then s.v w lane code
  else if code < 448 then s.w w (code - 384)
  else if code = 449 then (lit.getD 0).zeroExtend 64
  else BitVec.ofNat 64 (special s w lane code)

/-- As `opnd`, for a 64-bit signed operand: the literal is sign-extended from its top bit (R72). -/
def opndI64 (s : State) (w lane : Nat) (lit : Option (BitVec 32)) (code : Nat) : Word :=
  if code = 449 then (lit.getD 0).signExtend 64 else opnd s w lane lit code

/-- Sub-element `i` of width `w` of a 64-bit value, as a number (R72). -/
def elem (w : Nat) (x : Word) (i : Nat) : Nat := x.toNat / 2 ^ (w * i) % 2 ^ w

/-- Sub-elements 0 to 64/w − 1 of a register operand, or the low w bits of an immediate or literal for each (R72). -/
def elems (w n : Nat) (flat : Bool) (x : Word) : List Nat :=
  (List.range n).map (fun i => if flat then x.toNat % 2 ^ w else elem w x i)

/-- Put sub-elements side by side, the first in the low bits. -/
def packElems (w : Nat) (xs : List Nat) : Word := BitVec.ofNat 64 (xs.foldr (fun x acc => x % 2 ^ w + 2 ^ w * acc) 0)

/-- Write a vector destination: a v register, or nothing for `%zero` (R70, R73). -/
def State.writeD (s : State) (w lane d : Nat) (x : Word) : State := if d < 384 then s.setV w lane d x else s

/-- Write one value per lane to a vector destination. -/
def writeLanes (s : State) (w d : Nat) (xs : List (Nat × Word)) : State :=
  xs.foldl (fun s x => s.writeD w x.1 d x.2) s

/-- Write one predicate per lane. -/
def writePreds (s : State) (w p : Nat) (xs : List (Nat × Bool)) : State :=
  xs.foldl (fun s x => s.setP w x.1 p x.2) s

end Sys2Proof.Machine
end

