-- ==== Sys2Proof/Machine/Memory.lean ====
section
/-! DEFINITION. Memory of every kind as bytes: device memory and its homes (R9), cached and uncached host memory (R180,
R404), bench and marver (R11, R178), the core's memory port (R178), the race directory (R188–R192), monitors (R165),
and what a release and an acquire do beyond waiting (R149, R180, R189). -/

namespace Sys2Proof.Machine

/-! ### Keys of bytes and lines -/

def benchKey (core off : Nat) : Nat := core * 2 ^ 23 + off
def marverKey (die off : Nat) : Nat := die * 2 ^ 26 + off
def hostKey (pasid addr : Nat) : Nat := pasid * 2 ^ 64 + addr
def hostLineKey (pasid addr : Nat) : Nat := pasid * 2 ^ 58 + addr / 64

/-- The place `n` bytes further on. -/
def Loc.plus (l : Loc) (n : Nat) : Loc :=
  match l with
  | .dev pa => .dev (pa + n)
  | .host i p a uc => .host i p (a + n) uc
  | .bench k => .bench (k + n)
  | .marver k => .marver (k + n)

/-- The line of a place as the race directory names it: its die, its space, its base, and its size (R188). A host
line's base is put above every device address; its home follows bits [13:12] of the host address itself, since the
answer to a translation request shows the device no other (R9, R367). (DEDUCED, log 71) -/
def Loc.line (l : Loc) : Nat × LockSpace × Nat × Nat :=
  match l with
  | .dev pa => ((homeOf pa).getD 0, .phys, pa / 64 * 64, 64)
  | .host _ p a _ => (bitsOf a 13 12, .phys, 2 ^ 60 * (p + 1) + a / 64 * 64, 64)
  | .bench k => (dieOfCore (k / 2 ^ 23), .bench (k / 2 ^ 23), k / 128 * 128, 128)
  | .marver k => (k / 2 ^ 26, .marver (k / 2 ^ 26), k / 128 * 128, 128)

/-- The offset of a place within its line. -/
def Loc.lineOff (l : Loc) : Nat :=
  match l with
  | .dev pa => pa % 64
  | .host _ _ a _ => a % 64
  | .bench k => k % 128
  | .marver k => k % 128

/-- The die that a place is homed on (R9). -/
def Loc.home (l : Loc) : Nat := l.line.1

/-! ### Device memory -/

/-- Remember an access to an address without memory (R9); the step then stops (`finish`). (DEDUCED, log 8) (DEDUCED, log 71) -/
def State.touch (s : State) (pa n : Nat) : State :=
  if (homeOf pa).isNone then { s with absent := some pa }
  else if (homeOf (pa + n - 1)).isNone then { s with absent := some (pa + n - 1) }
  else s

/-- `n` bytes of device memory. (DESIGN CHOICE, log 4) (DEDUCED, log 72) (DEDUCED, log 104) -/
def State.devBytes (s : State) (pa n : Nat) : List Byte := SMap.getRange (α := BitVec 8) s.mem pa n

/-- One 32-bit word of device memory. -/
def State.devWord (s : State) (word : Nat) : Nat := leNat (s.devBytes (word * 4) 4)

/-- Copy a page into a session's dump before it changes (R411). -/
def copyPage (s : State) (x : Session) (p : Nat) : Session :=
  if x.dump.contains p then { x with dump := x.dump.erase p, dumped := x.dumped.set p (s.devBytes p (2 ^ 16)) } else x

/-- A write to a dump-pending page waits until the page has been copied (R411). -/
def State.copyPending (s : State) (pa n : Nat) : State :=
  if s.sessions.all (fun e => e.2.dump.isEmpty) then s
  else { s with sessions := s.sessions.map (fun e =>
    (e.1, [pa / 2 ^ 16 * 2 ^ 16, (pa + n - 1) / 2 ^ 16 * 2 ^ 16].foldl (copyPage s) e.2)) }

/-- Write device memory, keeping the earlier contents of changed words for the instruction caches (R64). -/
def State.writeDev (s : State) (pa : Nat) (bs : List Byte) : State :=
  let s' := { (s.touch pa bs.length).copyPending pa bs.length with mem := SMap.setRange (α := BitVec 8) s.mem pa bs }
  let words := (List.range ((pa + bs.length - 1) / 4 + 1 - pa / 4)).map (pa / 4 + ·)
  { s' with icache := words.foldl (fun (m : SMap (List (Nat × Nat))) k =>
      if s.devWord k = s'.devWord k then m else m.update k (fun old => (s.tick, s.devWord k) :: old)) s.icache }

/-- How a meaning that reaches device memory ends: an address without memory stops the machine (R9). (DEDUCED, log 71) -/
def finish (s : State) : Host.Outcome State Fault Refusal :=
  match s.absent with
  | some a => .fault (.noSuchMemory a)
  | none => .next s

/-! ### Host memory (R180, R404) -/

/-- The bytes that the parking buffer holds (R404). -/
def parkedBytes (s : State) : Nat := s.module.parked.foldl (fun n w => n + w.bytes.length) 0

/-- Host-bound writes park: the host is lost, or parked writes are still to be replayed (R404, R405). -/
def hostHeld (s : State) : Bool := s.module.hostLost || !s.module.parked.isEmpty

/-- What a host-bound write does at the host. -/
def State.hostApply (s : State) (w : HostWrite) : State :=
  { s with host := w.bytes.foldl (fun (m : SMap Byte) (x : Nat × Byte) => m.set (hostKey w.pasid w.addr + x.1) x.2) s.host }

/-- A write that crosses the link, or parks while the host is lost (R404). -/
def State.hostSend (s : State) (w : HostWrite) : State :=
  if hostHeld s then { s with module := { s.module with parked := s.module.parked ++ [w] } } else s.hostApply w

/-- A write of adjacent bytes. -/
def State.hostPost (s : State) (ifc : Option Nat) (pasid addr : Nat) (bs : List Byte) : State :=
  s.hostSend { ifc := ifc, pasid := pasid, addr := addr, bytes := (List.range bs.length).zip bs }

/-- The bytes of the parking buffer that an access accepted by the memory system may still need (R404): an uncached store's own,
and at `.sys` (scope code 3) a whole line. -/
def reservedFor (scope : Nat) (ls : List LaneWork) : Nat :=
  ls.foldl (fun n x => match x.loc with
    | .host _ _ _ uc => if uc || scope == 3 then n + 64 else n
    | _ => n) 0

/-- The same for work in flight. -/
def Pending.reserved (p : Pending) : Nat :=
  match p.work with
  | .store _ _ scope ls | .atomic _ _ _ _ scope ls | .cntAdd scope ls | .cntFail scope ls => reservedFor scope ls
  | _ => 0

/-- Whether a writer of `n` more bytes finds room in the parking buffer of 256 MiB, beside what accepted accesses may still park;
one that does not waits (R404). -/
def parkFits (s : State) (n : Nat) : Bool :=
  let ports := (s.port.filter (fun p => match p.loc with
    | .host _ _ _ uc => uc
    | _ => false)).length
  !hostHeld s || decide (parkedBytes s + (s.pending.map Pending.reserved).foldl (· + ·) 0 + 64 * ports + n ≤ 2 ^ 28)

/-- The host has answered: consecutive timeouts begin anew (R404). -/
def State.noTimeout (s : State) : State := { s with module := { s.module with timeouts := 0 } }

/-- Bring a 64-byte host line into its home L2 (R180). (DEDUCED, log 72) -/
def State.hostFill (s : State) (owner ifc pasid addr : Nat) : State :=
  let k := hostLineKey pasid addr
  if (s.hostL2.get k).valid then s
  else
    let bytes := s.host.getRange (hostKey pasid (addr / 64 * 64)) 64
    let line : HostLine := { owner := owner, ifc := ifc, valid := true, bytes := bytes, dirty := 0 }
    { s.noTimeout with hostL2 := s.hostL2.set k line }

/-- Replace the bytes of a list from a position. -/
def splice {α : Type} (xs : List α) (at_ : Nat) (ys : List α) : List α :=
  xs.take at_ ++ ys ++ xs.drop (at_ + ys.length)

/-- Read host memory through its home L2, or at the host when uncached. An access lies in one line. (DEDUCED, log 67) -/
def State.hostRead (s : State) (owner ifc pasid addr n : Nat) (uc : Bool) : List Byte × State :=
  if uc then (s.host.getRange (hostKey pasid addr) n, s.noTimeout)
  else
    let s := s.hostFill owner ifc pasid addr
    ((((s.hostL2.get (hostLineKey pasid addr)).bytes.drop (addr % 64)).take n), s)

/-- Write host memory in its home L2, or at the host when uncached. (DEDUCED, log 67) -/
def State.hostStore (s : State) (owner ifc pasid addr : Nat) (bs : List Byte) (uc : Bool) : State :=
  if uc then s.hostPost (some ifc) pasid addr bs
  else
    let s := s.hostFill owner ifc pasid addr
    { s with hostL2 := s.hostL2.update (hostLineKey pasid addr) (fun l =>
        { l with bytes := splice l.bytes (addr % 64) bs,
                 dirty := l.dirty ||| (2 ^ bs.length - 1) * 2 ^ (addr % 64) }) }

/-- The runs of written bytes of a dirty line: offset and bytes. -/
def dirtyBytes (l : HostLine) : List (Nat × Byte) :=
  ((List.range 64).zip l.bytes).filter (fun x => bitOf l.dirty x.1)

/-- Write the dirty host lines that a condition on key and line names across the link, each in one write (R180). -/
def State.flushLines (s : State) (c : Nat → HostLine → Bool) : State :=
  s.hostL2.foldl (fun s e =>
    if c e.1 e.2 ∧ e.2.dirty ≠ 0 then
      let s := s.hostSend { ifc := some e.2.ifc, pasid := e.1 / 2 ^ 58, addr := e.1 % 2 ^ 58 * 64, bytes := dirtyBytes e.2 }
      { s with hostL2 := s.hostL2.update e.1 (fun l => { l with dirty := 0 }) }
    else s) s

/-- The bytes that a release at `.sys` of an owner writes across the link. -/
def dirtyOf (s : State) (owner : Nat) : Nat :=
  (s.hostL2.filter (fun e => e.2.owner == owner)).foldl (fun n e => n + (dirtyBytes e.2).length) 0

/-- A release at `.sys` writes the owner's dirty host lines across the link (R180). -/
def State.flushHost (s : State) (owner : Nat) : State := s.flushLines (fun _ l => l.owner == owner)

/-- A write to host memory is performed at `.sys` once its line has been written across the link (R178). -/
def State.flushAt (s : State) (l : Loc) : State :=
  match l with
  | .host _ p a _ => s.flushLines (fun k _ => k == hostLineKey p a)
  | _ => s

/-- An acquire at `.sys` discards the owner's clean host lines (R180). -/
def State.dropHost (s : State) (owner : Nat) : State :=
  { s with hostL2 := s.hostL2.filter (fun e => !(e.2.owner == owner && e.2.dirty == 0)) }

/-! ### Bytes at a place -/

/-- Read `n` bytes at a place. Reading a host line brings it into the L2. (DESIGN CHOICE, log 4) -/
def State.readLoc (s : State) (owner : Nat) (l : Loc) (n : Nat) : List Byte × State :=
  match l with
  | .dev pa => (s.devBytes pa n, s.touch pa n)
  | .host i p a uc => s.hostRead owner i p a n uc
  | .bench k => (s.bench.getRange k n, s)
  | .marver k => (s.marver.getRange k n, s)

/-- Write bytes at a place. -/
def State.writeLoc (s : State) (owner : Nat) (l : Loc) (bs : List Byte) : State :=
  match l with
  | .dev pa => s.writeDev pa bs
  | .host i p a uc => s.hostStore owner i p a bs uc
  | .bench k => { s with bench := s.bench.setRange k bs }
  | .marver k => { s with marver := s.marver.setRange k bs }

/-! ### Monitors (R165) -/

/-- Every monitor on the line fires. -/
def State.fireMonitors (s : State) (sp : LockSpace) (line : Nat) : State :=
  { s with threads := s.threads.map (fun e =>
      if e.2.monLine = some (sp, line) then (e.1, { e.2 with fired := true }) else e) }

/-! ### The race directory (R188–R192) -/

/-- The granules of a line that `n` bytes at an offset touch. -/
def granuleMask (off n : Nat) : Nat := (2 ^ ((off + n - 1) / 8 + 1 - off / 8) - 1) * 2 ^ (off / 8)

/-- The launch of a VGID: a workgroup's, or a set instance's. -/
def launchOfVgid (s : State) (v : Nat) : Nat :=
  if (s.wgs.get v).phase = .none then (s.sets.get v).launch else (s.wgs.get v).launch

/-- Remove the last entry of a die from a list that is newest first. -/
def dropOldest (die : Nat) (ls : List OpenLine) : List OpenLine × Option OpenLine :=
  match ls.reverse.find? (fun e => e.die == die) with
  | none => (ls, none)
  | some e => ((ls.reverse.erase e).reverse, some e)

/-- A directory takes a new entry; when it is full it closes its oldest, which the entry's launch loses (R188, R192). -/
def State.enterLine (s : State) (e : OpenLine) : State :=
  if (s.opened.filter (fun x => x.die == e.die)).length < 1048576 then { s with opened := e :: s.opened }
  else
    match dropOldest e.die s.opened with
    | (rest, none) => { s with opened := e :: rest }
    | (rest, some old) =>
      let s := { s with opened := e :: rest }
      let s := s.setDie e.die (fun d => { d with raceLoss := d.raceLoss + 1 })
      s.setLaunch (launchOfVgid s old.vgid) (fun x => { x with raceLoss := min (x.raceLoss + 1) (2 ^ 32 - 1) })

/-- Open granules of a line under a VGID (R188). -/
def State.openLine (s : State) (vgid : Nat) (l : Loc) (n : Nat) : State :=
  let (die, sp, line, _) := l.line
  let mask := granuleMask l.lineOff n
  if vgid = 0 then s
  else if s.opened.any (fun e => e.vgid == vgid && e.space == sp && e.line == line) then
    { s with opened := s.opened.map (fun e =>
        if e.vgid = vgid ∧ e.space = sp ∧ e.line = line then { e with mask := e.mask ||| mask } else e) }
  else s.enterLine { die := die, space := sp, line := line, vgid := vgid, mask := mask }

/-- Close every granule open under a VGID, on every die (R189). -/
def State.closeVgid (s : State) (vgid : Nat) : State :=
  { s with opened := s.opened.filter (fun e => e.vgid != vgid) }

/-- Open lines without the granules of a VGID that masks name. -/
def closedBy (vgid : Nat) (ls : List Opened) (es : List OpenLine) : List OpenLine :=
  (es.map (fun e =>
      if e.vgid = vgid then
        { e with mask := ls.foldl (fun m x => if x.space = e.space ∧ x.line = e.line then m - (m &&& x.mask) else m) e.mask }
      else e)).filter (fun e => e.mask != 0)

/-- Close the granules that an operation part or a copy opened (R27, R189): those of its VGID in the masks it wrote. -/
def State.closeLines (s : State) (vgid : Nat) (ls : List Opened) : State := { s with opened := closedBy vgid ls s.opened }

/-- The granules that a write of `n` bytes at a place opens. -/
def Loc.granules (l : Loc) (n : Nat) : Opened :=
  { space := l.line.2.1, line := l.line.2.2.1, mask := granuleMask l.lineOff n }

/-- The first byte of `n` bytes at a place that lies in a granule open under another VGID, counted from the place (R190). -/
def raceAt (s : State) (vgid : Nat) (l : Loc) (n : Nat) : Option Nat :=
  if vgid = 0 then none
  else
    let (_, sp, line, _) := l.line
    let other := s.opened.foldl (fun m e =>
      if e.space = sp ∧ e.line = line ∧ e.vgid ≠ vgid then m ||| e.mask else m) 0
    (List.range n).find? (fun i => bitOf other ((l.lineOff + i) / 8))

/-! ### Plain writes and the memory port (R178) -/

/-- Perform a plain write at its home or bank: the bytes, the monitors, the directory. -/
def State.perform (s : State) (owner vgid : Nat) (l : Loc) (bs : List Byte) : State :=
  let (_, sp, line, _) := l.line
  ((s.writeLoc owner l bs).fireMonitors sp line).openLine vgid l bs.length

/-- The home performs one store that a memory port has accepted. (DEDUCED, log 9) -/
def State.performPort (s : State) (p : PortStore) : State :=
  ({ s with port := s.port.filter (fun q => q.pid != p.pid) }).perform p.owner p.vgid p.loc p.bytes

/-- Perform, in order, the port's stores that a condition names. (DEDUCED, log 10) -/
def State.drainPort (s : State) (c : PortStore → Bool) : State :=
  (s.port.filter c).foldl (fun s p => s.performPort p) s

/-- Whether two places lie in one home slice: in one line, or in lines that the free value `Config.l2Slice` puts
together (R178). (DESIGN CHOICE, log 97) -/
def sameSlice (a b : Loc) : Bool :=
  a.line == b.line || (a.home == b.home && Config.l2Slice a.line.2.2.1 == Config.l2Slice b.line.2.2.1)

/-- The stores on the ordered path from a die to the home die of a place, up to the last one to the place's home slice: what an
access from that die to the line follows (R178). (DEDUCED, log 9) -/
def crossAhead (s : State) (die : Nat) (l : Loc) : List PortStore :=
  ((s.port.filter (fun p => p.cross && dieOfCore p.core == die && p.loc.home == l.home)).reverse.dropWhile
    (fun p => !sameSlice p.loc l)).reverse

/-- An access from a die to a line reaches its home behind the stores that the cross-die path holds for it (R178). (DEDUCED, log 9) -/
def State.drainCross (s : State) (die : Nat) (l : Loc) : State :=
  (crossAhead s die l).foldl (fun s p => s.performPort p) s

/-- An access of a core to a line reaches its home behind the core's earlier stores to that home slice (R178). (DEDUCED, log 9) -/
def State.drainLine (s : State) (core : Nat) (l : Loc) : State :=
  (s.drainCross (dieOfCore core) l).drainPort (fun p => p.core == core && !p.cross && sameSlice p.loc l)

/-- A core's memory port accepts a store (R178). (DEDUCED, log 9) -/
def State.portStore (s : State) (core owner vgid va : Nat) (l : Loc) (bs : List Byte) : State :=
  { s with
    port := s.port ++ [{ pid := s.serial, core := core, owner := owner, vgid := vgid, va := va, loc := l, bytes := bs,
                         cross := false }]
    serial := s.serial + 1 }

/-- A core's stores that its die does not home move from its port onto the ordered cross-die path (R178). -/
def State.sendCross (s : State) (core : Nat) : State :=
  let goes := fun (p : PortStore) => p.core == core && !p.cross && p.loc.home != dieOfCore core
  { s with port := s.port.filter (fun p => !goes p) ++ (s.port.filter goes).map (fun p => { p with cross := true }) }

/-! ### Releases and acquires -/

/-- Scope codes of R148. -/
def scopeWg : Nat := 0
def scopeDie : Nat := 1
def scopePkg : Nat := 2
def scopeSys : Nat := 3

/-- The core's accepted stores are performed at a scope (R178): at `.die` those homed on the die reach their home and the
others the cross-die path; beyond it all reach their home, with all that the die's path holds, which the thread may have
seen (R185). (DEDUCED, log 10) -/
def State.performAt (s : State) (core scope : Nat) : State :=
  if scope = scopeWg then s
  else if scope = scopeDie then (s.drainPort (fun p => p.core == core && !p.cross && p.loc.home == dieOfCore core)).sendCross core
  else s.drainPort (fun p => p.core == core || (p.cross && dieOfCore p.core == dieOfCore core))

/-- What a release waits for before its own access issues, once its thread's slots are clear: the accesses before it are
performed at its scope, at `.sys` across the link too (R149, R180). (DEDUCED, log 10) -/
def State.settleFor (s : State) (w scope : Nat) : State :=
  let s := s.performAt (coreOf w) scope
  if scope = scopeSys then s.flushHost (s.warp w).owner else s

/-- A release that completes closes its workgroup's open lines (R189). -/
def State.closeFor (s : State) (w : Nat) : State := if (s.warp w).vgid = 0 then s else s.closeVgid (s.warp w).vgid

/-- A release without an access of its own: it waits, and closes at once. (DEDUCED, log 10) -/
def State.release (s : State) (w scope : Nat) : State := (s.settleFor w scope).closeFor w

/-- What an acquire at a scope does beyond holding later accesses back (R180). -/
def State.acquire (s : State) (w scope : Nat) : State :=
  if scope = scopeSys then s.dropHost (s.warp w).owner else s

/-- An acquire is satisfied in the listed lanes: later memory accesses of those threads wait on the slots of the accesses
before it (R182). -/
def State.acquireIn (s : State) (w scope : Nat) (lanes : List Nat) : State :=
  (s.acquire w scope).onLanes w lanes (fun l t => { t with acqSlots := t.acqSlots ||| accessSlots s w l })

/-- The scope of an ordering code (R148). -/
def ordScope (c : Nat) : Nat := c / 8 % 4
/-- Whether an ordering code is a release. -/
def ordRel (c : Nat) : Bool := [2, 3, 4].contains (c % 8)
/-- Whether an ordering code is an acquire. -/
def ordAcq (c : Nat) : Bool := [1, 3, 4].contains (c % 8)

end Sys2Proof.Machine
end

