-- ==== Sys2Proof/Machine/Translate.lean ====
section
/-! DEFINITION. Translation: the TLB arrays (R334–R336), the pinned reserve and its directory (R338, R339), walk requests
(R341, R343), and the path to host memory (R367). -/

namespace Sys2Proof.Machine

/-- The kinds of access (R336, R343). -/
inductive Acc | read | write | exec | atomic
deriving DecidableEq, Repr

def Acc.code : Acc → Nat
  | .read => 0 | .write => 1 | .exec => 2 | .atomic => 3
def Acc.writes : Acc → Bool
  | .write | .atomic => true
  | _ => false

/-! ### TLB arrays (R334): most recently used first -/

def tlbNormal (die : Nat) : Nat := 4 * die
def tlbHuge (die : Nat) : Nat := 4 * die + 1
def tlbPinned (die : Nat) : Nat := 4 * die + 2
def tlbCore (core : Nat) : Nat := 16 + core
def tlbQuad (quad : Nat) : Nat := 4096 + quad

/-- The arrays a die lookup reads. -/
def dieArrays (die : Nat) : List Nat := [tlbNormal die, tlbHuge die, tlbPinned die]

/-- How many entries an array holds; the pinned array holds 16 per owner by R338. -/
def tlbCap (k : Nat) : Nat := if 4096 ≤ k then 64 else if 16 ≤ k then 512 else if k % 4 = 0 then 4096 else 64

def pageBits (size : Nat) : Nat := [16, 21, 29, 34].getD size 16
def TlbEntry.bytes (e : TlbEntry) : Nat := 2 ^ pageBits e.size
def TlbEntry.covers (e : TlbEntry) (owner va : Nat) : Bool :=
  e.owner == owner && decide (e.va ≤ va) && decide (va < e.va + e.bytes)
def TlbEntry.permits (e : TlbEntry) (a : Acc) : Bool :=
  match a with
  | .read => e.r | .write => e.w | .exec => e.x | .atomic => e.r && e.w

/-- Put an entry first in an array, dropping other copies of its page and the least recently used beyond the size. -/
def State.tlbPut (s : State) (k : Nat) (e : TlbEntry) : State :=
  { s with tlb := s.tlb.update k (fun es =>
      let rest := es.filter (fun x => !(x.owner == e.owner && x.va == e.va))
      if k < 16 ∧ k % 4 = 2 then e :: rest else (e :: rest).take (tlbCap k)) }

/-- The first entry of an array that covers an address with a permission. -/
def tlbFind (s : State) (k owner va : Nat) (a : Acc) : Option TlbEntry :=
  (s.tlb.get k).find? (fun e => e.covers owner va && e.permits a)

/-- Whether any entry of the arrays covers the address. -/
def tlbSeen (s : State) (ks : List Nat) (owner va : Nat) : Bool :=
  ks.any (fun k => (s.tlb.get k).any (fun e => e.covers owner va))

/-- Look up through the arrays in order. A hit becomes the most recently used entry of its array and fills the quad and
core arrays passed on the way (R334). -/
def tlbLookup (s : State) (ks : List Nat) (owner va : Nat) (a : Acc) : Option (TlbEntry × State) :=
  match ks with
  | [] => none
  | k :: r =>
    match tlbFind s k owner va a with
    | some e => some (e, s.tlbPut k e)
    | none =>
      match tlbLookup s r owner va a with
      | none => none
      | some (e, s') => some (e, if 16 ≤ k then s'.tlbPut k e else s')

/-! ### The reserve (R338, R339) -/

/-- Where an address of the owner's reserve lies: a pinned entry always covers it. (DESIGN CHOICE, log 29) -/
def resAddr (s : State) (owner va : Nat) : Option Nat :=
  ((s.tlb.get (tlbPinned 0)).find? (fun e => e.covers owner va)).map (fun e => e.frame + (va - e.va))

def inReserve (o : Owner) (va n : Nat) : Bool := decide (o.rbase ≤ va) && decide (va + n ≤ o.rbase + o.rsize)

/-- Cut `n` bytes at 64-byte lines: address and length of each piece. -/
def cut64 : Nat → Nat → Nat → List (Nat × Nat)
  | 0, _, _ => []
  | fuel + 1, va, n =>
    if n = 0 then []
    else
      let k := min n (64 - va % 64)
      (va, k) :: cut64 fuel (va + k) (n - k)

/-- Read bytes of the reserve. -/
def resRead (s : State) (owner va n : Nat) : List Byte :=
  (cut64 (n / 64 + 2) va n).flatMap (fun p => match resAddr s owner p.1 with
    | none => List.replicate p.2 0
    | some pa => s.devBytes pa p.2)

/-- Write bytes of the reserve as the hardware does: the write opens nothing (R188). -/
def State.resWrite (s : State) (owner va : Nat) (bs : List Byte) : State :=
  (cut64 (bs.length / 64 + 2) va bs.length).foldl (fun s p => match resAddr s owner p.1 with
    | none => s
    | some pa => s.perform owner 0 (.dev pa) ((bs.drop (p.1 - va)).take p.2)) s

def resWord (s : State) (owner va : Nat) : Nat := leNat (resRead s owner va 8)
def State.resPutWord (s : State) (owner va x : Nat) : State := s.resWrite owner va (leBytes 8 x)

/-- Word `k` of the reserve directory (R339). -/
def dirWord (s : State) (owner k : Nat) : Nat := resWord s owner ((s.owners.get owner).rbase + 8 * k)

/-- A handler entry PC, unless it is absent (R339). -/
def handlerPc (s : State) (owner k : Nat) : Option Nat :=
  let pc := dirWord s owner k
  if pc = 0 ∨ pc % 4 ≠ 0 ∨ !inReserve (s.owners.get owner) pc 4 then none else some pc

def walkPc (s : State) (owner : Nat) : Option Nat := handlerPc s owner 2
def faultPc (s : State) (owner : Nat) : Option Nat := handlerPc s owner 3
def trapPc (s : State) (owner : Nat) : Option Nat := handlerPc s owner 4
def savePc (s : State) (owner : Nat) : Option Nat := handlerPc s owner 5
def svcPc (s : State) (owner : Nat) : Option Nat := handlerPc s owner 6

/-- The virtual address of a directory region of `n` bytes, unless it is absent (R339). -/
def region (s : State) (owner k n : Nat) : Option Nat :=
  let o := s.owners.get owner
  let off := dirWord s owner k
  if off + n ≤ o.rsize then some (o.rbase + off) else none

/-- Every core of an owner, in the order of R340. -/
def ownerCores (o : Owner) : List Nat := (List.range 2048).filter (fun c => o.cores.contains c || o.shares.contains c)
/-- The owner's number for a core (R340). -/
def coreIndex (s : State) (owner core : Nat) : Nat := posIn core (ownerCores (s.owners.get owner))
def coreCount (s : State) (owner : Nat) : Nat := (ownerCores (s.owners.get owner)).length

def templateTable (s : State) (owner : Nat) : Option Nat := region s owner 7 (512 * 1024)
def originTable (s : State) (owner : Nat) : Option Nat := region s owner 8 (4 * 30 * 64)
/-- The fault queue's base and its number of entries (R339, R357). -/
def faultQueue (s : State) (owner : Nat) : Option (Nat × Nat) :=
  let n := dirWord s owner 10
  if 64 ≤ n ∧ n ≤ 65536 ∧ n = 2 ^ Nat.log2 n ∧ dirWord s owner 9 % 64 = 0 then
    (region s owner 9 (64 * n)).map (fun b => (b, n))
  else none
/-- The handler frame pair of a core (R340). -/
def frameBase (s : State) (owner core : Nat) : Option Nat :=
  (region s owner 11 (0x20000 * coreCount s owner)).map (fun b => b + 0x20000 * coreIndex s owner core)
/-- The save frame of the owner's core number `k` (R354). -/
def saveFrame (s : State) (owner k : Nat) : Option Nat :=
  (region s owner 12 (0x110000 * coreCount s owner)).map (fun b => b + 0x110000 * k)
/-- The spill pool: base and bytes (R150, R339). -/
def spillPool (s : State) (owner : Nat) : Option (Nat × Nat) :=
  let n := dirWord s owner 18
  if n = 0 then none else some (dirWord s owner 17, n)
def autodisp (s : State) (owner : Nat) : Bool := bitOf (dirWord s owner 14) 0

/-! ### Translating an access -/

/-- Who asks, and what for. -/
structure XReq where
  owner : Nat
  die   : Nat
  keys  : List Nat
  core  : Nat            -- the core whose supervisor warp a walk goes to (R341)
  vgid  : Nat
  kind  : Nat            -- KIND of R343
  req   : Requester
  acc   : Acc
deriving DecidableEq, Repr

/-- What a lookup comes to. `wait` has recorded the requester; `full` found no free request; `refused` is REFUSE. -/
inductive Xlate
  | ok (l : Loc)
  | wait
  | full
  | refused
deriving DecidableEq, Repr

/-- Add a requester once. -/
def addReq (r : Requester) (rs : List Requester) : List Requester := if rs.contains r then rs else rs ++ [r]

/-- The request word (R343). -/
def requestWord (q : XReq) (perm : Bool) : Nat := q.vgid * 2 ^ 16 + q.kind * 2 ^ 8 + b2n perm * 2 ^ 7 + q.acc.code

/-- Whether a requester looks up again only when its request ends: an engine part or the launch unit. A thread that looks up
again has been withdrawn and reissues (R341, R350). -/
def isUnit (r : Requester) : Bool :=
  match r with
  | .engine _ | .launch _ => true
  | _ => false

/-- Whether an engine part or the launch unit already waits on a walk request or a posted fault of the granule (R335, R341,
R359). (DEDUCED, log 15) -/
def awaits (s : State) (q : XReq) (g : Nat) : Bool :=
  isUnit q.req &&
  (s.walks.any (fun r => r.owner == q.owner && r.die == q.die && r.granule == g && r.waiters.contains q.req) ||
   s.faults.any (fun f => f.1 / 2 ^ 32 == q.owner && f.2.live && f.2.va / 2 ^ 16 == g && f.2.waiters.contains q.req) ||
   s.held.any (fun h => h.owner == q.owner && h.va / 2 ^ 16 == g && h.waiters.contains q.req))

/-- A die-TLB miss: join or make a walk request (R341). (DEDUCED, log 15) -/
def walkMiss (s : State) (q : XReq) (va : Nat) : Xlate × State :=
  let g := va / 2 ^ 16
  if (walkPc s q.owner).isNone then (.refused, s)
  else if s.walks.any (fun r => r.owner == q.owner && r.die == q.die && r.granule == g) then
    (.wait, { s with walks := s.walks.map (fun r =>
      if r.owner = q.owner ∧ r.die = q.die ∧ r.granule = g then { r with waiters := addReq q.req r.waiters } else r) })
  else if 256 ≤ (s.walks.filter (fun r => r.owner == q.owner && r.die == q.die)).length then (.full, s)
  else
    let word := BitVec.ofNat 64 (requestWord q (tlbSeen s q.keys q.owner va))
    let r : WalkReq := { owner := q.owner, die := q.die, granule := g, va := va, word := word, core := q.core,
                         waiters := [q.req], taken := false }
    (.wait, { s with walks := s.walks ++ [r] })

/-- Whether the device translation cache grants an access (R367). -/
def dtcHit (s : State) (pasid ha : Nat) (a : Acc) : Bool :=
  s.dtc.any (fun e => e.pasid == pasid && e.page == ha / 4096 && (!a.writes || e.w) && (a == .write || e.r))

/-- Move a page's cache entry to the front. -/
def dtcTouch (s : State) (pasid ha : Nat) : State :=
  let hit := s.dtc.filter (fun e => e.pasid == pasid && e.page == ha / 4096)
  let rest := s.dtc.filter (fun e => !(e.pasid == pasid && e.page == ha / 4096))
  { s with dtc := hit ++ rest }

/-- Ask the host for a translation (R367); one request per page and permission asked, and every access that needs it joins. -/
def atsAsk (s : State) (q : XReq) (ifc pasid ha va : Nat) : State :=
  let page := ha / 4096
  let g := (q.owner, va / 2 ^ 16)
  let rd := q.acc != .write
  let mine := fun (r : AtsReq) => r.pasid == pasid && r.page == page && r.read == rd && r.write == q.acc.writes
  if s.ats.any mine then
    { s with ats := s.ats.map (fun r =>
        let gs := if r.granules.contains g then r.granules else r.granules ++ [g]
        if mine r then { r with waiters := addReq q.req r.waiters, granules := gs } else r) }
  else
    let r : AtsReq := { ifc := ifc, pasid := pasid, page := page, read := rd, write := q.acc.writes, granules := [g],
                        waiters := [q.req], prg := none, denied := false }
    { s with ats := s.ats ++ [r] }

/-- Whether an access to a host line must wait while the host is lost or parked writes are replayed (R404, R405). -/
def hostWaits (s : State) (pasid ha : Nat) (uc : Bool) (a : Acc) : Bool :=
  hostHeld s &&
  (if uc then a != .write || !parkFits s 64 else !(s.hostL2.get (hostLineKey pasid ha)).valid)

/-- The path of an access through a tier-2 translation (R367). -/
def hostXlate (s : State) (q : XReq) (e : TlbEntry) (va : Nat) : Xlate × State :=
  let ha := e.frame + (va - e.va)
  let pasid := (s.ifcs.get e.ifc).pasid
  if dtcHit s pasid ha q.acc then
    if hostWaits s pasid ha e.uc q.acc then (.wait, s)
    else (.ok (.host e.ifc pasid ha e.uc), dtcTouch s pasid ha)
  else (.wait, atsAsk s q e.ifc pasid ha va)

/-- Translate one address for an access (R334–R336, R367). An access that has joined a request waits until it ends (R341). -/
def xlate (s : State) (q : XReq) (va : Nat) : Xlate × State :=
  if awaits s q (va / 2 ^ 16) then (.wait, s)
  else match tlbLookup s q.keys q.owner va q.acc with
  | some (e, s') =>
    if e.tier = 2 then hostXlate s' q e va else (.ok (.dev (e.frame + (va - e.va))), s')
  | none => walkMiss s q va

/-- The request of an access of a warp, by the number of the access. A supervisor warp's own access is a handler's (R343). -/
def threadReq (s : State) (w k : Nat) (a : Acc) : XReq where
  owner := (s.warp w).owner
  die := dieOf w
  keys := [tlbQuad (quadOf w), tlbCore (coreOf w)] ++ dieArrays (dieOf w)
  core := coreOf w
  vgid := (s.warp w).vgid
  kind := if isSup w then 5 else 0
  req := .thread w k
  acc := a

/-- The request of an engine of a core: transfer (KIND 1) or cube (KIND 2). -/
def coreReq (core owner vgid kind op : Nat) (a : Acc) : XReq where
  owner := owner
  die := dieOfCore core
  keys := tlbCore core :: dieArrays (dieOfCore core)
  core := core
  vgid := vgid
  kind := kind
  req := .engine op
  acc := a

/-- The core that walks for the collective engine and the launch unit (R341). -/
def walkCore (s : State) (owner die : Nat) : Nat :=
  let cs := ownerCores (s.owners.get owner)
  match cs.find? (fun c => dieOfCore c == die) with
  | some c => c
  | none => cs.headD 0

/-- The request of a collective operation (KIND 3), an ingest landing (vgid 0) or the launch unit (KIND 4). -/
def dieReq (s : State) (die owner vgid kind : Nat) (r : Requester) (a : Acc) : XReq where
  owner := owner
  die := die
  keys := dieArrays die
  core := walkCore s owner die
  vgid := vgid
  kind := kind
  req := r
  acc := a

end Sys2Proof.Machine
end

