-- ==== Sys2Proof/Machine/Invoke.lean ====
section
/-! DEFINITION. What handlers and their requests share: ending a launch early (R62), waking, refusing and exhausting
accesses (R350), charging (R363), the fault queue (R357–R360), the warp record (R352, R353), and entering, nesting,
freezing and discarding handler invocations (R342–R344, R364, R365). -/

namespace Sys2Proof.Machine

/-! ### Launches that end early (R62, R205) -/

/-- The status codes of R61. -/
def statusOk : Nat := 0
def statusBadLaunch : Nat := 1
def statusAborted : Nat := 2
def statusHandlerFault : Nat := 3
def statusExhausted : Nat := 4
def statusCancelled : Nat := 5
def statusReset : Nat := 6
def statusDepFail : Nat := 7

/-- The warps of a launch. -/
def warpsOfLaunch (s : State) (l : Nat) : List Nat :=
  s.warps.keys.filter (fun w => (s.warp w).live && !isSup w && s.launchOf w == l)

/-- Take requesters out of every list of waiters (R350, R360). -/
def State.dropReqs (s : State) (c : Requester → Bool) : State :=
  let out := fun (rs : List Requester) => rs.filter (fun r => !c r)
  { s with
    walks := s.walks.map (fun r => { r with waiters := out r.waiters })
    faults := s.faults.map (fun e => (e.1, { e.2 with waiters := out e.2.waiters }))
    held := s.held.map (fun h => { h with waiters := out h.waiters })
    ats := s.ats.map (fun r => { r with waiters := out r.waiters }) }

/-- Whether a requester is an access of a warp's threads, other than its trap frames. -/
def Requester.accessOf (r : Requester) (w : Nat) : Bool :=
  match r with
  | .thread v a => v == w && a != 0
  | _ => false

/-- Whether a requester is a warp, its trap frames among its accesses. -/
def Requester.ofWarp (r : Requester) (w : Nat) : Bool :=
  match r with
  | .thread v _ => v == w
  | _ => false

/-- The lower of two workgroup indices, where there are two. -/
def lowerWg (a b : Option Nat) : Option Nat :=
  match a, b with
  | some x, some y => some (min x y)
  | some x, none => some x
  | none, y => y

/-- End a launch early: its warps issue nothing more, and the launch unit, whose accesses for it wait no longer, ends it
(R62, R360). The first cause of the end stands; `wg` is the workgroup whose own work caused it, the lowest of those that
one step ends (R60 FAILWG). -/
def State.endLaunch (s : State) (l status detail : Nat) (wg : Option Nat) : State :=
  let x := s.launches.get l
  if x.state = .none then s
  else if x.ending then
    (if x.endTick = s.tick ∧ x.status = status then s.setLaunch l (fun x => { x with failWg := lowerWg x.failWg wg }) else s)
  else
    let s := s.setLaunch l (fun x =>
      { x with ending := true, endTick := s.tick, state := .ending, status := status, detail := detail, failWg := wg,
               refused := [] })
    let s := (warpsOfLaunch s l).foldl (fun s w => s.setWarp w (fun x => { x with stopped := true })) s
    (s.dropReqs (· == .launch l)).post (.launchEnd l)

/-- The lowest cause bit pending in CAUSE (R205). -/
def lowestCause (c : BitVec 32) : Nat := ((List.range 23).find? (fun i => c.getLsbD i)).getD 0

/-- The hardware ends a warp's launch with ABORTED (R197, R200, R203, R205). -/
def State.abortWarp (s : State) (w : Nat) : State :=
  s.endLaunch (s.launchOf w) statusAborted (0x80 + lowestCause (s.warp w).cause) (some (s.wg w).index)

/-! ### Requesters -/

/-- The VGID that an engine operation carries, wherever it runs. -/
def vgidOfOp (s : State) (op : Nat) : Option Nat :=
  match (s.xfer.flatMap (·.2)).find? (fun x => x.op == op) with
  | some x => some x.vgid
  | none =>
    match (s.cores.flatMap (fun c => c.2.cube)).find? (fun x => x.op == op) with
    | some x => some x.vgid
    | none => (s.colls.find? (fun x => x.op == op)).map (fun x => x.vgid)

/-- The launch that an engine operation serves. -/
def launchOfOp (s : State) (op : Nat) : Option Nat := (vgidOfOp s op).map (launchOfVgid s)

/-- The launch of a requester; none for handlers and ingest. -/
def launchOfReq (s : State) (r : Requester) : Option Nat :=
  match r with
  | .thread w _ => if s.launchOf w = 0 then none else some (s.launchOf w)
  | .engine op => match launchOfOp s op with
    | some 0 => none
    | x => x
  | .launch l => some l
  | .handler _ => none
  | .parked => none
  | .debug _ => none

/-- The workgroup index of a requester, a thread or an engine operation, for FAILWG (R60). -/
def wgOfReq (s : State) (r : Requester) : Option Nat :=
  match r with
  | .thread w _ => if isSup w then none else some (s.wg w).index
  | .engine op => (vgidOfOp s op).bind (fun v => if v = 0 then none else some (s.wgs.get v).index)
  | _ => none

/-- The access whose translation a thread waits for, and what it still misses. -/
def Thread.missing (t : Thread) : Option (Nat × List (Nat × Nat)) :=
  match t.wait with
  | .translation a ms => some (a, ms)
  | _ => none

/-- The access number of a thread that waits for a translation of the granule. -/
def Thread.misses (t : Thread) (g : Nat) : Option Nat :=
  t.missing.bind (fun x => if x.2.any (fun m => m.1 == g) then some x.1 else none)

/-- The lanes of one access of a warp, those that miss nothing among them. (DEDUCED, log 16) -/
def accessLanes (s : State) (w a : Nat) : List Nat :=
  (s.liveLanes w).filter (fun l => ((s.thread w l).missing).map (·.1) == some a)

/-- Put threads back in the ready set. -/
def State.ready (s : State) (w : Nat) (ls : List Nat) : State :=
  s.onLanes w ls (fun _ t => { t with wait := .ready, since := s.tick, urgent := false })

/-- A granule is resolved for a thread that waits. -/
def Thread.resolve (t : Thread) (g : Nat) : Thread :=
  match t.wait with
  | .translation a ms => { t with wait := .translation a (ms.filter (fun m => m.1 != g)) }
  | _ => t

/-- A granule is resolved for an access of a warp; the access looks up again, for every lane at once, when it misses no
other (R372). (DEDUCED, log 16) -/
def State.replayAccess (s : State) (w g a : Nat) : State :=
  let ls := accessLanes s w a
  let s := s.onLanes w ls (fun _ t => t.resolve g)
  if ls.all (fun l => ((s.thread w l).missing).map (·.2) == some []) then s.ready w ls else s

/-- Whether an access of a warp waits for the granule. -/
def accessOn (s : State) (w g a : Nat) : Bool := (s.liveLanes w).any (fun l => (s.thread w l).misses g == some a)

/-- The accesses that wait look up again (R350 REPLAY). Engines and the launch unit try again by themselves. -/
def State.replay (s : State) (rs : List Requester) (g : Nat) : State :=
  rs.foldl (fun s r => match r with
    | .thread w a => s.replayAccess w g a
    | _ => s) s

/-- Mark a cube operation of a core as refused. -/
def refuseCube (op : Nat) (c : Core) : Core :=
  let q := c.cube.map (fun x => if x.op = op then { x with refused := true } else x)
  { c with cube := q }

/-- Mark a landing zone as refused. (DEDUCED, log 82) -/
def refuseZone (op : Nat) (o : Owner) : Owner :=
  let zs := o.zones.map (fun e => (e.1, if e.2.armed ∧ e.2.op = op then { e.2 with refused := true } else e.2))
  { o with zones := zs }

/-- Mark an engine operation as refused. -/
def State.refuseOp (s : State) (op : Nat) : State :=
  { s with
    xfer := s.xfer.map (fun e => (e.1, e.2.map (fun x => if x.op = op then { x with refused := true } else x)))
    cores := s.cores.map (fun e => (e.1, refuseCube op e.2))
    owners := s.owners.map (fun e => (e.1, refuseZone op e.2))
    colls := s.colls.map (fun x => if x.op = op then { x with refused := true } else x) }

/-- The raises of the lanes whose own access is refused: TRANSLATE with its first address in the granule (R198). -/
def refusals (s : State) (w g : Nat) (ls : List Nat) : List Raise :=
  ls.filterMap (fun l => (((s.thread w l).missing).bind (fun x => x.2.find? (fun m => m.1 == g))).map (fun m =>
    ({ lane := l, bit := causeTranslate, addr := m.2 } : Raise)))

/-- Whether a warp is on its way into its trap handler and a word of its frames lies in the granule (R197). -/
def framesIn (s : State) (w g : Nat) : Bool :=
  let x := s.warp w
  x.live && !isSup w && !x.stopped && x.cause != 0 && !x.inHandler &&
  (s.liveLanes w).any (fun l => (List.range 4).any (fun k =>
    (x.spBase.toNat + 256 * ((s.thread w l).spd + k) + 8 * l) % 2 ^ 64 / 2 ^ 16 == g))

/-- One access of a warp fails, where it waits for the granule: TRANSLATE at the instruction in the lanes that miss it, without
waiting for its other requests (R372). Where the warp waits to write trap frames, a frame cannot be written (R197).
(DEDUCED, log 16) -/
def State.refuseAccess (s : State) (w g a : Nat) : State :=
  if a = 0 then (if framesIn s w g then s.setWarp w (fun x => { x with frameFail := true }) else s)
  else if !accessOn s w g a then s
  else
    let ls := accessLanes s w a
    let raises := refusals s w g ls
    (s.ready w ls).raise w raises

/-- The oldest parked write is dropped, and its interface counts an error (R405). -/
def State.dropParked (s : State) : State :=
  match s.module.parked with
  | [] => s
  | p :: r =>
    let s := { s with module := { s.module with parked := r } }
    match p.ifc with
    | some i => s.setIfc i (fun y => { y with errCnt := y.errCnt + 1 })
    | none => s

/-- The accesses that wait fail (R350 REFUSE). -/
def State.refuse (s : State) (rs : List Requester) (g : Nat) : State :=
  rs.foldl (fun s r => match r with
    | .thread w a => s.refuseAccess w g a
    | .engine op => s.refuseOp op
    | .launch l => s.setLaunch l (fun x => { x with refused := g :: x.refused })
    | .handler _ => s
    | .parked => s.dropParked
    | .debug o => { s with sessions := s.sessions.update o (fun x => { x with access := none }) }) s

/-- Whether a requester still waits on the granule (R350, R360). An engine operation and the launch unit stay in a list of
waiters until the request ends or they end, pause or are withdrawn (`xlate`, `State.dropReqs`). -/
def stillWaits (s : State) (r : Requester) (g : Nat) : Bool :=
  match r with
  | .thread w a => if a = 0 then framesIn s w g else accessOn s w g a
  | _ => true

/-- The launches of the accesses that wait end EXHAUSTED (R350). Of each launch its first access's workgroup caused the
end (R60). (DESIGN CHOICE, log 60) -/
def State.exhaust (s : State) (rs : List Requester) (g : Nat) : State :=
  let xs := (rs.filter (fun r => stillWaits s r g)).filterMap (fun r => (launchOfReq s r).map (fun l => (l, wgOfReq s r)))
  (xs.foldl (fun (acc : List (Nat × Option Nat)) x => if acc.any (fun y => y.1 == x.1) then acc else acc ++ [x]) []).foldl
    (fun s x => s.endLaunch x.1 statusExhausted 0 x.2) s

/-! ### Charging (R363) -/

/-- Add to the charges of the invocation on a core. (DEDUCED, log 13) -/
def State.chargeInv (s : State) (core cyc bytes : Nat) : State :=
  s.setCore core (fun c => { c with
    inv := c.inv.map (fun i => { i with hcyc := i.hcyc + cyc, hbytes := i.hbytes + bytes }) })

/-- Charge a launch that has not ended, or the owner when the request comes from none. -/
def State.chargeTo (s : State) (owner : Nat) (l : Option Nat) (cyc bytes : Nat) : State :=
  let live := match l with
    | some l => decide ((s.launches.get l).state ≠ .none)
    | none => false
  if live = true then s.setLaunch (l.getD 0) (fun x => { x with hcyc := x.hcyc + cyc, hbytes := x.hbytes + bytes })
  else s.setOwner owner (fun o => { o with chargeCyc := o.chargeCyc + cyc, chargeBytes := o.chargeBytes + bytes })

/-- Divide an invocation's charges equally among its items' launches; the remainder goes to item 0 (R363). (DEDUCED, log 13) -/
def State.divideCharges (s : State) (owner cyc bytes : Nat) (ls : List (Option Nat)) : State :=
  let n := ls.length
  if n = 0 then s.chargeTo owner none cyc bytes
  else
    (ls.zip (List.range n)).foldl (fun s x =>
      s.chargeTo owner x.1 (cyc / n + if x.2 = 0 then cyc % n else 0) (bytes / n + if x.2 = 0 then bytes % n else 0)) s

/-! ### The fault queue (R357–R360) -/

def faultKey (owner serial : Nat) : Nat := owner * 2 ^ 32 + serial % 2 ^ 32

/-- STATE of a fault-queue entry, at byte 32 of it. -/
def faultEntryVa (s : State) (owner index : Nat) : Nat := ((faultQueue s owner).map (·.1)).getD 0 + 64 * index
def faultState (s : State) (owner index : Nat) : Nat := leNat (resRead s owner (faultEntryVa s owner index + 32) 1)

/-- The 64 bytes of a new entry (R358). -/
def faultEntryBytes (s : State) (p : HeldPost) (serial : Nat) : List Byte :=
  let word := p.word.toNat
  let lo := p.detail * 2 ^ 160
  let st := p.depth * 2 ^ 264 + bitsOf word 10 8 * 2 ^ 272 + 2 ^ (276 + word % 4) + p.kind * 2 ^ 280 +
    serial % 2 ^ 32 * 2 ^ 288 + (p.core % 512) * 2 ^ 320 + dieOfCore p.core * 2 ^ 334
  let hi := bitsOf word 39 16 * 2 ^ 360 + nsAt s.tick % 2 ^ 64 * 2 ^ 384 + p.va * 2 ^ 448
  leBytes 64 (lo + p.user.toNat * 2 ^ 192 + st + hi)

/-- Accesses held in a die's waiter lists (R359). -/
def waitersOn (s : State) (die : Nat) : Nat :=
  (s.faults.filter (fun f => f.2.live && f.2.die == die)).foldl (fun n f => n + f.2.waiters.length) 0

/-- Whether a post finds the ring and the waiter lists with room (R357, R359). -/
def postFits (s : State) (p : HeldPost) : Bool :=
  match faultQueue s p.owner with
  | none => false
  | some (_, n) =>
    decide ((dirWord s p.owner 15 + 2 ^ 64 - dirWord s p.owner 16) % 2 ^ 64 < n) &&
    decide (waitersOn s p.die + p.waiters.length ≤ 8192)

/-- The open entry that a POSTED post merges into (R359). (DEDUCED, log 15) -/
def mergeTarget (s : State) (p : HeldPost) : Option Nat :=
  if p.kind ≠ 1 then none
  else
    ((s.dies.get p.die).lastPosts.find? (fun e =>
      e.1 == p.owner &&
      (let f := s.faults.get (faultKey p.owner e.2)
       f.live && f.va / 2 ^ 16 == p.va / 2 ^ 16 && f.kind == 1 && faultState s p.owner f.index == 0))).map (·.2)

/-- A frozen invocation keeps the serial of its HANDLER entry (R365). -/
def notePost (owner serial : Nat) (c : Core) : Core :=
  { c with inv := c.inv.map (fun i =>
      if i.frozen ∧ i.owner = owner then { i with posted := i.posted ++ [serial % 2 ^ 32] } else i) }

/-- Write a new entry at FQPROD (R357, R359). The hart's interrupt follows (R361). -/
def State.writeFault (s : State) (p : HeldPost) : State :=
  match faultQueue s p.owner with
  | none => s
  | some (base, n) =>
    let serial := dirWord s p.owner 15
    let f : FaultWaiters :=
      { live := true, index := serial % n, die := p.die, va := p.va, kind := p.kind, core := p.core,
        launch := p.launch, wg := p.wg, word := p.word, waiters := p.waiters, dispatched := none, order := 0, taken := false,
        seen := false }
    let s := s.resWrite p.owner (base + 64 * (serial % n)) (faultEntryBytes s p serial)
    let s := s.resPutWord p.owner ((s.owners.get p.owner).rbase + 8 * 15) ((serial + 1) % 2 ^ 64)
    let s := { s with faults := s.faults.set (faultKey p.owner serial) f }
    let s := if p.kind = 2 then s.setCore p.core (notePost p.owner serial) else s
    let s := s.setDie p.die (fun d => { d with lastPosts := ((p.owner, serial % 2 ^ 32) :: d.lastPosts).take 16 })
    s.setOwner p.owner (fun o => { o with hartIrq := true })

/-- Merge a post into an entry: eight bytes rewritten (R359). -/
def State.mergeFault (s : State) (p : HeldPost) (serial : Nat) : State :=
  let f := s.faults.get (faultKey p.owner serial)
  let at_ := faultEntryVa s p.owner f.index + 32
  let w := resWord s p.owner at_
  let acc := bitsOf w 23 20 ||| 2 ^ (p.word.toNat % 4)
  let w := w - bitsOf w 23 20 * 2 ^ 20 + acc * 2 ^ 20
  let mv := faultEntryVa s p.owner f.index + 42
  let merge := leNat (resRead s p.owner mv 2)
  let s := s.resPutWord p.owner at_ w
  let s := s.resWrite p.owner mv (leBytes 2 (min (merge + 1) 0xFFFF))
  { s with faults := s.faults.update (faultKey p.owner serial) (fun f =>
      { f with waiters := p.waiters.foldl (fun ws r => addReq r ws) f.waiters }) }

/-- Whether a post finds room: the waiter lists for one that merges, and the ring too for one that does not (R357, R359). -/
def postReady (s : State) (p : HeldPost) : Bool :=
  match mergeTarget s p with
  | some _ => decide (waitersOn s p.die + p.waiters.length ≤ 8192)
  | none => postFits s p

/-- Write a post that finds room; the result tells the bytes to charge (R359). -/
def State.putPost (s : State) (p : HeldPost) : State × Nat :=
  match mergeTarget s p with
  | some serial => (s.mergeFault p serial, 8)
  | none => (s.writeFault p, 64)

/-- Post to the fault queue. The result tells the bytes to charge now; a post that finds no room is held, behind those of its
owner that are held already, and is charged when it is written. (DEDUCED, log 15) -/
def State.postFault (s : State) (p : HeldPost) : State × Nat :=
  if (faultQueue s p.owner).isNone then (s.refuse p.waiters (p.va / 2 ^ 16), 0)
  else if postReady s p ∧ ((mergeTarget s p).isSome ∨ !s.held.any (fun h => h.owner == p.owner)) then s.putPost p
  else ({ s with held := s.held ++ [p] }, 0)

/-- Write the oldest held post that now fits, charging it to its launch (R363). -/
def State.writeHeld (s : State) : State :=
  match s.held.find? (postReady s) with
  | none => s
  | some p =>
    let r := { s with held := s.held.erase p }.putPost p
    r.1.chargeTo p.owner p.launch 0 r.2

/-! ### Warp records (R352, R353) -/

/-- The thread word of R353. -/
def threadWord (t : Thread) : Nat :=
  let aw := t.awaited.getD { set := false, entry := 0, phase := 0 }
  let ar := t.arrival.getD { set := false, entry := 0, phase := 0 }
  aw.entry * 2 ^ 57 + aw.phase * 2 ^ 49 + b2n t.arrival.isSome * 2 ^ 48 + ar.phase * 2 ^ 40 + b2n ar.set * 2 ^ 39 +
    ar.entry * 2 ^ 33 + b2n t.live * 2 ^ 32 + t.wcode * 2 ^ 29 + t.spd * 2 ^ 13 + t.slots.toNat * 2 ^ 7 + t.preds.toNat

def fmtTag : Nat := 0x57524A3800000001

/-- WARPW of R352. -/
def warpWord (x : Warp) : Nat :=
  x.units.length + x.flags.toNat * 2 ^ 4 + x.fen.toNat * 2 ^ 13 + b2n x.inHandler * 2 ^ 22 + x.cause.toNat * 2 ^ 23

/-- The 64-bit words of a warp record of `n` registers (R352). -/
def warpRecord (s : State) (w n : Nat) : List Nat :=
  lanes32.map (fun l => (s.thread w l).pc.toNat) ++
  lanes32.map (fun l => threadWord (s.thread w l)) ++
  lanes32.map (fun l => (s.thread w l).monitor.toNat) ++
  [warpWord (s.warp w)] ++ List.replicate 30 0 ++ [fmtTag] ++
  (List.range n).flatMap (fun r => lanes32.map (fun l => (s.v w l r).toNat))

def wordsBytes (ws : List Nat) : List Byte := ws.flatMap (leBytes 8)

/-- An arrival record from its fields, when valid. -/
def arrivalOf (valid set : Bool) (entry phase : Nat) : Option Arrival :=
  if valid then some { set := set, entry := entry, phase := phase } else none

/-- A thread from the words of its record. -/
def threadOfWords (pc tst mon : Nat) : Thread :=
  { (default : Thread) with
    live := bitOf tst 32,
    pc := BitVec.ofNat 64 pc,
    preds := BitVec.ofNat 7 tst,
    slots := BitVec.ofNat 6 (tst / 2 ^ 7),
    spd := bitsOf tst 28 13,
    wcode := bitsOf tst 31 29,
    arrival := arrivalOf (bitOf tst 48) (bitOf tst 39) (bitsOf tst 38 33) (bitsOf tst 47 40),
    awaited := arrivalOf (bitsOf tst 31 29 == 1) false (bitsOf tst 62 57) (bitsOf tst 56 49),
    monitor := BitVec.ofNat 64 mon,
    fired := true }

/-! ### Handler invocations (R342–R344) -/

/-- Clear every register and thread of the supervisor warp of a core. -/
def State.clearSup (s : State) (core : Nat) : State :=
  let w := supOf core
  { s with
    vregs := s.vregs.fill (vkey w 0 0) (32 * 512) 0
    wregs := s.wregs.fill (wkey w 0) 64 0
    threads := s.threads.fill (tid w 0) 32 default
    warps := s.warps.set w default }

/-- Set the state of R343: registers per lane, w registers, program counter and spill area of a depth (R340). -/
def State.enterSup (s : State) (core owner pc depth n : Nat) (vs : List (List Nat)) (ws : List Nat) : State :=
  let w := supOf core
  let s := s.clearSup core
  let base := (frameBase s owner core).map (fun b => b + 0x10000 * (depth - 1) + 0xC000)
  let s := s.setWarp w (fun x => { x with
    live := true, owner := owner, units := [0, 1], spBase := BitVec.ofNat 64 (base.getD 0),
    spLen := if base.isSome then 0x4000 else 0 })
  let s := s.onLanes w lanes32 (fun l t => { t with
    live := true, pc := BitVec.ofNat 64 pc, since := s.tick, preds := if l < n then 1 else 0 })
  let s := (vs.zip lanes32).foldl (fun s x =>
    (x.1.zip (List.range x.1.length)).foldl (fun s y => s.setV w x.2 y.2 (BitVec.ofNat 64 y.1)) s) s
  (ws.zip (List.range ws.length)).foldl (fun s y => s.setW w y.2 (BitVec.ofNat 64 y.1)) s

/-- The w registers of R343. -/
def supWs (s : State) (owner code depth n : Nat) (rest : List Nat) : List Nat :=
  [(s.owners.get owner).rbase, code, depth, owner, n] ++ rest

/-- Whether a walk request is the one that an item of a core's invocation holds. -/
def itemIs (core owner : Nat) (it : InvItem) (r : WalkReq) : Bool :=
  r.owner == owner && r.core == core && r.granule == it.key && r.die == it.die && r.taken

/-- The waiters, in order, of an item of a walk or fault invocation. -/
def itemWaiters (s : State) (core owner : Nat) (k : InvKind) (it : InvItem) : List Requester :=
  match k with
  | .walk => match s.walks.find? (itemIs core owner it) with
    | some r => r.waiters
    | none => []
  | .fault => (s.faults.get (faultKey owner it.key)).waiters
  | _ => []

/-- A walk request ends: an access that waits for a free one may try again (R341). -/
def State.endWalk (s : State) (c : WalkReq → Bool) : State :=
  let full := (s.walks.filter c).filter (fun r => decide (256 ≤ (s.walks.filter (fun q => q.owner == r.owner && q.die == r.die)).length))
  (full.map (·.die)).eraseDups.foldl (fun s d => s.post (.engineResourceFreed d)) { s with walks := s.walks.filter (fun r => !c r) }

/-- The launch that an item is charged to: that of its first requester (R363). -/
def itemLaunch (s : State) (core owner vgid : Nat) (k : InvKind) (it : InvItem) : Option Nat :=
  match k with
  | .walk => ((itemWaiters s core owner k it).head?).bind (launchOfReq s)
  | .fault => (s.faults.get (faultKey owner it.key)).launch
  | .save | .restore => if (s.wgs.get vgid).launch = 0 then none else some (s.wgs.get vgid).launch
  | .svc => match (s.cores.get core).mailbox.get it.key with
    | some r => some (launchOfVgid s r.vgid)
    | none => none

/-- The workgroup of an item's first requester, for FAILWG (R60). -/
def itemWg (s : State) (core owner vgid : Nat) (k : InvKind) (it : InvItem) : Option Nat :=
  match k with
  | .walk => ((itemWaiters s core owner k it).head?).bind (wgOfReq s)
  | .fault => (s.faults.get (faultKey owner it.key)).wg
  | .save | .restore => if vgid = 0 then none else some (s.wgs.get vgid).index
  | .svc => ((s.cores.get core).mailbox.get it.key).bind (fun r => if r.vgid = 0 then none else some (s.wgs.get r.vgid).index)

/-- Start a depth-1 invocation on a core: 24 entry cycles (R342, R363). -/
def State.startInv (s : State) (core owner pc code : Nat) (kind : InvKind) (vgid : Nat) (items : List InvItem)
    (vs : List (List Nat)) (rest : List Nat) : State :=
  let items := items.map (fun it => { it with launch := itemLaunch s core owner vgid kind it, wg := itemWg s core owner vgid kind it })
  let inv : Invocation := { owner := owner, kind := kind, depth := 1, items := items, vgid := vgid, start := s.tick,
                            hcyc := 24, hbytes := 0, outer := none, frozen := false, posted := [] }
  let s := s.enterSup core owner pc 1 items.length vs (supWs s owner code 1 items.length rest)
  s.setCore core (fun c => { c with inv := some inv })

/-- The depth-2 frame record of R364 lies at the start of the depth-2 frame. -/
def depth2Base (s : State) (owner core : Nat) : Nat := (frameBase s owner core).getD 0 + 0x10000

/-- Slots of a lane that instructions still in flight hold. -/
def slotsHeld (s : State) (w lane : Nat) : BitVec 6 :=
  s.pending.foldl (fun m p => if p.warp = w ∧ p.slot ≠ 0 ∧ p.lanes.contains lane then m ||| (1#6 <<< (p.slot - 1)) else m) 0

/-- The wait of a lane for an instruction of its own without a slot that is still in flight (R348). -/
def resultWait (s : State) (w lane : Nat) : Wait :=
  match s.pending.find? (fun p => p.warp == w && p.slot == 0 && p.lanes.contains lane) with
  | some p => .result p.pid
  | none => .ready

/-- `hret` at depth 2: restore the depth-1 state, FLAGS and FEN of the record's WARPW among it; the missing access reissues
(R364). A slot whose work has ended meanwhile is clear. (DEDUCED, log 86) -/
def State.unnest (s : State) (core : Nat) : State :=
  match (s.cores.get core).inv with
  | none => s
  | some inv =>
    match inv.outer with
    | none => s
    | some o =>
      let w := supOf core
      let base := depth2Base s inv.owner core
      let rd := fun k => resWord s inv.owner (base + 8 * k)
      let old := s.warp w
      let fb := (frameBase s inv.owner core).map (fun b => b + 0xC000)
      let ts := lanes32.map (fun l => threadOfWords (rd l) (rd (32 + l)) (rd (64 + l)))
      let vs : List (Nat × Word) := (List.range 64).flatMap (fun n =>
        lanes32.map (fun l => (vkey w l n, BitVec.ofNat 64 (rd (128 + 32 * n + l)))))
      let s := s.clearSup core
      let s := { s with warps := s.warps.set w { old with
        spBase := BitVec.ofNat 64 (fb.getD 0), cause := 0, syncNew := false,
        flags := BitVec.ofNat 9 (rd 96 / 2 ^ 4), fen := BitVec.ofNat 9 (rd 96 / 2 ^ 13) } }
      let s := { s with pending := s.pending.map (fun p => if p.warp = w then { p with outer := false } else p) }
      let s := (ts.zip lanes32).foldl (fun (s : State) (x : Thread × Nat) =>
        s.setThread w x.2 (fun _ => { x.1 with slots := x.1.slots &&& slotsHeld s w x.2, wait := resultWait s w x.2, since := s.tick })) s
      let s := { s with vregs := vs.foldl (fun (m : SMap Word) (x : Nat × Word) => m.set x.1 x.2) s.vregs }
      let s := (o.wregs.zip (List.range 64)).foldl (fun s x => s.setW w x.2 x.1) s
      s.setCore core (fun c => { c with inv := some { inv with
        depth := 1, items := o.items, kind := o.kind, start := o.start, outer := none } })

/-- The items of the depth-1 invocation. -/
def Invocation.base (i : Invocation) : InvKind × List InvItem :=
  match i.outer with
  | none => (i.kind, i.items)
  | some o => (o.kind, o.items)

/-- Stop every warp of the owner on a die at its next issue slot (R365): the frozen list holds the die. -/
def State.freeze (s : State) (owner die : Nat) : State :=
  s.setOwner owner (fun o => { o with frozen := if o.frozen.contains die then o.frozen else die :: o.frozen })
/-- A freeze lifts when no other invocation of the owner on the die is frozen. -/
def State.thaw (s : State) (owner die : Nat) : State :=
  if s.cores.any (fun c => dieOfCore c.1 == die && (match c.2.inv with
      | some i => i.frozen && i.owner == owner
      | none => false)) then s
  else s.setOwner owner (fun o => { o with frozen := o.frozen.filter (fun d => d != die) })

/-- Leave the supervisor warp empty and charge the invocation (R363). -/
def State.closeInv (s : State) (core : Nat) (ls : List (Option Nat)) : State :=
  match (s.cores.get core).inv with
  | none => s
  | some inv =>
    let s := s.divideCharges inv.owner inv.hcyc inv.hbytes ls
    let s := s.clearSup core
    s.setCore core (fun c => { c with inv := none })

/-- The launches an invocation's items are charged to. -/
def invLaunches (inv : Invocation) : List (Option Nat) := inv.base.2.map (·.launch)

/-- End the waiters of an item of a walk or fault invocation with a code of R350, and the item's request or entry. -/
def State.endItem (s : State) (core owner : Nat) (k : InvKind) (it : InvItem) (code : Nat) : State :=
  let ws := itemWaiters s core owner k it
  let g := it.va / 2 ^ 16
  let s := match k with
    | .walk => s.endWalk (itemIs core owner it)
    | .fault =>
      let f := s.faults.get (faultKey owner it.key)
      if !f.live then s
      else if f.kind = 2 then
        -- the frozen invocation behind a HANDLER entry is for the hart or AUTODISP to end (R362, R365)
        { s with faults := s.faults.update (faultKey owner it.key) (fun f => { f with taken := false, dispatched := none, seen := false }) }
      else
        let s := s.resWrite owner (faultEntryVa s owner f.index + 32) [BitVec.ofNat 8 (if code = 0 then 2 else if code = 2 then 3 else 4)]
        { s with faults := s.faults.del (faultKey owner it.key) }
    | _ => s
  if code = 0 then s.replay ws g else if code = 2 then s.refuse ws g else s.exhaust ws g

/-- Discard an invocation: the freeze lifts, posts of it that a full ring holds go, its items end and their launches end
with the status given (R365). Each item's first requester's workgroup caused the end (R60). (DEDUCED, log 37) -/
def State.discardInv (s : State) (core status : Nat) : State :=
  match (s.cores.get core).inv with
  | none => s
  | some inv =>
    let k := inv.base.1
    let ends := inv.base.2.filter (fun i => !i.ended)
    let s := s.closeInv core (invLaunches inv)
    let s := { s with held := s.held.filter (fun h => !(h.kind == 2 && h.core == core && h.owner == inv.owner)) }
    let s := s.thaw inv.owner (dieOfCore core)
    ends.foldl (fun s it =>
      let s := match it.launch with
        | some l => s.endLaunch l status 0 it.wg
        | none => s
      s.endItem core inv.owner k it (if k = .walk then 0 else 2)) s

/-- The HANDLER post of a frozen invocation for an item (R344, R358, R364): address, request word, launch, workgroup. -/
def handlerPost (core depth detail : Nat) (inv : Invocation) (x : Nat × Nat × Option Nat × Option Nat) : HeldPost where
  owner := inv.owner
  die := dieOfCore core
  core := core
  kind := 2
  va := x.1
  word := BitVec.ofNat 64 x.2.1
  user := 0
  detail := detail
  depth := depth
  launch := x.2.2.1
  wg := x.2.2.2
  waiters := [.handler core]

/-- Freeze an invocation and post HANDLER entries for it (R344, R365). Without a fault queue the posts fail as a refusal, and
the invocation with them (R339); an invocation with no item to post only ends. (DEDUCED, log 59) -/
def State.freezeInv (s : State) (core depth detail : Nat) (posts : List (Nat × Nat × Option Nat × Option Nat)) : State :=
  match (s.cores.get core).inv with
  | none => s
  | some inv =>
    if posts = [] then s.closeInv core (invLaunches inv)
    else if (faultQueue s inv.owner).isNone then s.discardInv core statusHandlerFault
    else
      let s := s.freeze inv.owner (dieOfCore core)
      let s := s.setCore core (fun c => { c with inv := some { inv with frozen := true } })
      posts.foldl (fun s x =>
        let r := s.postFault (handlerPost core depth detail inv x)
        r.1.chargeInv core 0 r.2) s

/-- The launch and the workgroup that a depth-2 miss is charged to: those of the depth-1 invocation's first item (R363). -/
def outerItem (inv : Invocation) : Option Nat × Option Nat := ((inv.base.2.head?).bind (·.launch), (inv.base.2.head?).bind (·.wg))

/-- Freeze the depth-2 invocation of a core for a miss or a cause at an address (R344, R364). -/
def State.freezeNested (s : State) (core va word : Nat) : State :=
  match (s.cores.get core).inv with
  | none => s
  | some inv => s.freezeInv core 2 0 [(va, word, outerItem inv)]

/-- A fault entry ends with a STATE of R358 (R360, R361). A HANDLER entry ends the freeze of the invocation that posted it,
once every one of its entries is resolved, or discards it (R365). -/
def State.endFault (s : State) (owner serial st : Nat) : State :=
  let f := s.faults.get (faultKey owner serial)
  if !f.live then s
  else
    let s := s.resWrite owner (faultEntryVa s owner f.index + 32) [BitVec.ofNat 8 st]
    let s := { s with faults := s.faults.del (faultKey owner serial) }
    if f.kind = 2 then
      (match (s.cores.get f.core).inv with
       | some i =>
         if !i.frozen || i.owner != owner || !i.posted.contains (serial % 2 ^ 32) then s
         else if st = 2 then
           let rest := i.posted.filter (fun n => n != serial % 2 ^ 32)
           let waits := s.held.any (fun h => h.kind == 2 && h.core == f.core && h.owner == owner)
           if rest = [] ∧ !waits then
             let s := s.setCore f.core (fun c => { c with inv := some { i with frozen := false, posted := [] } })
             let s := s.thaw owner f.die
             s.setWarp (supOf f.core) (fun x => { x with cause := 0, syncNew := false })
           else s.setCore f.core (fun c => { c with inv := some { i with posted := rest } })
         else s.discardInv f.core (if st = 4 then statusExhausted else statusHandlerFault)
       | none => s)
    else
      let g := f.va / 2 ^ 16
      if st = 2 then s.replay f.waiters g else if st = 3 then s.refuse f.waiters g else s.exhaust f.waiters g

end Sys2Proof.Machine
end

