-- ==== Sys2Proof/Machine/Flags.lean ====
section
/-! DEFINITION. The sticky flags, their trap enables and the causes of enabled flags (R101, R102, R147). -/

namespace Sys2Proof.Machine

def flagInvalid : BitVec 9 := 0x001
def flagDivzero : BitVec 9 := 0x002
def flagOverflow : BitVec 9 := 0x004
def flagUnderflow : BitVec 9 := 0x008
def flagInexact : BitVec 9 := 0x010
def flagIdivzero : BitVec 9 := 0x020
def flagIdivovf : BitVec 9 := 0x040
def flagSat : BitVec 9 := 0x080
def flagFormat : BitVec 9 := 0x100

/-- The cause bit of each flag, in FLAGS order (R102). -/
def flagCause (i : Nat) : Nat := [6, 7, 8, 9, 10, 11, 12, 12, 17].getD i 0

/-- Set sticky flags of a warp (R101). -/
def State.orFlags (s : State) (w : Nat) (fl : BitVec 9) : State :=
  s.setWarp w (fun x => { x with flags := x.flags ||| fl })

/-- The causes that enabled flags raise, lane by lane (R102). -/
def flagRaises (fen : BitVec 9) (fls : List (Nat × BitVec 9)) : List Raise :=
  fls.flatMap (fun (l, fl) =>
    ((List.range 9).filter (fun i => (fl &&& fen).getLsbD i)).map (fun i => { lane := l, bit := flagCause i }))

/-- The union of the lanes' flags. -/
def allFlags (fls : List (Nat × BitVec 9)) : BitVec 9 := fls.foldl (fun a x => a ||| x.2) 0

/-- Finish an effect that raised flags: an enabled flag makes the instruction have no effect in the warp (R102, R147);
otherwise the flags become sticky. -/
def withFlags (s : State) (w : Nat) (fls : List (Nat × BitVec 9)) (k : State → Res) : Res :=
  if (s.warp w).fen &&& allFlags fls != 0 then .trap (flagRaises (s.warp w).fen fls)
  else k (s.orFlags w (allFlags fls))

end Sys2Proof.Machine
end

