-- ==== Sys2Proof/Machine/IntArith.lean ====
section
/-! DEFINITION. Integer arithmetic (R112–R119), and the shape shared by every instruction that computes one register
from registers. -/

namespace Sys2Proof.Machine

def IntTy.width : IntTy → Nat
  | .i8x8 | .n8x8 => 8 | .i16x4 | .n16x4 => 16 | .i32x2 | .n32x2 => 32 | .i64 | .n64 => 64
def IntTy.signed : IntTy → Bool
  | .i8x8 | .i16x4 | .i32x2 | .i64 => true
  | _ => false
def SgnTy.toInt : SgnTy → IntTy
  | .i8x8 => .i8x8 | .i16x4 => .i16x4 | .i32x2 => .i32x2 | .i64 => .i64

/-- The value of a `w`-bit code under a signed or unsigned type (R118 `ext`). -/
def extInt (signed : Bool) (w x : Nat) : Int := if signed then sextInt w x else ((x % 2 ^ w : Nat) : Int)

/-- Clamp to a format's range (R84 `sat`, R97), and whether the clamp changed the value. -/
def satInt (signed : Bool) (w : Nat) (x : Int) : Int × Bool :=
  let lo : Int := if signed then -(2 ^ (w - 1) : Nat) else 0
  let hi : Int := if signed then ((2 ^ (w - 1) : Nat) : Int) - 1 else ((2 ^ w : Nat) : Int) - 1
  if x < lo then (lo, true) else if hi < x then (hi, true) else (x, false)

/-- The sub-elements of a register, special or literal source (R72). -/
def srcElems (s : State) (f : F64) (lane w n : Nat) (i64 : Bool) (code : Nat) : List Nat :=
  let x := if i64 then opndI64 s s.cur.warp lane f.lit code else opnd s s.cur.warp lane f.lit code
  elems w n (code = 449 && 1 < n) x

/-- The sub-elements of the 9-bit immediate in C (R69, R113). -/
def immElems (f : F64) (w n : Nat) (i64 : Bool) : List Nat :=
  let x : Word := if i64 then f.c.signExtend 64 else f.c.zeroExtend 64
  List.replicate n (x.toNat % 2 ^ w)

/-- The second source of a binary form: B, or the immediate in C (R113). -/
def second (s : State) (f : F64) (lane w n : Nat) (i64 : Bool) : List Nat :=
  if f.md.getLsbD 0 then immElems f w n i64 else srcElems s f lane w n i64 f.b.toNat

/-- The third source of a ternary form: C as an operand, or as an immediate (R113). -/
def third (s : State) (f : F64) (lane w n : Nat) (i64 : Bool) : List Nat :=
  if f.md.getLsbD 0 then immElems f w n i64 else srcElems s f lane w n i64 f.c.toNat

/-- An instruction that writes one value per guard-true lane to D and raises flags (R112, R147). -/
def aluBody (f : F64) (g : State → Nat → Word × BitVec 9) (s : State) (gl : List Nat) : Res :=
  let rs := gl.map (fun l => (l, g s l))
  withFlags s s.cur.warp (rs.map (fun r => (r.1, r.2.2))) (fun s' =>
    .next (writeLanes s' s.cur.warp f.d.toNat (rs.map (fun r => (r.1, r.2.1)))))

/-- Issue an instruction of that shape. -/
def issueAlu (i : Instr) (f : F64) (g : State → Nat → Word × BitVec 9) (s : State) : State :=
  issue (hdrOf i f) (aluBody f g) s

/-- Narrow one exact integer result: wrapped, or saturated with SAT when MOD[62] asks (R97, R118). -/
def narrowInt (f : F64) (signed : Bool) (w : Nat) (x : Int) : Nat × BitVec 9 :=
  if f.md.getLsbD 1 then
    let r := satInt signed w x
    (wrapInt w r.1, if r.2 then flagSat else 0)
  else (wrapInt w x, 0)

/-- A binary integer instruction (R118). -/
def intBinary (t : IntTy) (f : F64) (op : Int → Int → Nat × BitVec 9) (s : State) (lane : Nat) : Word × BitVec 9 :=
  let w := IntTy.width t
  let n := 64 / w
  let as := (srcElems s f lane w n (t = .i64) f.a.toNat).map (extInt (IntTy.signed t) w)
  let bs := (second s f lane w n (t = .i64)).map (extInt (IntTy.signed t) w)
  let rs := (as.zip bs).map (fun x => op x.1 x.2)
  (packElems w (rs.map (·.1)), rs.foldl (fun fl r => fl ||| r.2) 0)

/-- A multiply-add: A × B plus the third source, exact before one narrowing (R118). -/
def intTernary (t : IntTy) (f : F64) (s : State) (lane : Nat) : Word × BitVec 9 :=
  let w := IntTy.width t
  let n := 64 / w
  let ext := extInt (IntTy.signed t) w
  let as := (srcElems s f lane w n (t = .i64) f.a.toNat).map ext
  let bs := (srcElems s f lane w n (t = .i64) f.b.toNat).map ext
  let cs := (third s f lane w n (t = .i64)).map ext
  let rs := ((as.zip bs).zip cs).map (fun x => narrowInt f (IntTy.signed t) w (x.1.1 * x.1.2 + x.2))
  (packElems w (rs.map (·.1)), rs.foldl (fun fl r => fl ||| r.2) 0)

/-- A unary integer instruction (R118). -/
def intUnary (t : IntTy) (f : F64) (op : Int → Int) (s : State) (lane : Nat) : Word × BitVec 9 :=
  let w := IntTy.width t
  let rs := (srcElems s f lane w (64 / w) (t = .i64) f.a.toNat).map
    (fun x => narrowInt f (IntTy.signed t) w (op (extInt (IntTy.signed t) w x)))
  (packElems w (rs.map (·.1)), rs.foldl (fun fl r => fl ||| r.2) 0)

/-- One product: its high half with `.hi`, else narrowed (R118). -/
def mulElem (f : F64) (signed : Bool) (w : Nat) (a b : Int) : Nat × BitVec 9 :=
  if f.md.getLsbD 2 then (wrapInt w ((a * b) / (2 ^ w : Nat)), 0) else narrowInt f signed w (a * b)

def execAddInt (t : IntTy) (f : F64) (s : State) : Host.Outcome State Fault Refusal :=
  .next (issueAlu (.addInt t f) f (intBinary t f (fun a b => narrowInt f (IntTy.signed t) (IntTy.width t) (a + b))) s)

def execSubInt (t : IntTy) (f : F64) (s : State) : Host.Outcome State Fault Refusal :=
  .next (issueAlu (.subInt t f) f (intBinary t f (fun a b => narrowInt f (IntTy.signed t) (IntTy.width t) (a - b))) s)

def execMulInt (t : IntTy) (f : F64) (s : State) : Host.Outcome State Fault Refusal :=
  .next (issueAlu (.mulInt t f) f (intBinary t f (mulElem f (IntTy.signed t) (IntTy.width t))) s)

def execMad (t : IntTy) (f : F64) (s : State) : Host.Outcome State Fault Refusal :=
  .next (issueAlu (.mad t f) f (intTernary t f) s)

def execMinInt (t : IntTy) (f : F64) (s : State) : Host.Outcome State Fault Refusal :=
  .next (issueAlu (.minInt t f) f (intBinary t f (fun a b => (wrapInt (IntTy.width t) (min a b), 0))) s)

def execMaxInt (t : IntTy) (f : F64) (s : State) : Host.Outcome State Fault Refusal :=
  .next (issueAlu (.maxInt t f) f (intBinary t f (fun a b => (wrapInt (IntTy.width t) (max a b), 0))) s)

def execAbs (t : SgnTy) (f : F64) (s : State) : Host.Outcome State Fault Refusal :=
  .next (issueAlu (.abs t f) f (intUnary (SgnTy.toInt t) f (fun a => if a < 0 then -a else a)) s)

def execNeg (t : SgnTy) (f : F64) (s : State) : Host.Outcome State Fault Refusal :=
  .next (issueAlu (.neg t f) f (intUnary (SgnTy.toInt t) f (fun a => -a)) s)

end Sys2Proof.Machine
end

