-- ==== Sys2Proof/Machine/Float.lean ====
section
/-! DEFINITION. Floating-point formats, rounding, NaNs and conversions (R86–R100), computed exactly on integers and
rounded once. -/

namespace Sys2Proof.Machine

/-- The floating-point formats (R86). -/
inductive Fmt | f32 | f16 | bf16 | e5m2 | e4m3
deriving DecidableEq, Repr

def Fmt.width : Fmt → Nat
  | .f32 => 32 | .f16 => 16 | .bf16 => 16 | .e5m2 => 8 | .e4m3 => 8
/-- Fraction bits. -/
def Fmt.fb : Fmt → Nat
  | .f32 => 23 | .f16 => 10 | .bf16 => 7 | .e5m2 => 2 | .e4m3 => 3
def Fmt.bias : Fmt → Nat
  | .f32 => 127 | .f16 => 15 | .bf16 => 127 | .e5m2 => 15 | .e4m3 => 7
def Fmt.eb : Fmt → Nat
  | .f32 => 8 | .f16 => 5 | .bf16 => 8 | .e5m2 => 5 | .e4m3 => 4
/-- The code of the largest finite value, without its sign (R86, R87). -/
def Fmt.maxCode : Fmt → Nat
  | .f32 => 0x7F7FFFFF | .f16 => 0x7BFF | .bf16 => 0x7F7F | .e5m2 => 0x7B | .e4m3 => 0x7E
/-- The code of infinity, without its sign; E4M3 has none. -/
def Fmt.infCode : Fmt → Nat
  | .f32 => 0x7F800000 | .f16 => 0x7C00 | .bf16 => 0x7F80 | .e5m2 => 0x7C | .e4m3 => 0x7E
/-- The default NaN (R94). -/
def Fmt.defNan : Fmt → Nat
  | .f32 => 0x7FC00000 | .f16 => 0x7E00 | .bf16 => 0x7FC0 | .e5m2 => 0x7E | .e4m3 => 0x7F
def Fmt.signBit (t : Fmt) : Nat := 2 ^ (t.width - 1)

/-- Rounding modes (R89), as the two mode bits code them (R134). -/
inductive RMode | rne | rtz | rup | rdn
deriving DecidableEq, Repr

def RMode.ofBits (n : Nat) : RMode :=
  match n % 4 with
  | 0 => .rne | 1 => .rtz | 2 => .rup | _ => .rdn

/-- A value: a NaN with its fraction field, an infinity, or ±m × 2^e exactly. -/
inductive FNum
  | nan (neg : Bool) (frac : Nat)
  | inf (neg : Bool)
  | fin (neg : Bool) (m : Nat) (e : Int)
deriving DecidableEq, Repr

/-- The value of a code (R86, R87). -/
def unpackF (t : Fmt) (x : Nat) : FNum :=
  let neg := bitOf x (t.width - 1)
  let ef := bitsOf x (t.width - 2) t.fb
  let fr := x % 2 ^ t.fb
  if t = .e4m3 ∧ ef = 15 ∧ fr = 7 then .nan neg fr
  else if t ≠ .e4m3 ∧ ef = 2 ^ t.eb - 1 then (if fr = 0 then .inf neg else .nan neg fr)
  else if ef = 0 then .fin neg fr (1 - t.bias - t.fb)
  else .fin neg (fr + 2 ^ t.fb) ((ef : Int) - t.bias - t.fb)

def isNanF (t : Fmt) (x : Nat) : Bool :=
  match unpackF t x with
  | .nan _ _ => true
  | _ => false

/-- A signalling NaN: top fraction bit 0; E4M3 has none (R87, R93). -/
def isSnan (t : Fmt) (x : Nat) : Bool := t != .e4m3 && isNanF t x && !bitOf x (t.fb - 1)

/-- Quiet a NaN by setting its top fraction bit (R94). -/
def quietF (t : Fmt) (x : Nat) : Nat := if t = .e4m3 ∨ bitOf x (t.fb - 1) then x else x + 2 ^ (t.fb - 1)

/-- Round m × 2^e, plus less than one unit when `sticky`, to a multiple of 2^q: the multiple, and whether it is inexact. -/
def roundAt (mode : RMode) (neg : Bool) (m : Nat) (e : Int) (sticky : Bool) (q : Int) : Nat × Bool :=
  if q ≤ e then
    let r := m * 2 ^ (e - q).toNat
    let up := sticky && ((mode = .rup && !neg) || (mode = .rdn && neg))
    (if up then r + 1 else r, sticky)
  else
    let d := (q - e).toNat
    let r := m / 2 ^ d
    let rest := m % 2 ^ d
    let half := 2 ^ (d - 1)
    let inexact := rest != 0 || sticky
    let up := match mode with
      | .rne => half < rest || (rest == half && (sticky || r % 2 == 1))
      | .rtz => false
      | .rup => !neg && inexact
      | .rdn => neg && inexact
    (if up then r + 1 else r, inexact)

/-- Round an exact non-zero magnitude to a format (R89–R92): code and flags. -/
def roundF (t : Fmt) (mode : RMode) (neg : Bool) (m : Nat) (e : Int) (sticky : Bool) : Nat × BitVec 9 :=
  let sg := if neg then t.signBit else 0
  if m = 0 ∧ !sticky then (sg, 0)
  else
    let l : Int := (Nat.log2 m : Nat)
    let emin : Int := 1 - t.bias
    let q := l + e - t.fb
    let ru := roundAt mode neg m e sticky q
    -- the value rounded with an unbounded exponent is ru.1 × 2^q
    let tiny := decide (q + t.fb < emin) && !(ru.1 == 2 ^ (t.fb + 1) && q + t.fb + 1 == emin)
    let q' := max q (emin - t.fb)
    let r := roundAt mode neg m e sticky q'
    let code := ((q' + t.fb + t.bias - 1) * 2 ^ t.fb + r.1).toNat
    if t.maxCode < code then
      let toMax := t = .e4m3 || mode = .rtz || (mode = .rup && neg) || (mode = .rdn && !neg)
      (sg + (if toMax then t.maxCode else t.infCode), flagOverflow ||| flagInexact)
    else
      (sg + code, (if r.2 then flagInexact else 0) ||| (if tiny && r.2 then flagUnderflow else 0))

/-- A signed zero. -/
def zeroF (t : Fmt) (neg : Bool) : Nat := if neg then t.signBit else 0
def infF (t : Fmt) (neg : Bool) : Nat := (if neg then t.signBit else 0) + t.infCode

/-- The exact sum of two finite values: sign, magnitude, exponent (R91: a zero sum takes its sign from the mode). -/
def addExact (mode : RMode) (n1 : Bool) (m1 : Nat) (e1 : Int) (n2 : Bool) (m2 : Nat) (e2 : Int) : Bool × Nat × Int :=
  let e := min e1 e2
  let a : Int := (m1 * 2 ^ (e1 - e).toNat : Nat)
  let b : Int := (m2 * 2 ^ (e2 - e).toNat : Nat)
  let x := (if n1 then -a else a) + (if n2 then -b else b)
  if x = 0 then ((if n1 == n2 then n1 else mode = .rdn), 0, e)
  else (decide (x < 0), x.natAbs, e)

/-- NaN propagation and the invalid default, shared by every operation (R94): the first NaN operand, quieted, with INVALID
when an operand signals or the operation is invalid on its other values. -/
def nanResult (t : Fmt) (xs : List Nat) (invalid : Bool) : Option (Nat × BitVec 9) :=
  match xs.find? (isNanF t) with
  | some x => some (quietF t x, if xs.any (isSnan t) || invalid then flagInvalid else 0)
  | none => if invalid then some (t.defNan, flagInvalid) else none

/-- Add two codes, the second with its sign changed when `flip` (R135). -/
def addF (t : Fmt) (mode : RMode) (flip : Bool) (a b : Nat) : Nat × BitVec 9 :=
  let invalid := match unpackF t a, unpackF t b with
    | .inf n1, .inf n2 => n1 != xor n2 flip
    | _, _ => false
  match nanResult t [a, b] invalid with
  | some r => r
  | none =>
    match unpackF t a, unpackF t b with
    | .inf n, _ => (infF t n, 0)
    | _, .inf n => (infF t (xor n flip), 0)
    | .fin n1 m1 e1, .fin n2 m2 e2 =>
      let x := addExact mode n1 m1 e1 (xor n2 flip) m2 e2
      roundF t mode x.1 x.2.1 x.2.2 false
    | _, _ => (t.defNan, 0)

/-- 0 × ∞ (R94). -/
def mulInvalid (a b : FNum) : Bool :=
  match a, b with
  | .inf _, .fin _ m _ => m == 0
  | .fin _ m _, .inf _ => m == 0
  | _, _ => false

/-- Multiply two codes (R135). -/
def mulF (t : Fmt) (mode : RMode) (a b : Nat) : Nat × BitVec 9 :=
  match nanResult t [a, b] (mulInvalid (unpackF t a) (unpackF t b)) with
  | some r => r
  | none =>
    match unpackF t a, unpackF t b with
    | .fin n1 m1 e1, .fin n2 m2 e2 => roundF t mode (xor n1 n2) (m1 * m2) (e1 + e2) false
    | .inf n1, .inf n2 => (infF t (xor n1 n2), 0)
    | .inf n1, .fin n2 _ _ => (infF t (xor n1 n2), 0)
    | .fin n1 _ _, .inf n2 => (infF t (xor n1 n2), 0)
    | _, _ => (t.defNan, 0)

/-- a × b + c rounded once, with the product's sign changed when `flip` (R135, R136). -/
def fmaF (t : Fmt) (mode : RMode) (flip : Bool) (a b c : Nat) : Nat × BitVec 9 :=
  let ua := unpackF t a
  let ub := unpackF t b
  let uc := unpackF t c
  let pinf := match ua, ub with
    | .inf n1, .inf n2 => some (xor (xor n1 n2) flip)
    | .inf n1, .fin n2 m _ => if m = 0 then none else some (xor (xor n1 n2) flip)
    | .fin n1 m _, .inf n2 => if m = 0 then none else some (xor (xor n1 n2) flip)
    | _, _ => none
  let cancel := match pinf, uc with
    | some n, .inf n' => n != n'
    | _, _ => false
  match nanResult t [a, b, c] (mulInvalid ua ub || cancel) with
  | some r => r
  | none =>
    match pinf, ua, ub, uc with
    | some n, _, _, _ => (infF t n, 0)
    | none, _, _, .inf n => (infF t n, 0)
    | none, .fin n1 m1 e1, .fin n2 m2 e2, .fin n3 m3 e3 =>
      let x := addExact mode (xor (xor n1 n2) flip) (m1 * m2) (e1 + e2) n3 m3 e3
      roundF t mode x.1 x.2.1 x.2.2 false
    | _, _, _, _ => (t.defNan, 0)

/-- The order of finite and infinite values, with −0 below +0 (R138). -/
def ltF (t : Fmt) (a b : Nat) : Bool :=
  let key := fun x : Nat => if bitOf x (t.width - 1) then -((x % t.signBit : Nat) : Int) - 1 else ((x % t.signBit : Nat) : Int)
  decide (key a < key b)

/-- Minimum or maximum with NaNs propagated (R138). -/
def minMaxF (t : Fmt) (isMax : Bool) (a b : Nat) : Nat × BitVec 9 :=
  match nanResult t [a, b] false with
  | some r => r
  | none => (if ltF t a b = isMax then b else a, 0)

/-- Numeric comparison: −1, 0 or 1, with +0 = −0; meaningless for NaNs. -/
def compareF (t : Fmt) (a b : Nat) : Int :=
  if a % t.signBit = 0 ∧ b % t.signBit = 0 then 0
  else if a = b then 0 else if ltF t a b then -1 else 1

/-! ### Conversions (R95, R98, R100, R143–R145) -/

/-- Convert a NaN between formats (R95). -/
def convNan (src dst : Fmt) (x : Nat) : Nat :=
  let sg := if bitOf x (src.width - 1) then dst.signBit else 0
  let fr := x % 2 ^ src.fb
  if dst = .e4m3 then sg + 0x7F
  else if src = .e4m3 then sg + dst.defNan
  else
    let fr' := if src.fb ≤ dst.fb then fr * 2 ^ (dst.fb - src.fb) else fr / 2 ^ (src.fb - dst.fb)
    sg + quietF dst (dst.infCode + fr' % 2 ^ dst.fb)

/-- Round an exact signed value to a format; infinities follow R90 and R95. -/
def packF (dst : Fmt) (mode : RMode) (x : FNum) : Nat × BitVec 9 :=
  match x with
  | .nan neg _ => ((if neg then dst.signBit else 0) + dst.defNan, 0)
  | .inf neg => if dst = .e4m3 then ((if neg then dst.signBit else 0) + 0x7F, flagInvalid) else (infF dst neg, 0)
  | .fin neg m e => roundF dst mode neg m e false

/-- Float to float (R95, R145). -/
def convF (src dst : Fmt) (mode : RMode) (x : Nat) : Nat × BitVec 9 :=
  match unpackF src x with
  | .nan _ _ => (convNan src dst x, if isSnan src x then flagInvalid else 0)
  | u => packF dst mode u

/-- An exact value into an integer format (R100). -/
def toIntF (signed : Bool) (w : Nat) (mode : RMode) (x : FNum) : Nat × BitVec 9 :=
  match x with
  | .nan _ _ => (0, flagInvalid)
  | .inf neg =>
    (wrapInt w (satInt signed w (if neg then -(2 ^ 80 : Nat) else (2 ^ 80 : Nat))).1, flagSat)
  | .fin neg m e =>
    let r := roundAt mode neg m e false 0
    let v : Int := if neg then -(r.1 : Int) else r.1
    let c := satInt signed w v
    (wrapInt w c.1, if c.2 then flagSat else if r.2 then flagInexact else 0)

/-- The value of a T2 element: code 0b10 reads as 0 with FORMAT (R98). -/
def t2Value (x : Nat) : Int × BitVec 9 :=
  match x % 4 with
  | 0 => (0, 0) | 1 => (1, 0) | 3 => (-1, 0) | _ => (0, flagFormat)

/-- A clamped ternary value as its code (R145). -/
def t2Code (x : Int) : Nat := if x = 0 then 0 else if x = 1 then 1 else 3

/-- An exact value into T2: rounded in the mode, then clamped to −1…+1 (R145). -/
def toT2F (mode : RMode) (x : FNum) : Nat × BitVec 9 :=
  match x with
  | .nan _ _ => (0, flagInvalid)
  | .inf neg => (if neg then 3 else 1, flagSat)
  | .fin neg m e =>
    let r := roundAt mode neg m e false 0
    let v : Int := if neg then -(r.1 : Int) else r.1
    if v < -1 then (3, flagSat) else if 1 < v then (1, flagSat)
    else (t2Code v, if r.2 then flagInexact else 0)

/-- An integer as an exact value. -/
def intF (x : Int) : FNum := .fin (decide (x < 0)) x.natAbs 0

/-! ### The pairwise tree (R111) -/

/-- One level: adjacent pairs combined, with their flags. -/
def pairUp (op : Nat → Nat → Nat × BitVec 9) : List Nat → List Nat × BitVec 9
  | a :: b :: r =>
    let x := op a b
    let y := pairUp op r
    (x.1 :: y.1, x.2 ||| y.2)
  | r => (r, 0)

/-- The tree over a list whose length is a power of two, by levels. -/
def treeF (op : Nat → Nat → Nat × BitVec 9) : Nat → List Nat → Nat × BitVec 9
  | 0, xs => (xs.getD 0 0, 0)
  | n + 1, xs =>
    match xs with
    | [] => (0, 0)
    | [x] => (x, 0)
    | xs =>
      let y := pairUp op xs
      let z := treeF op n y.1
      (z.1, y.2 ||| z.2)

end Sys2Proof.Machine
end

