-- ==== Sys2Proof/Machine/Logic.lean ====
section
/-! DEFINITION. Logic, shifts and bit fields (R120–R124), compares, select and predicate logic (R125–R127), address
formation and wide constants (R132, R133), and `mov` with its twins (R77). -/

namespace Sys2Proof.Machine

/-- A 64-bit source as a number. -/
def src64 (s : State) (f : F64) (lane code : Nat) : Nat := (opnd s s.cur.warp lane f.lit code).toNat

/-- The second source of a 64-bit binary form (R113): these types are not `.i64`, so the immediate is zero-extended. -/
def second64 (s : State) (f : F64) (lane : Nat) : Nat :=
  if f.md.getLsbD 0 then f.c.toNat else src64 s f lane f.b.toNat

def bin64 (f : F64) (op : Word → Word → Word) (s : State) (lane : Nat) : Word × BitVec 9 :=
  (op (BitVec.ofNat 64 (src64 s f lane f.a.toNat)) (BitVec.ofNat 64 (second64 s f lane)), 0)

def un64 (f : F64) (op : Nat → Nat) (s : State) (lane : Nat) : Word × BitVec 9 :=
  (BitVec.ofNat 64 (op (src64 s f lane f.a.toNat)), 0)

/-- The number of 1 bits among the low n. -/
def popCount : Nat → Nat → Nat
  | 0, _ => 0
  | n + 1, x => x % 2 + popCount n (x / 2)

/-- The number of bits a number needs. -/
def bitLen (n x : Nat) : Nat := if x = 0 then 0 else min n (Nat.log2 x + 1)

/-- Reverse the low n bits. -/
def bitRev : Nat → Nat → Nat
  | 0, _ => 0
  | n + 1, x => x % 2 * 2 ^ n + bitRev n (x / 2)

def execAndB (f : F64) (s : State) : Host.Outcome State Fault Refusal :=
  .next (issueAlu (.andB f) f (bin64 f (· &&& ·)) s)
def execOrB (f : F64) (s : State) : Host.Outcome State Fault Refusal :=
  .next (issueAlu (.orB f) f (bin64 f (· ||| ·)) s)
def execXorB (f : F64) (s : State) : Host.Outcome State Fault Refusal :=
  .next (issueAlu (.xorB f) f (bin64 f (· ^^^ ·)) s)
def execAndnB (f : F64) (s : State) : Host.Outcome State Fault Refusal :=
  .next (issueAlu (.andnB f) f (bin64 f (fun a b => a &&& ~~~ b)) s)
def execNotB (f : F64) (s : State) : Host.Outcome State Fault Refusal :=
  .next (issueAlu (.notB f) f (un64 f (fun a => 2 ^ 64 - 1 - a)) s)

def ShTy.width : ShTy → Nat
  | .b8x8 => 8 | .b16x4 => 16 | .b32x2 => 32 | .b64 => 64

/-- A shift of each sub-element by its own count (R122). -/
def shiftLanes (t : ShTy) (f : F64) (op : Nat → Nat → Nat) (s : State) (lane : Nat) : Word × BitVec 9 :=
  let w := ShTy.width t
  let n := 64 / w
  let as := srcElems s f lane w n false f.a.toNat
  let cs := second s f lane w n false
  (packElems w ((as.zip cs).map (fun x => op x.1 x.2)), 0)

/-- Left shift; a count at or above the width gives 0 (R122). -/
def shlElem (w a c : Nat) : Nat := if w ≤ c then 0 else a * 2 ^ c % 2 ^ w
/-- Right shift with zeros entering (R122). -/
def shrElem (w a c : Nat) : Nat := if w ≤ c then 0 else a / 2 ^ c
/-- Right shift with the sign entering (R122). -/
def sarElem (w a c : Nat) : Nat :=
  if w ≤ c then (if bitOf a (w - 1) then 2 ^ w - 1 else 0) else wrapInt w (sextInt w a / (2 ^ c : Nat))
/-- Rotation left by the count reduced modulo the width (R122). -/
def rotElem (w a c : Nat) : Nat := let k := c % w; (a * 2 ^ k + a / 2 ^ (w - k)) % 2 ^ w

def execShl (t : ShTy) (f : F64) (s : State) : Host.Outcome State Fault Refusal :=
  .next (issueAlu (.shl t f) f (shiftLanes t f (shlElem (ShTy.width t))) s)
def execShr (t : ShTy) (f : F64) (s : State) : Host.Outcome State Fault Refusal :=
  .next (issueAlu (.shr t f) f (shiftLanes t f (shrElem (ShTy.width t))) s)
def execSar (t : ShTy) (f : F64) (s : State) : Host.Outcome State Fault Refusal :=
  .next (issueAlu (.sar t f) f (shiftLanes t f (sarElem (ShTy.width t))) s)
def execRot (t : ShTy) (f : F64) (s : State) : Host.Outcome State Fault Refusal :=
  .next (issueAlu (.rot t f) f (shiftLanes t f (rotElem (ShTy.width t))) s)

/-- Position and length of a bit-field specification (R123). -/
def fieldSpec (c : Nat) : Nat × Nat :=
  let p := c % 64
  (p, min (c / 256 % 128) (64 - p))

/-- Extract a field, sign-extended for `bfx.i64`, whose literal operand is sign-extended too (R72, R123). -/
def bfxLane (signed : Bool) (f : F64) (s : State) (lane : Nat) : Word × BitVec 9 :=
  let a := if signed then (opndI64 s s.cur.warp lane f.lit f.a.toNat).toNat else src64 s f lane f.a.toNat
  let pn := fieldSpec (src64 s f lane f.c.toNat)
  let x := a / 2 ^ pn.1 % 2 ^ pn.2
  (if pn.2 = 0 then 0 else BitVec.ofNat 64 (if signed then wrapInt 64 (sextInt pn.2 x) else x), 0)

/-- Replace a field of A by the low bits of B (R123). -/
def bfiLane (f : F64) (s : State) (lane : Nat) : Word × BitVec 9 :=
  let a := src64 s f lane f.a.toNat
  let b := src64 s f lane f.b.toNat
  let pn := fieldSpec (src64 s f lane f.c.toNat)
  (BitVec.ofNat 64 (a - a / 2 ^ pn.1 % 2 ^ pn.2 * 2 ^ pn.1 + b % 2 ^ pn.2 * 2 ^ pn.1), 0)

/-- The funnel shift of the 128-bit value B over A (R124). -/
def shrfLane (f : F64) (s : State) (lane : Nat) : Word × BitVec 9 :=
  let a := src64 s f lane f.a.toNat
  let b := src64 s f lane f.b.toNat
  let c := if f.md.getLsbD 0 then f.c.toNat else src64 s f lane f.c.toNat
  (if 128 ≤ c then 0 else BitVec.ofNat 64 ((b * 2 ^ 64 + a) / 2 ^ c), 0)

def execBfx (signed : Bool) (f : F64) (s : State) : Host.Outcome State Fault Refusal :=
  .next (issueAlu (.bfx signed f) f (bfxLane signed f) s)
def execBfi (f : F64) (s : State) : Host.Outcome State Fault Refusal := .next (issueAlu (.bfi f) f (bfiLane f) s)
def execPopc (f : F64) (s : State) : Host.Outcome State Fault Refusal :=
  .next (issueAlu (.popc f) f (un64 f (popCount 64)) s)
def execClz (f : F64) (s : State) : Host.Outcome State Fault Refusal :=
  .next (issueAlu (.clz f) f (un64 f (fun a => 64 - bitLen 64 a)) s)
def execBrev (f : F64) (s : State) : Host.Outcome State Fault Refusal :=
  .next (issueAlu (.brev f) f (un64 f (bitRev 64)) s)
def execShrf (f : F64) (s : State) : Host.Outcome State Fault Refusal := .next (issueAlu (.shrf f) f (shrfLane f) s)

/-! ### Compares, select, predicate logic (R125–R127) -/

def CmpTy.width : CmpTy → Nat
  | .i8 | .n8 => 8 | .i16 | .n16 => 16 | .i32 | .n32 => 32 | .i64 | .n64 => 64
def CmpTy.signed : CmpTy → Bool
  | .i8 | .i16 | .i32 | .i64 => true
  | _ => false

/-- The six relations of `cmp` (R125). -/
def Cc.holds (cc : Cc) (a b : Int) : Bool :=
  match cc with
  | .eq => a == b | .ne => a != b | .lt => decide (a < b) | .le => decide (a ≤ b)
  | .gt => decide (b < a) | .ge => decide (b ≤ a)

/-- Compare the low bits of A and the second source (R126). -/
def cmpLane (cc : Cc) (t : CmpTy) (f : F64) (s : State) (lane : Nat) : Bool :=
  let w := CmpTy.width t
  let ext := extInt (CmpTy.signed t) w
  let a := (srcElems s f lane w 1 (t = .i64) f.a.toNat).getD 0 0
  let b := (second s f lane w 1 (t = .i64)).getD 0 0
  Cc.holds cc (ext a) (ext b)

/-- An instruction that writes one predicate per guard-true lane and raises no flag. -/
def predBody (f : F64) (g : State → Nat → Bool) (s : State) (gl : List Nat) : Res :=
  .next (writePreds s s.cur.warp (f.d.toNat % 8) (gl.map (fun l => (l, g s l))))

def issuePred (i : Instr) (f : F64) (g : State → Nat → Bool) (s : State) : State :=
  issue (hdrOf i f) (predBody f g) s

def execCmp (cc : Cc) (t : CmpTy) (f : F64) (s : State) : Host.Outcome State Fault Refusal :=
  .next (issuePred (.cmp cc t f) f (cmpLane cc t f) s)

/-- A predicate source of a thread of the issuing warp. -/
def predSrc (s : State) (lane : Nat) (code : BitVec 9) : Bool := (s.thread s.cur.warp lane).p (code.toNat % 8)

def execSel (f : F64) (s : State) : Host.Outcome State Fault Refusal :=
  .next (issueAlu (.sel f) f (fun s l =>
    (BitVec.ofNat 64 (if predSrc s l f.c then src64 s f l f.a.toNat else src64 s f l f.b.toNat), 0)) s)

/-- Bits of A where C is 1, of B where it is 0 (R126). -/
def selmLane (f : F64) (s : State) (lane : Nat) : Word × BitVec 9 :=
  let a := opnd s s.cur.warp lane f.lit f.a.toNat
  let b := opnd s s.cur.warp lane f.lit f.b.toNat
  let c := opnd s s.cur.warp lane f.lit f.c.toNat
  ((a &&& c) ||| (b &&& ~~~ c), 0)

def execSelm (f : F64) (s : State) : Host.Outcome State Fault Refusal := .next (issueAlu (.selm f) f (selmLane f) s)
def execPand (f : F64) (s : State) : Host.Outcome State Fault Refusal :=
  .next (issuePred (.pand f) f (fun s l => predSrc s l f.a && predSrc s l f.b) s)
def execPor (f : F64) (s : State) : Host.Outcome State Fault Refusal :=
  .next (issuePred (.por f) f (fun s l => predSrc s l f.a || predSrc s l f.b) s)
def execPxor (f : F64) (s : State) : Host.Outcome State Fault Refusal :=
  .next (issuePred (.pxor f) f (fun s l => xor (predSrc s l f.a) (predSrc s l f.b)) s)
def execPandn (f : F64) (s : State) : Host.Outcome State Fault Refusal :=
  .next (issuePred (.pandn f) f (fun s l => predSrc s l f.a && !predSrc s l f.b) s)

/-! ### Address formation and wide constants (R132, R133) -/

def execLea (f : F64) (s : State) : Host.Outcome State Fault Refusal :=
  .next (issueAlu (.lea f) f (fun s l =>
    (BitVec.ofNat 64 (src64 s f l f.a.toNat + src64 s f l f.b.toNat * 2 ^ f.c.toNat), 0)) s)
def execMvh (f : F64) (s : State) : Host.Outcome State Fault Refusal :=
  .next (issueAlu (.mvh f) f (fun s l =>
    (BitVec.ofNat 64 ((f.lit.getD 0).toNat * 2 ^ 32 + src64 s f l f.a.toNat % 2 ^ 32), 0)) s)
def execMvs (f : F64) (s : State) : Host.Outcome State Fault Refusal :=
  .next (issueAlu (.mvs f) f (fun _ _ => ((f.lit.getD 0).signExtend 64, 0)) s)

/-! ### `mov` (R77) and `nop` -/

/-- Copy operand A of a 32-bit `mov` (R75, R77). -/
def movBody (f : F32) (s : State) (gl : List Nat) : Res :=
  let d := f.body.toNat % 512
  let a := f.body.toNat / 512
  .next (writeLanes s s.cur.warp d (gl.map (fun l => (l, opnd s s.cur.warp l none a))))

def execMov (f : F32) (s : State) : Host.Outcome State Fault Refusal :=
  .next (issue (hdrOf32 (.mov f) f) (movBody f) s)
def execMovTwinReg (f : F64) (s : State) : Host.Outcome State Fault Refusal :=
  .next (issueAlu (.movTwinReg f) f (fun s l => (opnd s s.cur.warp l f.lit f.a.toNat, 0)) s)
def execMovTwinImm (f : F64) (s : State) : Host.Outcome State Fault Refusal :=
  .next (issueAlu (.movTwinImm f) f (fun _ _ => (f.c.zeroExtend 64, 0)) s)
def execMovTwinLit (f : F64) (s : State) : Host.Outcome State Fault Refusal :=
  .next (issueAlu (.movTwinLit f) f (fun s l => (opnd s s.cur.warp l f.lit f.a.toNat, 0)) s)

/-- No effect beyond the issue condition (R77). -/
def idleBody (s : State) (_ : List Nat) : Res := .next s

def execNop (f : F32) (s : State) : Host.Outcome State Fault Refusal := .next (issue (hdrOf32 (.nop f) f) idleBody s)
def execNopTwin (f : F64) (s : State) : Host.Outcome State Fault Refusal := .next (issue (hdrOf (.nopTwin f) f) idleBody s)
/-- `wait`: the slot mask lies in BODY (R75, R77). -/
def execWait (f : F32) (s : State) : Host.Outcome State Fault Refusal :=
  .next (issue { hdrOf32 (.wait f) f with wait := BitVec.ofNat 6 f.body.toNat } idleBody s)
def execWaitTwin (f : F64) (s : State) : Host.Outcome State Fault Refusal := .next (issue (hdrOf (.waitTwin f) f) idleBody s)

end Sys2Proof.Machine
end

