-- ==== Sys2Proof/Machine/FloatArith.lean ====
section
/-! DEFINITION. Floating-point add, multiply, fused multiply-add (R134–R136), minimum, maximum, compare and classify
(R137–R140). -/

namespace Sys2Proof.Machine

def FpTy.fmt : FpTy → Fmt
  | .f32 | .f32x2 => .f32 | .f16x4 => .f16 | .bf16x4 => .bf16
/-- Sub-elements the type works on: the scalar `.f32` reads one (R114). -/
def FpTy.count : FpTy → Nat
  | .f32 => 1 | .f32x2 => 2 | .f16x4 | .bf16x4 => 4
def FcTy.fmt : FcTy → Fmt
  | .f32 => .f32 | .f16 => .f16 | .bf16 => .bf16

/-- The sub-elements of a floating-point source: a literal gives each the same value (R72). -/
def fSrc (s : State) (f : F64) (t : Fmt) (n lane code : Nat) : List Nat := srcElems s f lane t.width n false code

/-- Pack results and join their flags. -/
def packRes (w : Nat) (rs : List (Nat × BitVec 9)) : Word × BitVec 9 :=
  (packElems w (rs.map (·.1)), rs.foldl (fun fl r => fl ||| r.2) 0)

def fBin (t : Fmt) (n : Nat) (f : F64) (op : Nat → Nat → Nat × BitVec 9) (s : State) (lane : Nat) : Word × BitVec 9 :=
  packRes t.width (((fSrc s f t n lane f.a.toNat).zip (fSrc s f t n lane f.b.toNat)).map (fun x => op x.1 x.2))

def fTer (t : Fmt) (n : Nat) (f : F64) (op : Nat → Nat → Nat → Nat × BitVec 9) (s : State) (lane : Nat) :
    Word × BitVec 9 :=
  packRes t.width ((((fSrc s f t n lane f.a.toNat).zip (fSrc s f t n lane f.b.toNat)).zip
    (fSrc s f t n lane f.c.toNat)).map (fun x => op x.1.1 x.1.2 x.2))

def fUn (t : Fmt) (n : Nat) (f : F64) (op : Nat → Nat × BitVec 9) (s : State) (lane : Nat) : Word × BitVec 9 :=
  packRes t.width ((fSrc s f t n lane f.a.toNat).map op)

/-- The rounding mode in MOD[62:61] (R134). -/
def F64.mode (f : F64) : RMode := .ofBits f.md.toNat

def execAddFloat (t : FpTy) (f : F64) (s : State) : Host.Outcome State Fault Refusal :=
  .next (issueAlu (.addFloat t f) f (fBin (FpTy.fmt t) (FpTy.count t) f (addF (FpTy.fmt t) (F64.mode f) false)) s)
def execSubFloat (t : FpTy) (f : F64) (s : State) : Host.Outcome State Fault Refusal :=
  .next (issueAlu (.subFloat t f) f (fBin (FpTy.fmt t) (FpTy.count t) f (addF (FpTy.fmt t) (F64.mode f) true)) s)
def execMulFloat (t : FpTy) (f : F64) (s : State) : Host.Outcome State Fault Refusal :=
  .next (issueAlu (.mulFloat t f) f (fBin (FpTy.fmt t) (FpTy.count t) f (mulF (FpTy.fmt t) (F64.mode f))) s)
def execFma (t : FpTy) (f : F64) (s : State) : Host.Outcome State Fault Refusal :=
  .next (issueAlu (.fma t f) f (fTer (FpTy.fmt t) (FpTy.count t) f (fmaF (FpTy.fmt t) (F64.mode f) false)) s)
def execFnma (t : FpTy) (f : F64) (s : State) : Host.Outcome State Fault Refusal :=
  .next (issueAlu (.fnma t f) f (fTer (FpTy.fmt t) (FpTy.count t) f (fmaF (FpTy.fmt t) (F64.mode f) true)) s)
def execMinFloat (t : FpTy) (f : F64) (s : State) : Host.Outcome State Fault Refusal :=
  .next (issueAlu (.minFloat t f) f (fBin (FpTy.fmt t) (FpTy.count t) f (minMaxF (FpTy.fmt t) false)) s)
def execMaxFloat (t : FpTy) (f : F64) (s : State) : Host.Outcome State Fault Refusal :=
  .next (issueAlu (.maxFloat t f) f (fBin (FpTy.fmt t) (FpTy.count t) f (minMaxF (FpTy.fmt t) true)) s)

/-- The relation that MOD names and the INVALID it raises (R137, R139). -/
def fcmpRel (t : Fmt) (cc : Nat) (a b : Nat) : Bool × BitVec 9 :=
  let nan := isNanF t a || isNanF t b
  let snan := isSnan t a || isSnan t b
  let c := compareF t a b
  let quiet := if snan then flagInvalid else 0
  let loud := if nan then flagInvalid else 0
  match cc with
  | 0 => (!nan && c == 0, quiet)
  | 1 => (nan || c != 0, quiet)
  | 2 => (!nan && c < 0, loud)
  | 3 => (!nan && c ≤ 0, loud)
  | 4 => (!nan && 0 < c, loud)
  | 5 => (!nan && 0 ≤ c, loud)
  | 6 => (!nan, quiet)
  | _ => (nan, quiet)

/-- Compare and write one predicate per guard-true lane, with flags (R139, R147). -/
def fcmpBody (t : FcTy) (f : F64) (s : State) (gl : List Nat) : Res :=
  let one := fun (l code : Nat) => (fSrc s f (FcTy.fmt t) 1 l code).getD 0 0
  let rs := gl.map (fun l => (l, fcmpRel (FcTy.fmt t) f.md.toNat (one l f.a.toNat) (one l f.b.toNat)))
  withFlags s s.cur.warp (rs.map (fun r => (r.1, r.2.2))) (fun s' =>
    .next (writePreds s' s.cur.warp (f.d.toNat % 8) (rs.map (fun r => (r.1, r.2.1)))))

def execFcmp (t : FcTy) (f : F64) (s : State) : Host.Outcome State Fault Refusal :=
  .next (issue (hdrOf (.fcmp t f) f) (fcmpBody t f) s)

/-- The class bit of a code (R140). -/
def classOf (t : Fmt) (x : Nat) : Nat :=
  match unpackF t x with
  | .nan _ _ => if isSnan t x then 8 else 9
  | .inf neg => if neg then 0 else 7
  | .fin neg m _ =>
    if m = 0 then (if neg then 3 else 4)
    else if m < 2 ^ t.fb then (if neg then 2 else 5) else (if neg then 1 else 6)

def execFclass (t : FcTy) (f : F64) (s : State) : Host.Outcome State Fault Refusal :=
  .next (issueAlu (.fclass t f) f (fun s l =>
    (BitVec.ofNat 64 (2 ^ classOf (FcTy.fmt t) ((fSrc s f (FcTy.fmt t) 1 l f.a.toNat).getD 0 0)), 0)) s)

end Sys2Proof.Machine
end

