-- ==== Sys2Proof/Machine/Slotted.lean ====
section
/-! DEFINITION. Instructions that may set a slot (R68, R115, R116): the divider (R128–R131), the special functions
(R141, R142) and conversions (R143–R146). With a slot, results and flags are written when the unit completes. -/

namespace Sys2Proof.Machine

/-- Start a slotted instruction: its slot is set in the guard-true threads and its work waits for the unit (R68). -/
def startPending (s : State) (u : WorkUnit) (slot : Nat) (gl : List Nat) (fl : BitVec 9) (wk : Work) : State :=
  let p : Pending := { pid := s.serial, unit := u, warp := s.cur.warp, lanes := gl, slot := slot, flags := fl,
                       acq := none, work := wk }
  { s.onLanes s.cur.warp gl (fun _ t => t.slotSet slot) with pending := s.pending ++ [p], serial := s.serial + 1 }

/-- Compute one or two registers per guard-true lane; with a slot the writes wait for the unit, and an enabled flag is
decided at issue (R131, R147). -/
def slottedBody (u : WorkUnit) (f : F64) (g : State → Nat → List (Nat × Word) × BitVec 9) (s : State) (gl : List Nat) : Res :=
  let rs := gl.map (fun l => (l, g s l))
  let ws := rs.flatMap (fun r => r.2.1.map (fun x => (r.1, x.1, x.2)))
  let fls := rs.map (fun r => (r.1, r.2.2))
  if f.set = 0 then
    withFlags s s.cur.warp fls (fun s' =>
      .next (ws.foldl (fun s x => s.writeD s.cur.warp x.1 x.2.1 x.2.2) s'))
  else if (s.warp s.cur.warp).fen &&& allFlags fls != 0 then .trap (flagRaises (s.warp s.cur.warp).fen fls)
  else .next (startPending s u f.set.toNat gl (allFlags fls) (.writeRegs ws))

def issueSlotted (i : Instr) (u : WorkUnit) (f : F64) (g : State → Nat → List (Nat × Word) × BitVec 9) (s : State) : State :=
  issue (hdrOf i f) (slottedBody u f g) s

/-! ### Divider -/

def DivTy.width : DivTy → Nat
  | .i32x2 | .n32x2 => 32 | .i64 | .n64 => 64
def DivTy.signed : DivTy → Bool
  | .i32x2 | .i64 => true
  | _ => false

/-- Quotient, remainder and flags of one division (R129). -/
def divElem (signed : Bool) (w : Nat) (a b : Int) : Nat × Nat × BitVec 9 :=
  if b = 0 then (2 ^ w - 1, wrapInt w a, flagIdivzero)
  else if signed ∧ a = -(2 ^ (w - 1) : Nat) ∧ b = -1 then (wrapInt w a, 0, flagIdivovf)
  else (wrapInt w (Int.tdiv a b), wrapInt w (Int.tmod a b), 0)

/-- The quotients and remainders of a lane (R129). -/
def divLane (t : DivTy) (f : F64) (s : State) (lane : Nat) : Word × Word × BitVec 9 :=
  let w := DivTy.width t
  let n := 64 / w
  let ext := extInt (DivTy.signed t) w
  let as := srcElems s f lane w n (t = .i64) f.a.toNat
  let bs := second s f lane w n (t = .i64)
  let rs := (as.zip bs).map (fun x => divElem (DivTy.signed t) w (ext x.1) (ext x.2))
  (packElems w (rs.map (·.1)), packElems w (rs.map (·.2.1)), rs.foldl (fun fl r => fl ||| r.2.2) 0)

def execDiv (t : DivTy) (f : F64) (s : State) : Host.Outcome State Fault Refusal :=
  .next (issueSlotted (.div t f) .divider f (fun s l =>
    let r := divLane t f s l
    ([(f.d.toNat, r.1)], r.2.2)) s)
def execRem (t : DivTy) (f : F64) (s : State) : Host.Outcome State Fault Refusal :=
  .next (issueSlotted (.rem t f) .divider f (fun s l =>
    let r := divLane t f s l
    ([(f.d.toNat, r.2.1)], r.2.2)) s)
def execDivm (t : DivTy) (f : F64) (s : State) : Host.Outcome State Fault Refusal :=
  .next (issueSlotted (.divm t f) .divider f (fun s l =>
    let r := divLane t f s l
    ([(f.d.toNat, r.1), (f.d.toNat + 1, r.2.1)], r.2.2)) s)

/-! ### Special functions: exact results rounded once to FP32 (R142) -/

/-- Integer square root by bits: the largest r with r² ≤ x, among r below 2^n. -/
def isqrt : Nat → Nat → Nat → Nat
  | 0, _, r => r
  | n + 1, x, r => if (r + 2 ^ n) * (r + 2 ^ n) ≤ x then isqrt n x (r + 2 ^ n) else isqrt n x r

/-- Square root with enough bits to round, and whether it is inexact: √(m × 2^e) for even e. -/
def sqrtBits (bits m : Nat) : Nat × Bool :=
  let r := isqrt bits m 0
  (r, r * r != m)

/-- Special cases shared by the unary functions: NaNs (R142). -/
def sfNan (a : Nat) (k : FNum → Nat × BitVec 9) : Nat × BitVec 9 :=
  match nanResult .f32 [a] false with
  | some r => r
  | none => k (unpackF .f32 a)

def sfInvalid : Nat × BitVec 9 := (Fmt.f32.defNan, flagInvalid)

def frndF (mode : RMode) (a : Nat) : Nat × BitVec 9 :=
  sfNan a fun
    | .fin neg m e =>
      if 0 ≤ e then (a, 0)
      else
        let r := roundAt mode neg m e false 0
        if r.1 = 0 then (zeroF .f32 neg, 0) else roundF .f32 mode neg r.1 0 false
    | _ => (a, 0)

def fscaleF (mode : RMode) (a n : Nat) : Nat × BitVec 9 :=
  sfNan a fun
    | .fin neg m e => if m = 0 then (a, 0) else roundF .f32 mode neg m (e + sextInt 32 n) false
    | _ => (a, 0)

def frcpF (mode : RMode) (a : Nat) : Nat × BitVec 9 :=
  sfNan a fun
    | .inf neg => (zeroF .f32 neg, 0)
    | .fin neg m e =>
      if m = 0 then (infF .f32 neg, flagDivzero)
      else roundF .f32 mode neg (2 ^ 64 / m) (-64 - e) (2 ^ 64 % m != 0)
    | .nan _ _ => sfInvalid

def fsqrtF (mode : RMode) (a : Nat) : Nat × BitVec 9 :=
  sfNan a fun
    | .inf neg => if neg then sfInvalid else (a, 0)
    | .fin neg m e =>
      if m = 0 then (a, 0) else if neg then sfInvalid
      else
        let m' := if e % 2 = 0 then m * 2 ^ 64 else m * 2 ^ 65
        let e' := if e % 2 = 0 then e - 64 else e - 65
        let r := sqrtBits 46 m'
        roundF .f32 mode false r.1 (e' / 2) r.2
    | .nan _ _ => sfInvalid

/-- 1 ÷ √a, as √(2^k ÷ a) with the inexactness of both steps: floor(√(floor x)) is floor(√x). -/
def frsqrtF (mode : RMode) (a : Nat) : Nat × BitVec 9 :=
  sfNan a fun
    | .inf neg => if neg then sfInvalid else (0, 0)
    | .fin neg m e =>
      if m = 0 then (infF .f32 neg, flagDivzero) else if neg then sfInvalid
      else
        -- 1 ÷ a = (2^k ÷ m) × 2^(−e−k), with −e−k even
        let k : Nat := if e % 2 = 0 then 96 else 97
        let q := 2 ^ k / m
        let r := sqrtBits 50 q
        roundF .f32 mode false r.1 ((-e - k) / 2) (r.2 || 2 ^ k % m != 0)
    | .nan _ _ => sfInvalid

/-! #### 2^x and log2 by intervals

Both are computed between a lower and an upper bound with p fraction bits. The exact value is irrational, so the result
is rounded from the lower bound with something below it counted as inexact. -/

/-- Bounds for 2^(x) with x = Σ of the listed fraction bits b₁b₂… (most significant first) below 1. `sq` starts as the
bounds of 2^(1/1) and is replaced by its square root for each bit. -/
def exp2Bits (p : Nat) (sq : Nat × Nat) (acc : Nat × Nat) : List Bool → Nat × Nat
  | [] => acc
  | b :: r =>
    let lo := isqrt (p + 2) (sq.1 * 2 ^ p) 0
    let hi := isqrt (p + 2) (sq.2 * 2 ^ p) 0 + 1
    let acc' := if b then (acc.1 * lo / 2 ^ p, acc.2 * hi / 2 ^ p + 1) else acc
    exp2Bits p (lo, hi) acc' r

/-- The fraction bits of n ÷ 2^k, most significant first. -/
def fracBits (n k : Nat) : List Bool := (List.range k).map (fun i => bitOf n (k - 1 - i))

/-- 2^a for −1 ≤ a ≤ 1 (R142). -/
def fexpfF (mode : RMode) (a : Nat) : Nat × BitVec 9 :=
  sfNan a fun
    | .inf _ => sfInvalid
    | .fin neg m e =>
      if m = 0 then (0x3F800000, 0)
      else
        let d := (-e).toNat
        let v := if 0 ≤ e then m * 2 ^ e.toNat else m
        if 2 ^ d < v then sfInvalid
        else if v = 2 ^ d then (if neg then 0x3F000000 else 0x40000000, 0)
        else
          -- a = n ÷ 2^d with 0 ≤ n < 2^d, less 1 when negative
          let n := if neg then 2 ^ d - v else v
          let p := 200
          let r := exp2Bits p (2 * 2 ^ p, 2 * 2 ^ p) (2 ^ p, 2 ^ p) (fracBits n d)
          roundF .f32 mode false r.1 (if neg then -(p : Int) - 1 else -(p : Int)) true
    | .nan _ _ => sfInvalid

/-- Fraction bits of log2 of y in [1, 2), held between bounds with p fraction bits: square and compare with 2. -/
def log2Bits (p : Nat) : Nat → Nat × Nat → Nat → Nat
  | 0, _, acc => acc
  | n + 1, y, acc =>
    let lo := y.1 * y.1 / 2 ^ p
    let hi := y.2 * y.2 / 2 ^ p + 1
    if 2 * 2 ^ p ≤ lo then log2Bits p n (lo / 2, hi / 2 + 1) (2 * acc + 1)
    else log2Bits p n (lo, hi) (2 * acc)

/-- log2 a (R142). -/
def flog2F (mode : RMode) (a : Nat) : Nat × BitVec 9 :=
  sfNan a fun
    | .inf neg => if neg then sfInvalid else (a, 0)
    | .fin neg m e =>
      if m = 0 then (infF .f32 true, flagDivzero) else if neg then sfInvalid
      else
        let l := Nat.log2 m
        let k : Int := e + l
        if m = 2 ^ l then
          (if k = 0 then (0, 0) else roundF .f32 mode (decide (k < 0)) k.natAbs 0 false)
        else
          let p := 400
          let n := 120
          let y := m * 2 ^ p / 2 ^ l
          let fr := log2Bits p n (y, y) 0
          -- log2 a = k + (fr + less than 1) ÷ 2^n
          let x : Int := k * 2 ^ n + fr
          if 0 ≤ x then roundF .f32 mode false x.toNat (-(n : Int)) true
          else roundF .f32 mode true ((-x).toNat - 1) (-(n : Int)) true
    | .nan _ _ => sfInvalid

/-- One special function on one or two FP32 sub-elements. -/
def sfLane (packed : Bool) (f : F64) (op : Nat → Nat × BitVec 9) (s : State) (lane : Nat) : List (Nat × Word) × BitVec 9 :=
  let r := fUn .f32 (if packed then 2 else 1) f op s lane
  ([(f.d.toNat, r.1)], r.2)

def execFrnd (packed : Bool) (f : F64) (s : State) : Host.Outcome State Fault Refusal :=
  .next (issueSlotted (.frnd packed f) .special f (sfLane packed f (frndF (F64.mode f))) s)
def execFexpf (packed : Bool) (f : F64) (s : State) : Host.Outcome State Fault Refusal :=
  .next (issueSlotted (.fexpf packed f) .special f (sfLane packed f (fexpfF (F64.mode f))) s)
def execFscale (packed : Bool) (f : F64) (s : State) : Host.Outcome State Fault Refusal :=
  .next (issueSlotted (.fscale packed f) .special f (fun s l =>
    let r := fBin .f32 (if packed then 2 else 1) f (fscaleF (F64.mode f)) s l
    ([(f.d.toNat, r.1)], r.2)) s)
def execFrcp (packed : Bool) (f : F64) (s : State) : Host.Outcome State Fault Refusal :=
  .next (issueSlotted (.frcp packed f) .special f (sfLane packed f (frcpF (F64.mode f))) s)
def execFrsqrt (packed : Bool) (f : F64) (s : State) : Host.Outcome State Fault Refusal :=
  .next (issueSlotted (.frsqrt packed f) .special f (sfLane packed f (frsqrtF (F64.mode f))) s)
def execFsqrt (packed : Bool) (f : F64) (s : State) : Host.Outcome State Fault Refusal :=
  .next (issueSlotted (.fsqrt packed f) .special f (sfLane packed f (fsqrtF (F64.mode f))) s)
def execFlog2 (packed : Bool) (f : F64) (s : State) : Host.Outcome State Fault Refusal :=
  .next (issueSlotted (.flog2 packed f) .special f (sfLane packed f (flog2F (F64.mode f))) s)

/-! ### `cvt` -/

/-- The formats of R143. -/
inductive CvtFmt
  | flt (t : Fmt)
  | int (signed : Bool) (w : Nat)
  | t2
deriving DecidableEq, Repr

def cvtFmt (code : Nat) : CvtFmt :=
  match code with
  | 0 => .flt .f32 | 1 => .flt .f16 | 2 => .flt .bf16 | 3 => .flt .e4m3 | 4 => .flt .e5m2
  | 5 => .int true 32 | 6 => .int false 32 | 7 => .int true 16 | 8 => .int false 16 | 9 => .int true 8
  | 10 => .int false 8 | 11 => .int true 4 | _ => .t2

/-- Convert an exact integer (R145). -/
def cvtFromInt (dst : CvtFmt) (mode : RMode) (x : Int) : Nat × BitVec 9 :=
  match dst with
  | .flt t => packF t mode (intF x)
  | .int sg w => let r := satInt sg w x; (wrapInt w r.1, if r.2 then flagSat else 0)
  | .t2 => if x < -1 then (3, flagSat) else if 1 < x then (1, flagSat) else (t2Code x, 0)

/-- Convert one element (R145). -/
def cvtElem (src dst : CvtFmt) (mode : RMode) (x : Nat) : Nat × BitVec 9 :=
  match src with
  | .flt t =>
    match dst with
    | .flt t' => convF t t' mode x
    | .int sg w => toIntF sg w mode (unpackF t x)
    | .t2 => toT2F mode (unpackF t x)
  | .int sg w => cvtFromInt dst mode (extInt sg w x)
  | .t2 => let v := t2Value x; let r := cvtFromInt dst mode v.1; (r.1, r.2 ||| v.2)

/-- Convert the elements of the group g (R144). (DEDUCED, log 87) -/
def cvtWord (dc sc g : Nat) (mode : RMode) (x : Word) : Word × BitVec 9 :=
  let wd := cvtWidth dc
  let ws := cvtWidth sc
  let k := 64 / Nat.max ws wd
  let from_ := if ws < wd then g * k else 0
  let at_ := if wd < ws then g * k else 0
  let rs := (List.range k).map (fun i => cvtElem (cvtFmt sc) (cvtFmt dc) mode (elem ws x (from_ + i)))
  (BitVec.ofNat 64 ((packElems wd (rs.map (·.1))).toNat * 2 ^ (wd * at_)), rs.foldl (fun fl r => fl ||| r.2) 0)

/-- `cvt` (R143–R145). A literal source is one zero-extended 64-bit value whose elements are taken by position: whether R72's
rule of packed instructions binds `cvt` is open. (DEDUCED, log 87) -/
def execCvt (f : F64) (s : State) : Host.Outcome State Fault Refusal :=
  .next (issueSlotted (.cvt f) .conversion f (fun s l =>
    let r := cvtWord (f.c.toNat % 16) (f.c.toNat / 16 % 16) f.b.toNat (F64.mode f) (opnd s s.cur.warp l f.lit f.a.toNat)
    ([(f.d.toNat, r.1)], r.2)) s)

end Sys2Proof.Machine
end

