-- ==== Sys2Proof/Machine/Access.lean ====
section
/-! DEFINITION. The checks of every thread access (R26), loads and stores (R157–R159), the spill stack (R150, R161),
atomics (R162, R163), fences and monitors (R164, R165), and the completion of memory work that holds a slot (R158). -/

namespace Sys2Proof.Machine

/-! ### Types -/

def MemTy.bytes : MemTy → Nat
  | .b8 | .i8 => 1 | .b16 | .i16 => 2 | .b32 | .i32 => 4 | .b64 => 8 | .b128 => 16
def MemTy.signed : MemTy → Bool
  | .i8 | .i16 | .i32 => true
  | _ => false
def StTy.bytes : StTy → Nat
  | .b8 => 1 | .b16 => 2 | .b32 => 4 | .b64 => 8 | .b128 => 16

/-! ### Performing -/

/-- The core of a warp's memory port sends an access to a global line behind its earlier stores to that line (R178). -/
def readAt (s : State) (w : Nat) (l : Loc) (n : Nat) : List Byte × State :=
  (s.drainLine (coreOf w) l).readLoc (s.warp w).owner l n

/-- Write the result of a load to a lane (R158). -/
def loadResult (s : State) (w : Nat) (t : MemTy) (d lane : Nat) (bs : List Byte) : State :=
  let x := leNat bs
  if t = .b128 then (s.writeD w lane d (BitVec.ofNat 64 x)).writeD w lane (d + 1) (BitVec.ofNat 64 (x / 2 ^ 64))
  else if MemTy.signed t then s.writeD w lane d (BitVec.ofNat 64 (wrapInt 64 (sextInt (8 * MemTy.bytes t) x)))
  else s.writeD w lane d (BitVec.ofNat 64 x)

/-- Perform the loads of a warp's lanes in increasing lane order. -/
def performLoads (s : State) (w : Nat) (t : MemTy) (d : Nat) (ls : List LaneWork) : State :=
  ls.foldl (fun s x =>
    let r := readAt s w x.loc (MemTy.bytes t)
    loadResult r.2 w t d x.lane r.1) s

/-- Whether a store is performed at its scope when the cross-die path has accepted it: a `.die` store to a line that another
die homes (R178). -/
def crosses (w scope : Nat) (l : Loc) : Bool :=
  match l with
  | .dev _ | .host _ _ _ _ => scope == scopeDie && l.home != dieOf w
  | _ => false

/-- Perform one lane's store at a scope: a `.wg` store to global memory is performed when the port accepts it, a `.die` store
to another die's line when the cross-die path does, any other at its home (R178). At `.sys` a host line is written across
the link. -/
def performStore (s : State) (w scope : Nat) (x : LaneWork) (bytes : Nat) : State :=
  let bs := leBytes bytes (x.data.toNat + 2 ^ 64 * x.data2.toNat)
  let owner := (s.warp w).owner
  let vgid := (s.warp w).vgid
  let atPort := match x.loc with
    | .dev _ | .host _ _ _ _ => decide (scope = scopeWg)
    | _ => false
  if atPort then s.portStore (coreOf w) owner vgid x.va x.loc bs
  else
    let s := s.drainLine (coreOf w) x.loc
    if crosses w scope x.loc then (s.portStore (coreOf w) owner vgid x.va x.loc bs).sendCross (coreOf w)
    else
      let s := s.perform owner vgid x.loc bs
      if scope = scopeSys then s.flushAt x.loc else s

def performStores (s : State) (w bytes scope : Nat) (ls : List LaneWork) : State :=
  ls.foldl (fun s x => performStore s w scope x bytes) s

/-! ### Atomics (R162, R163) -/

def AtTy.width : AtTy → Nat
  | .n32 | .i32 => 32 | .n64 | .i64 => 64
def AtTy.signed : AtTy → Bool
  | .i32 | .i64 => true
  | _ => false

/-- The codes by which pending work names an atomic: operation 0–7 of R162, 8 for `fadd`; type 0–3, or 0 `.f32` and
1 `.bf16x2` for `fadd`. -/
def atomWidth (op t : Nat) : Nat := if op = 8 then 32 else if t < 2 then 32 else 64

/-- The new value of an atomic and the flags it raises. -/
def atomNew (op t : Nat) (old b c : Nat) : Nat × BitVec 9 :=
  let w := atomWidth op t
  let lt : Bool := if t % 2 = 1 then decide (sextInt w b < sextInt w old) else decide (b % 2 ^ w < old)
  match op with
  | 0 => ((old + b) % 2 ^ w, 0)
  | 1 => ((old &&& b) % 2 ^ w, 0)
  | 2 => ((old ||| b) % 2 ^ w, 0)
  | 3 => ((old ^^^ b) % 2 ^ w, 0)
  | 4 => (if lt then b % 2 ^ w else old, 0)
  | 5 => (if lt then old else b % 2 ^ w, 0)
  | 6 => (b % 2 ^ w, 0)
  | 7 => (if old = b % 2 ^ w then c % 2 ^ w else old, 0)
  | _ =>
    if t = 0 then addF .f32 .rne false old (b % 2 ^ 32)
    else
      let lo := addF .bf16 .rne false (old % 2 ^ 16) (b % 2 ^ 16)
      let hi := addF .bf16 .rne false (old / 2 ^ 16) (b / 2 ^ 16 % 2 ^ 16)
      (lo.1 + 2 ^ 16 * hi.1, lo.2 ||| hi.2)

/-- One lane's read-modify-write: the old value, the flags and the state after it. It opens no line (R163). -/
def atomLane (s : State) (w op t : Nat) (x : LaneWork) : Nat × BitVec 9 × State :=
  let n := atomWidth op t / 8
  let r := readAt s w x.loc n
  let old := leNat r.1
  let nw := atomNew op t old x.data.toNat x.data2.toNat
  (old, nw.2, r.2.perform (s.warp w).owner 0 x.loc (leBytes n nw.1))

/-- Lanes in increasing order: the old values, the flags of each lane, the state. -/
def atomLanes (s : State) (w op t : Nat) (ls : List LaneWork) : List (Nat × Word) × List (Nat × BitVec 9) × State :=
  ls.foldl (fun r x =>
    let y := atomLane r.2.2 w op t x
    (r.1 ++ [(x.lane, BitVec.ofNat 64 y.1)], r.2.1 ++ [(x.lane, y.2.1)], y.2.2)) ([], [], s)

/-- At `.sys` an access to host memory is performed once its line has crossed the link (R178, R183). -/
def State.flushAll (s : State) (scope : Nat) (ls : List LaneWork) : State :=
  if scope = scopeSys then ls.foldl (fun s x => s.flushAt x.loc) s else s

/-- Perform an atomic for the lanes and write D; at `.sys` host memory is written across the link (R178). -/
def performAtomic (s : State) (w op t d scope : Nat) (ls : List LaneWork) : State :=
  let r := atomLanes s w op t ls
  ((writeLanes r.2.2 w d r.1).orFlags w (allFlags r.2.1)).flushAll scope ls

/-! ### Counters (R14, R15) -/

/-- Add to the counter at a place: the value saturates and sets OVERFLOW (R15). -/
def State.counterAdd (s : State) (owner : Nat) (l : Loc) (n : Nat) : State :=
  let r := s.readLoc owner l 16
  let v := leNat (r.1.take 8) + n
  let st := leNat (r.1.drop 8)
  let v' := min v (2 ^ 64 - 1)
  let st' := if 2 ^ 64 ≤ v then st ||| 16 else st
  r.2.perform owner 0 l (leBytes 8 v' ++ leBytes 8 st')

/-- Set status bits of a counter (R15). -/
def State.counterStatus (s : State) (owner : Nat) (l : Loc) (bits : Nat) : State :=
  let r := s.readLoc owner (l.plus 8) 8
  r.2.perform owner 0 (l.plus 8) (leBytes 8 (leNat r.1 ||| bits))

/-- A dropped arrival: DROPCOUNT saturates, DROPPED is set, with further status bits (R14, R19). -/
def State.counterDrop (s : State) (owner : Nat) (l : Loc) (bits : Nat) : State :=
  let r := s.readLoc owner (l.plus 8) 8
  let st := leNat r.1
  let dc := min (bitsOf st 63 32 + 1) (2 ^ 32 - 1)
  r.2.perform owner 0 (l.plus 8) (leBytes 8 ((st % 2 ^ 32 ||| 8 ||| bits) + dc * 2 ^ 32))

/-- An addition of a die's engine to the counter at a place, a release at `.sys` (R27, R185). It reaches the counter's home behind
what the die's path holds for it (R178). -/
def State.engAdd (s : State) (die owner : Nat) (l : Loc) (n : Nat) : State := ((s.drainCross die l).counterAdd owner l n).flushAt l

/-- A drop that a die's engine notes in the counter at a place (R14, R225). -/
def State.engDrop (s : State) (die owner : Nat) (l : Loc) (bits : Nat) : State :=
  ((s.drainCross die l).counterDrop owner l bits).flushAt l

/-! ### Work that completes later (R30, R68, R158) -/

/-- Results of a depth-1 invocation that a nested walk has put away reach its record: v0–v63 (R364). -/
def State.putAway (s : State) (w : Nat) (ws : List (Nat × Nat × Word)) : State :=
  let owner := (s.warp w).owner
  let base := depth2Base s owner (coreOf w) + 8 * 128
  (ws.filter (fun x => decide (x.2.1 < 64))).foldl (fun s x => s.resPutWord owner (base + 8 * (32 * x.2.1 + x.1)) x.2.2.toNat) s

/-- Do what a pending instruction still has to do. -/
def State.doWork (s : State) (p : Pending) : State :=
  match p.work with
  | .writeRegs ws => if p.outer then s.putAway p.warp ws else ws.foldl (fun s x => s.writeD p.warp x.1 x.2.1 x.2.2) s
  | .load _ t d ls => performLoads s p.warp t d ls
  | .store _ bytes scope ls => performStores s p.warp bytes scope ls
  | .atomic _ op t d scope ls => performAtomic s p.warp op t d scope ls
  | .cntAdd scope ls => (ls.foldl (fun s x =>
      (s.drainLine (coreOf p.warp) x.loc).counterAdd (s.warp p.warp).owner x.loc x.data.toNat) s).flushAll scope ls
  | .cntFail scope ls => (ls.foldl (fun s x =>
      (s.drainLine (coreOf p.warp) x.loc).counterStatus (s.warp p.warp).owner x.loc (x.data.toNat % 64)) s).flushAll scope ls
  | .slotOnly => s

/-- End an instruction's work (its slot, unless a nested walk has put its invocation away: R364): what it does, its flags, its release and acquire, its slot, and threads that wait for it. A
release closes its workgroup's lines when it completes, its own granule among them (R189). -/
def State.endWork (s : State) (p : Pending) : State :=
  let s := (s.doWork p).orFlags p.warp p.flags
  let s := if p.rel then s.closeFor p.warp else s
  let s := match p.acq with
    | some sc => s.acquireIn p.warp sc p.lanes
    | none => s
  if p.outer then s
  else s.onLanes p.warp p.lanes (fun _ t =>
    let t := t.slotClear p.slot
    match t.wait with
    | .result pid => if pid = p.pid then { t with wait := .ready, since := s.tick, urgent := false } else t
    | _ => t)

/-- Complete a pending instruction. A lane that waits for writes to its B-hold spans tries again (R264). -/
def State.completePending (s : State) (p : Pending) : State :=
  let s := ({ s with pending := s.pending.filter (fun q => q.pid != p.pid) }).endWork p
  if (s.cores.get (coreOf p.warp)).cube.any (fun x => !x.ready) then s.post (.engineResourceFreed (dieOf p.warp)) else s

/-- Work that completes by itself, with no engine operation, network or handler behind it (R197), and no access of others
that it waits for, as a `tinv` does (R348). -/
def Pending.selfEnding (p : Pending) : Bool := p.unit != .engine && p.unit != .bsend && p.unit != .tinv

/-- Complete the work that warps have issued; work that an engine, the network or the svc handler holds goes on (R197). -/
def State.finishWork (s : State) (ws : List Nat) : State :=
  (s.pending.filter (fun p => ws.contains p.warp && p.selfEnding && !p.outer)).foldl (fun s p => s.completePending p) s

/-- Run a nested walk for the miss of a lane of a depth-1 invocation at `va` (R364). What the invocation has issued
completes first; work that an engine still holds, and a `tinv` (R348), are put away with it. (DEDUCED, log 86) -/
def State.nest (s : State) (core lane va : Nat) (a : Acc) (perm : Bool) : State :=
  match (s.cores.get core).inv with
  | none => s
  | some inv =>
    match walkPc s inv.owner with
    | none => s
    | some pc =>
      let w := supOf core
      let s := s.finishWork [w]
      let ws := (List.range 64).map (fun n => s.w w n)
      let s := s.resWrite inv.owner (depth2Base s inv.owner core) (wordsBytes (warpRecord s w 64))
      let word := 5 * 2 ^ 8 + b2n perm * 2 ^ 7 + a.code
      let s := { s with pending := s.pending.map (fun (p : Pending) => if p.warp = w then { p with outer := true } else p) }
      let s := s.enterSup core inv.owner pc 2 1 [[va, word]] (supWs s inv.owner 0 2 1 [])
      let item : InvItem := { key := va / 2 ^ 16, va := va, word := word, ended := false,
                              launch := (outerItem inv).1, wg := (outerItem inv).2 }
      s.setCore core (fun c => { c with inv := some { inv with
        depth := 2, items := [item], kind := .walk, start := s.tick,
        hcyc := inv.hcyc + 24,
        outer := some { kind := inv.kind, items := inv.items, start := inv.start, wregs := ws,
                         refused := false, lane := lane, va := va } } })

/-! ### The five checks of R26 -/

/-- One lane's access that has passed its checks. -/
structure Got where
  lane : Nat
  addr : Nat
  loc  : Loc
deriving DecidableEq, Repr

/-- What the checks come to. -/
inductive Chk
  | ok (s : State) (gs : List Got)
  | hold (s : State)
  | trap (rs : List Raise)

/-- Bytes a workgroup or owner may reach in bench or marver (R11, R13); the supervisor warp has no bench (R55). -/
def allotment (s : State) (w : Nat) (sp : Space) : Nat :=
  match sp with
  | .global => 2 ^ 56
  | .bench => if isSup w then 0 else (s.wg w).benchLen
  | .marver => (s.owners.get (s.warp w).owner).marvBytes

/-- The place of a bench or marver offset. -/
def localLoc (s : State) (w : Nat) (sp : Space) (off : Nat) : Loc :=
  match sp with
  | .marver => .marver (marverKey (dieOf w) ((s.owners.get (s.warp w).owner).marvBase.getD (dieOf w) 0 + off))
  | _ => .bench (benchKey (coreOf w) ((s.wg w).benchBase + off))

/-- R340: a store of the supervisor warp into the depth-2 record. -/
def inDepth2Record (s : State) (w : Nat) (sp : Space) (acc : Acc) (a n : Nat) : Bool :=
  isSup w && sp == .global && acc.writes &&
  (match frameBase s (s.warp w).owner (coreOf w) with
   | none => false
   | some b => decide (a < b + 0x10000 + 0x4400) && decide (b + 0x10000 < a + n))

/-- Step 1 of R26: at most one of ALIGN and BOUNDS in each lane. -/
def addressing (s : State) (w : Nat) (sp : Space) (acc : Acc) (n align : Nat) (x : Nat × Nat) : List Raise :=
  if x.2 % align ≠ 0 then [{ lane := x.1, bit := causeAlign, addr := x.2 }]
  else if allotment s w sp < x.2 + n ∨ inDepth2Record s w sp acc x.2 n then
    [{ lane := x.1, bit := causeBounds, addr := x.2 }]
  else []

/-- Keep the first raise of each lane. -/
def firstRaises (rs : List Raise) : List Raise :=
  rs.foldl (fun acc r => if acc.any (fun q => q.lane == r.lane) then acc else acc ++ [r]) []

/-- Hold the lanes of an access at its instruction until every place it misses is resolved (R335, R372). The access has the
number under which `xlateAll` made its requests. (DEDUCED, log 16) -/
def holdTranslation (s : State) (w : Nat) (lanes : List Nat) (miss : List (Nat × Nat)) : State :=
  let a := s.serial
  s.nextSerial.onLanes w lanes (fun l t => { t with
    wait := .translation a ((miss.filter (fun m => m.1 == l)).map (fun m => (m.2 / 2 ^ 16, m.2))) })

/-- Step 2 of R26 for the supervisor warp: a miss nests, or ends the depth-2 invocation (R364). -/
def supMiss (s : State) (core lane va : Nat) (a : Acc) (perm : Bool) : State :=
  match (s.cores.get core).inv with
  | none => s
  | some inv =>
    if inv.depth = 1 then s.nest core lane va a perm
    else s.freezeNested core va (5 * 2 ^ 8 + b2n perm * 2 ^ 7 + a.code)

/-- Whether the supervisor warp's access misses the die TLB. -/
def supMisses (s : State) (w : Nat) (a : Acc) (va : Nat) : Bool :=
  isSup w && (tlbLookup s (threadReq s w 0 a).keys (s.warp w).owner va a).isNone &&
  (walkPc s (s.warp w).owner).isSome

/-- What translating a list of accesses comes to: places found, accesses that wait, accesses refused, and whether a
walk request found no room. -/
structure Xlated where
  st      : State
  found   : List Got
  waiting : List (Nat × Nat)
  refused : List (Nat × Nat)
  full    : Bool

/-- Translate each lane's address in turn, for the access of a warp with number `k`. -/
def xlateAll (s : State) (w k : Nat) (a : Acc) (xs : List (Nat × Nat)) : Xlated :=
  xs.foldl (fun (r : Xlated) x =>
    match xlate r.st (threadReq r.st w k a) x.2 with
    | (.ok l, s') => { r with st := s', found := r.found ++ [{ lane := x.1, addr := x.2, loc := l }] }
    | (.wait, s') => { r with st := s', waiting := r.waiting ++ [x] }
    | (.full, s') => { r with st := s', full := true }
    | (.refused, s') => { r with st := s', refused := r.refused ++ [x] })
    { st := s, found := [], waiting := [], refused := [], full := false }

/-- Step 2 of R26. -/
def translation (s : State) (w : Nat) (sp : Space) (a : Acc) (xs : List (Nat × Nat)) : Chk :=
  let lanes := xs.map (·.1)
  match sp with
  | .global =>
    match xs.find? (fun x => supMisses s w a x.2) with
    | some x => .hold (supMiss s (coreOf w) x.1 x.2 a (tlbSeen s (threadReq s w 0 a).keys (s.warp w).owner x.2))
    | none =>
      let r := xlateAll s w s.serial a xs
      if r.refused ≠ [] then
        .trap (firstRaises (r.refused.map (fun x => { lane := x.1, bit := causeTranslate, addr := x.2 })))
      else if r.waiting ≠ [] then .hold (holdTranslation r.st w lanes r.waiting)
      else if r.full then .hold (r.st.enterAll w lanes .resource)
      else .ok r.st r.found
  | _ => .ok s (xs.map (fun x => { lane := x.1, addr := x.2, loc := localLoc s w sp x.2 }))

/-- Whether a lock stops a thread's access by its kind (R20). `cnt`: a counter instruction. (DEDUCED, log 73) -/
def lockStops (k : RLock) (sp : Space) (a : Acc) (cnt : Bool) : Bool :=
  match k.kind with
  | .write => sp == .global || a.writes
  | .read => a.writes
  | .counter => a.writes && !cnt

/-- The first address at which a lock's range meets `n` bytes at a place of space and address. -/
def lockMeets (k : RLock) (owner : Nat) (l : Loc) (va n : Nat) : Option Nat :=
  let at_ := fun (x : Nat) => if k.lo < x + n ∧ x < k.hi then some (Nat.max k.lo x - x) else none
  match k.space, l with
  | .global o, .dev _ => if o = owner then at_ va else none
  | .global o, .host _ _ _ _ => if o = owner then at_ va else none
  | .phys, .dev pa => at_ pa
  | .bench _, .bench key => at_ key
  | .marver _, .marver key => at_ key
  | _, _ => none

/-- Step 3 of R26: the first byte of a lane's access that lies in a locked range (R198). -/
def lockedAt (s : State) (owner : Nat) (sp : Space) (a : Acc) (cnt : Bool) (n : Nat) (g : Got) : Option Nat :=
  (s.locks.filterMap (fun k => if lockStops k sp a cnt then lockMeets k owner g.loc g.addr n else none)).min?

/-- The lines of a bench or marver access that are absent (R24). -/
def absentLine (s : State) (l : Loc) : Option Nat :=
  match l with
  | .bench k => if s.benchAbs.get (k / 128) then some (k / 128) else none
  | .marver k => if s.marvAbs.get (k / 128) then some (k / 128) else none
  | _ => none

/-- Steps 3 to 5 of R26. -/
def checkPlaces (s : State) (w : Nat) (sp : Space) (a : Acc) (n : Nat) (cnt : Bool) (gs : List Got) : Chk :=
  let owner := (s.warp w).owner
  let locked := gs.filterMap (fun g => (lockedAt s owner sp a cnt n g).map (fun i =>
    ({ lane := g.lane, bit := causeRangelock, addr := g.addr + i } : Raise)))
  let lines := if a = .write then [] else (gs.filterMap (fun g => absentLine s g.loc)).eraseDups
  let raced := if cnt then [] else gs.filterMap (fun g => (raceAt s (s.warp w).vgid g.loc n).map (fun i =>
    ({ lane := g.lane, bit := causeMemrace, addr := g.addr + i } : Raise)))
  if locked ≠ [] then .trap (firstRaises locked)
  else if lines ≠ [] then .hold (s.enterAll w (gs.map (·.lane)) (.presence (sp == .marver) lines))
  else if raced ≠ [] then .trap (firstRaises raced)
  else .ok s gs

/-- The checks of R26 for the accesses of a warp: lane and 64-bit address, `n` bytes each. (DEDUCED, log 73) -/
def checkAccess (s : State) (w : Nat) (sp : Space) (a : Acc) (n align : Nat) (cnt : Bool) (xs : List (Nat × Nat)) : Chk :=
  let bad := xs.flatMap (addressing s w sp a n align)
  if bad ≠ [] then .trap (firstRaises bad)
  else
    match translation s w sp a xs with
    | .ok s' gs => checkPlaces s' w sp a n cnt gs
    | r => r

/-- Go on with an effect when the checks pass. -/
def afterChecks (c : Chk) (k : State → List Got → Res) : Res :=
  match c with
  | .ok s gs => k s gs
  | .hold s => .hold s
  | .trap rs => .trap rs

/-- A handler's loads, stores and atomics, its spill stack's among them, and the destination bytes of its transfers are
charged (R363). (DEDUCED, log 13) -/
def chargeAccess (s : State) (w bytes : Nat) : State := if isSup w then s.chargeInv (coreOf w) 0 bytes else s

/-! ### Addresses and types -/

/-- The byte offset of a load, store or hand-off (R157): C, the literal, or none. -/
def memOffset (f : F64) : Int :=
  if f.md.getLsbD 0 then f.c.toInt else ((f.lit.getD 0).signExtend 64).toInt

/-- opnd(A) + off, modulo 2^64; a base `%lit` reads the literal that is also the offset. (DEDUCED, log 21) -/
def memAddr (s : State) (w : Nat) (f : F64) (lane : Nat) : Nat :=
  (opnd s w lane f.lit f.a.toNat + BitVec.ofInt 64 (memOffset f)).toNat

/-- The ordering code of a load, store or hand-off: the short form is relaxed (R157). -/
def memOrder (f : F64) : Nat := if f.md.getLsbD 0 then 0 else f.c.toNat

/-! ### Starting memory work -/

/-- Start memory work that holds a slot. An acquire's slot joins the wait of later memory accesses (R149), and so do the
slots of the accesses before it (R182). -/
def startMemory (s : State) (f : F64) (gl : List Nat) (ord : Nat) (wk : Work) (unit : WorkUnit := .memory) : State :=
  let p : Pending := { pid := s.serial, unit := unit, warp := s.cur.warp, lanes := gl, slot := f.set.toNat,
                       flags := 0, acq := if ordAcq ord then some (ordScope ord) else none, rel := ordRel ord, work := wk }
  let s := s.onLanes s.cur.warp gl (fun l t =>
    let t := t.slotSet f.set.toNat
    if ordAcq ord then
      { t with acqSlots := t.acqSlots ||| (1#6 <<< (f.set.toNat - 1)) ||| accessSlots s s.cur.warp l }
    else t)
  { s with pending := s.pending ++ [p], serial := s.serial + 1 }

/-- Do memory work at once, or start it with its slot. -/
def memWork (s : State) (f : F64) (gl : List Nat) (ord : Nat) (wk : Work) : Res :=
  let w := s.cur.warp
  let s := if ordRel ord then s.settleFor w (ordScope ord) else s
  if f.set = 0 then
    let p : Pending := { pid := s.serial, unit := .memory, warp := w, lanes := gl, slot := 0, flags := 0,
                         acq := if ordAcq ord then some (ordScope ord) else none, rel := ordRel ord, work := wk }
    .next (s.endWork p)
  else .next (startMemory s f gl ord wk)

/-- The header of an ordered memory instruction. -/
def memHdr (i : Instr) (f : F64) (ord : Nat) : Hdr :=
  { hdrOf i f with mem := true, rel := if ordRel ord then some (ordScope ord) else none }

/-- Whether a `.sys` instruction finds room in the parking buffer for what it may write across the link: its release's lines and
its own (R404). -/
def sysRoom (s : State) (w ord : Nat) : Bool :=
  ordScope ord != scopeSys || parkFits s (dirtyOf s (s.warp w).owner + 32 * 64)

/-- A `.sys` instruction that finds the parking buffer full waits (R404). -/
def sysGate (ord : Nat) (body : State → List Nat → Res) (s : State) (gl : List Nat) : Res :=
  if sysRoom s s.cur.warp ord then body s gl else .hold (s.enterAll s.cur.warp gl .resource)

/-! ### Loads and stores -/

def loadBody (sp : Space) (t : MemTy) (f : F64) (s : State) (gl : List Nat) : Res :=
  let w := s.cur.warp
  let n := MemTy.bytes t
  let ord := memOrder f
  afterChecks (checkAccess s w sp .read n n false (gl.map (fun l => (l, memAddr s w f l)))) (fun s gs =>
    let s := chargeAccess s w (n * gs.length)
    memWork s f gl ord (.load sp t f.d.toNat (gs.map (fun g =>
      { lane := g.lane, va := g.addr, loc := g.loc, data := 0, data2 := 0 }))))

/-- The store data of a lane: B, and B + 1 above it for `.b128`. -/
def storeData (s : State) (w : Nat) (t : StTy) (f : F64) (lane : Nat) : Word × Word :=
  let n := StTy.bytes t
  let b := opnd s w lane f.lit f.b.toNat
  let b := if n < 8 then BitVec.ofNat 64 (b.toNat % 2 ^ (8 * n)) else b
  (b, if t = .b128 then opnd s w lane f.lit (f.b.toNat + 1) else 0)

def storeBody (sp : Space) (t : StTy) (f : F64) (s : State) (gl : List Nat) : Res :=
  let w := s.cur.warp
  let n := StTy.bytes t
  let ord := memOrder f
  let data := gl.map (fun l => (l, storeData s w t f l))
  afterChecks (checkAccess s w sp .write n n false (gl.map (fun l => (l, memAddr s w f l)))) (fun s gs =>
    let s := chargeAccess s w (n * gs.length)
    memWork s f gl ord (.store sp n (ordScope ord) ((gs.zip data).map (fun x =>
      { lane := x.1.lane, va := x.1.addr, loc := x.1.loc, data := x.2.2.1, data2 := x.2.2.2 }))))

def execLd (sp : Space) (t : MemTy) (f : F64) (s : State) : Host.Outcome State Fault Refusal :=
  finish (issue (memHdr (.ld sp t f) f (memOrder f)) (sysGate (memOrder f) (loadBody sp t f)) s)

def execSt (sp : Space) (t : StTy) (f : F64) (s : State) : Host.Outcome State Fault Refusal :=
  finish (issue (memHdr (.st sp t f) f (memOrder f)) (sysGate (memOrder f) (storeBody sp t f)) s)

/-! ### The spill stack (R150, R161) -/

/-- The address of word `k` of a lane's spill stack. (DESIGN CHOICE, log 20) -/
def spillAddr (s : State) (w lane k : Nat) : Nat := ((s.warp w).spBase.toNat + 256 * k + 8 * lane) % 2 ^ 64

/-- The depth limit. -/
def spillLimit (s : State) (w : Nat) : Nat := (s.warp w).spLen / 256

/-- Store words at addresses as relaxed unslotted stores of the thread. -/
def pushWords (s : State) (w : Nat) (xs : List (Got × Word)) : State :=
  xs.foldl (fun s x => performStore s w scopeWg
    { lane := x.1.lane, va := x.1.addr, loc := x.1.loc, data := x.2, data2 := 0 } 8) s

def pushBody (f : F64) (s : State) (gl : List Nat) : Res :=
  let w := s.cur.warp
  let n := f.c.toNat
  let above := gl.filter (fun l => decide (spillLimit s w < (s.thread w l).spd + n))
  if above ≠ [] then .trap (raiseAll causeStack above)
  else
    let xs := gl.flatMap (fun l => (List.range n).map (fun i =>
      ((l, spillAddr s w l ((s.thread w l).spd + i)), opnd s w l none (f.a.toNat + i))))
    afterChecks (checkAccess s w .global .write 8 8 false (xs.map (·.1))) (fun s gs =>
      let s := pushWords (chargeAccess s w (8 * gs.length)) w (gs.zip (xs.map (·.2)))
      .next (s.onLanes w gl (fun _ t => { t with spd := t.spd + n })))

def popBody (f : F64) (s : State) (gl : List Nat) : Res :=
  let w := s.cur.warp
  let n := f.c.toNat
  let under := gl.filter (fun l => decide ((s.thread w l).spd < n))
  if under ≠ [] then .trap (raiseAll causeStack under)
  else
    let xs := gl.flatMap (fun l => (List.range n).map (fun i =>
      ((l, spillAddr s w l ((s.thread w l).spd - n + i)), f.d.toNat + i)))
    afterChecks (checkAccess s w .global .read 8 8 false (xs.map (·.1))) (fun s gs =>
      let s := (gs.zip (xs.map (·.2))).foldl (fun s x =>
        let r := readAt s w x.1.loc 8
        r.2.writeD w x.1.lane x.2 (BitVec.ofNat 64 (leNat r.1))) (chargeAccess s w (8 * gs.length))
      .next (s.onLanes w gl (fun _ t => { t with spd := t.spd - n })))

def execPush (f : F64) (s : State) : Host.Outcome State Fault Refusal :=
  finish (issue (memHdr (.push f) f 0) (pushBody f) s)
def execPop (f : F64) (s : State) : Host.Outcome State Fault Refusal :=
  finish (issue (memHdr (.pop f) f 0) (popBody f) s)

/-! ### Atomic instructions -/

/-- The space that MOD[63:62] names (R162). -/
def modSpace (f : F64) : Space :=
  match f.md.toNat / 2 with
  | 1 => .bench | 2 => .marver | _ => .global

/-- The address of an atomic: A plus the literal (R163). (DEDUCED, log 21) -/
def atomAddr (s : State) (w : Nat) (f : F64) (lane : Nat) : Nat :=
  (opnd s w lane f.lit f.a.toNat + (f.lit.getD 0).signExtend 64).toNat

/-- Flags that `atom.fadd` can raise. -/
def faddFlags : BitVec 9 := flagInvalid ||| flagOverflow ||| flagUnderflow ||| flagInexact

/-- The operand of an atomic: a literal of a 64-bit signed type is sign-extended (R72). -/
def atomData (s : State) (w op t : Nat) (f : F64) (lane : Nat) : Word :=
  if op ≠ 8 ∧ t = 3 then opndI64 s w lane f.lit f.b.toNat else opnd s w lane f.lit f.b.toNat

def atomBody (op t : Nat) (f : F64) (s : State) (gl : List Nat) : Res :=
  let w := s.cur.warp
  let n := atomWidth op t / 8
  let ord := f.c.toNat
  let data := gl.map (fun l => (atomData s w op t f l, if op = 7 then s.v w l (f.b.toNat + 1) else 0))
  afterChecks (checkAccess s w (modSpace f) .atomic n n false (gl.map (fun l => (l, atomAddr s w f l)))) (fun s gs =>
    let ls : List LaneWork := (gs.zip data).map (fun x =>
      { lane := x.1.lane, va := x.1.addr, loc := x.1.loc, data := x.2.1, data2 := x.2.2 })
    let s := chargeAccess s w (n * gs.length)
    if op = 8 ∧ (s.warp w).fen &&& faddFlags ≠ 0 then
      let s' := if ordRel ord then s.settleFor w (ordScope ord) else s
      let r := atomLanes s' w op t ls
      if (s.warp w).fen &&& allFlags r.2.1 ≠ 0 then .trap (flagRaises (s.warp w).fen r.2.1)
      else
        let s'' := (r.2.2.orFlags w (allFlags r.2.1)).flushAll (ordScope ord) ls
        let s'' := if ordRel ord then s''.closeFor w else s''
        memWork s'' f gl (if ordAcq ord then 1 + 8 * ordScope ord else 0)
          (.writeRegs (r.1.map (fun x => (x.1, f.d.toNat, x.2))))
    else memWork s f gl ord (.atomic (modSpace f) op t f.d.toNat (ordScope ord) ls))

def issueAtom (i : Instr) (op t : Nat) (f : F64) (s : State) : Host.Outcome State Fault Refusal :=
  finish (issue (memHdr i f f.c.toNat) (sysGate f.c.toNat (atomBody op t f)) s)

def execAtomAdd (t : AtTy) (f : F64) (s : State) : Host.Outcome State Fault Refusal := issueAtom (.atomAdd t f) 0 (AtTy.idx t) f s
def execAtomAnd (t : AtTy) (f : F64) (s : State) : Host.Outcome State Fault Refusal := issueAtom (.atomAnd t f) 1 (AtTy.idx t) f s
def execAtomOr (t : AtTy) (f : F64) (s : State) : Host.Outcome State Fault Refusal := issueAtom (.atomOr t f) 2 (AtTy.idx t) f s
def execAtomXor (t : AtTy) (f : F64) (s : State) : Host.Outcome State Fault Refusal := issueAtom (.atomXor t f) 3 (AtTy.idx t) f s
def execAtomMin (t : AtTy) (f : F64) (s : State) : Host.Outcome State Fault Refusal := issueAtom (.atomMin t f) 4 (AtTy.idx t) f s
def execAtomMax (t : AtTy) (f : F64) (s : State) : Host.Outcome State Fault Refusal := issueAtom (.atomMax t f) 5 (AtTy.idx t) f s
def execAtomExch (t : AtTy) (f : F64) (s : State) : Host.Outcome State Fault Refusal := issueAtom (.atomExch t f) 6 (AtTy.idx t) f s
def execAtomCas (t : AtTy) (f : F64) (s : State) : Host.Outcome State Fault Refusal := issueAtom (.atomCas t f) 7 (AtTy.idx t) f s
def execAtomFadd (t : FaTy) (f : F64) (s : State) : Host.Outcome State Fault Refusal := issueAtom (.atomFadd t f) 8 (FaTy.idx t) f s

/-! ### Fences and monitors (R164, R165) -/

def fenceBody (f : F64) (s : State) (gl : List Nat) : Res :=
  let ord := f.c.toNat
  let s := if ordRel ord then s.release s.cur.warp (ordScope ord) else s
  .next (if ordAcq ord then s.acquireIn s.cur.warp (ordScope ord) gl else s)

def execFence (f : F64) (s : State) : Host.Outcome State Fault Refusal :=
  finish (issue (memHdr (.fence f) f f.c.toNat) (sysGate f.c.toNat (fenceBody f)) s)

/-- The WATCH register's form of an armed monitor (R176). -/
def watchWord (sp : Space) (a : Nat) : Word :=
  let base := if sp = .global then a / 64 * 64 else a / 128 * 128
  BitVec.ofNat 64 (base + 2 * Space.idx sp + 1)

def watchBody (f : F64) (s : State) (gl : List Nat) : Res :=
  let w := s.cur.warp
  let sp := modSpace f
  afterChecks (checkAccess s w sp .read 1 1 false (gl.map (fun l => (l, (opnd s w l f.lit f.a.toNat).toNat)))) (fun s gs =>
    .next (gs.foldl (fun s g =>
      let ln := g.loc.line
      s.setThread w g.lane (fun t => { t with
        monitor := watchWord sp g.addr, monLine := some (ln.2.1, ln.2.2.1), fired := false })) s))

def execWatch (f : F64) (s : State) : Host.Outcome State Fault Refusal :=
  finish (issue (hdrOf (.watch f) f) (watchBody f) s)

/-- Whether a thread's `mwait` completes: no monitor armed, or an event has come (R165). -/
def mwaitDone (t : Thread) : Bool := t.monitor == 0 || t.fired

/-- `mwait` completes in the threads that may, and disarms their monitors; the others wait at it. -/
def mwaitBody (s : State) (gl : List Nat) : Res :=
  let w := s.cur.warp
  let done := gl.filter (fun l => mwaitDone (s.thread w l))
  let rest := gl.filter (fun l => !mwaitDone (s.thread w l))
  let s := s.onLanes w done (fun _ t => { t with monitor := 0, monLine := none, fired := false })
  .split (s.enterAll w rest .monitor) rest

def execMwait (f : F64) (s : State) : Host.Outcome State Fault Refusal :=
  .next (issue (hdrOf (.mwait f) f) mwaitBody s)

end Sys2Proof.Machine
end

