-- ==== Sys2Proof/Machine/Control.lean ====
section
/-! DEFINITION. Branches, calls and ends (R151, R152), `trap` and `brk` (R177), `causeclr`, `tret` and `tabort` (R203, R204),
system registers (R176), `regq` (R44), and the withdrawal of waits (R201). -/

namespace Sys2Proof.Machine

/-! ### Withdrawn waits and stops (R201, R206, R407) -/

/-- WAIT of R198. -/
def waitCode (k : Wait) : Nat :=
  match k with
  | .barrier _ _ _ => 1 | .counter _ _ => 2 | .presence _ _ => 3 | .monitor => 4 | .rendezvous => 5 | _ => 0

/-- Withdraw a thread from its wait. A barrier wait keeps its phase, also where it is satisfied and has not issued again; a
monitor wait completes at once when it reissues. (DEDUCED, log 74) -/
def Thread.withdraw (t : Thread) : Thread :=
  match t.wait with
  | .ready => if t.awaited = none then t else { t with wcode := 1 }
  | .result _ => t
  | .barrier set e ph => { t with wait := .ready, wcode := 1, awaited := some { set := set, entry := e, phase := ph } }
  | .monitor => { t with wait := .ready, wcode := 4, fired := true }
  | k => { t with wait := .ready, wcode := waitCode k }

/-- Withdraw every live thread of a warp. Accesses of it that wait for a translation leave the requests that they joined (R335,
R350, R360). -/
def State.withdrawWarp (s : State) (w : Nat) : State :=
  (s.onLanes w (s.liveLanes w) (fun _ t => t.withdraw)).dropReqs (fun r => r.accessOf w)

/-- Stop a warp at its issue slot. -/
def State.stopWarp (s : State) (w : Nat) : State := (s.setWarp w (fun x => { x with stopped := true })).withdrawWarp w

/-- The warps of a debug session's stop scope around a warp (R406). -/
def scopeWarps (s : State) (w scope : Nat) : List Nat :=
  match scope with
  | 0 => [w]
  | 1 => if isSup w then [w] else (s.wg w).warps
  | _ => s.warps.keys.filter (fun v => (s.warp v).live && (s.warp v).owner == (s.warp w).owner && dieOf v == dieOf w && (!isSup v || v == w))

/-- Stop the scope for the debugger, with a report (R407). -/
def State.debugStop (s : State) (w report : Nat) : State :=
  let o := (s.warp w).owner
  let s := (scopeWarps s w (s.sessions.get o).scope).foldl (fun s v => s.stopWarp v) s
  { s with sessions := s.sessions.update o (fun x => { x with report := report }) }

/-- Whether the debugger takes breaks and steps of an owner (R406). -/
def holdSession (s : State) (owner : Nat) : Bool := (s.sessions.get owner).live && (s.sessions.get owner).hold

/-! ### Branches -/

/-- Move listed threads to program counters of their own. -/
def State.goto (s : State) (w : Nat) (ts : List (Nat × Word)) : State :=
  ts.foldl (fun s x => s.setThread w x.1 (fun t =>
    { t with pc := x.2, wait := .ready, since := s.tick, urgent := false, awaited := none, passed := false, wcode := 0 })) s

/-- A target outside the address space (R151). -/
def farTarget (t : Word) : Bool := t.toNat / 2 ^ 56 != 0

/-- The displacement of a branch: BODY, or the twin's literal, in words (R75, R151). -/
def shortTarget (s : State) (f : F32) : Word := s.cur.pc + BitVec.ofInt 64 (4 * f.body.toInt)
def longTarget (s : State) (f : F64) : Word := s.cur.pc + BitVec.ofInt 64 (4 * (f.lit.getD 0).toInt)

/-- Raises of lanes with a target of their own, which is their ADDR. (DESIGN CHOICE, log 98) -/
def targetRaises (ts : List (Nat × Word)) (align : Bool) : List Raise :=
  ts.filterMap (fun x =>
    if align ∧ x.2.toNat % 4 ≠ 0 then some { lane := x.1, bit := causeAlign, addr := x.2.toNat }
    else if farTarget x.2 then some { lane := x.1, bit := causeBounds, addr := x.2.toNat } else none)

def braBody (t : Word) (s : State) (gl : List Nat) : Res :=
  let ts := gl.map (fun l => (l, t))
  match targetRaises ts false with
  | [] => .split (s.goto s.cur.warp ts) gl
  | rs => .trap rs

def callBody (t : Word) (len : Nat) (s : State) (gl : List Nat) : Res :=
  let w := s.cur.warp
  let ts := gl.map (fun l => (l, t))
  let full := gl.filter (fun l => decide (spillLimit s w ≤ (s.thread w l).spd))
  if targetRaises ts false ≠ [] then .trap (targetRaises ts false)
  else if full ≠ [] then .trap (raiseAll causeStack full)
  else
    let next := s.cur.pc + BitVec.ofNat 64 len
    let xs := gl.map (fun l => (l, spillAddr s w l (s.thread w l).spd))
    afterChecks (checkAccess s w .global .write 8 8 false xs) (fun s gs =>
      let s := pushWords (chargeAccess s w (8 * gs.length)) w (gs.map (fun g => (g, next)))
      let s := s.onLanes w gl (fun _ t => { t with spd := t.spd + 1 })
      .split (s.goto w ts) gl)

def retBody (s : State) (gl : List Nat) : Res :=
  let w := s.cur.warp
  let empty := gl.filter (fun l => (s.thread w l).spd == 0)
  if empty ≠ [] then .trap (raiseAll causeStack empty)
  else
    let xs := gl.map (fun l => (l, spillAddr s w l ((s.thread w l).spd - 1)))
    afterChecks (checkAccess s w .global .read 8 8 false xs) (fun s gs =>
      let s := chargeAccess s w (8 * gs.length)
      let s := gs.foldl (fun s g => s.drainLine (coreOf w) g.loc) s
      let ts := gs.map (fun g => (g.lane, BitVec.ofNat 64 (leNat (s.readLoc (s.warp w).owner g.loc 8).1)))
      match targetRaises ts true with
      | [] => .split ((s.onLanes w gl (fun _ t => { t with spd := t.spd - 1 })).goto w ts) gl
      | rs => .trap rs)

def jmpBody (a : Nat) (lit : Option (BitVec 32)) (s : State) (gl : List Nat) : Res :=
  let ts := gl.map (fun l => (l, opnd s s.cur.warp l lit a))
  match targetRaises ts true with
  | [] => .split (s.goto s.cur.warp ts) gl
  | rs => .trap rs

def execBra (f : F32) (s : State) : Host.Outcome State Fault Refusal :=
  .next (issue (hdrOf32 (.bra f) f) (braBody (shortTarget s f)) s)
def execBraTwin (f : F64) (s : State) : Host.Outcome State Fault Refusal :=
  .next (issue (hdrOf (.braTwin f) f) (braBody (longTarget s f)) s)
def execCall (f : F32) (s : State) : Host.Outcome State Fault Refusal :=
  finish (issue { hdrOf32 (.call f) f with mem := true } (callBody (shortTarget s f) 4) s)
def execCallTwin (f : F64) (s : State) : Host.Outcome State Fault Refusal :=
  finish (issue { hdrOf (.callTwin f) f with mem := true } (callBody (longTarget s f) 12) s)
def execRet (f : F32) (s : State) : Host.Outcome State Fault Refusal :=
  finish (issue { hdrOf32 (.ret f) f with mem := true } retBody s)
def execRetTwin (f : F64) (s : State) : Host.Outcome State Fault Refusal :=
  finish (issue { hdrOf (.retTwin f) f with mem := true } retBody s)
def execJmp (f : F32) (s : State) : Host.Outcome State Fault Refusal :=
  .next (issue (hdrOf32 (.jmp f) f) (jmpBody (f.body.toNat / 512) none) s)
def execJmpTwinReg (f : F64) (s : State) : Host.Outcome State Fault Refusal :=
  .next (issue (hdrOf (.jmpTwinReg f) f) (jmpBody f.a.toNat f.lit) s)
def execJmpTwinLit (f : F64) (s : State) : Host.Outcome State Fault Refusal :=
  .next (issue (hdrOf (.jmpTwinLit f) f) (jmpBody f.a.toNat f.lit) s)

/-! ### `exit` and `yield` -/

/-- When a warp's last thread has exited, its sticky flags join the launch's (R205); otherwise a rendezvous may now
form among the threads that are left (R38, R152). -/
def afterExit (s : State) (w : Nat) : State :=
  let live := s.liveLanes w
  if live = [] then
    if s.launchOf w = 0 then s
    else s.setLaunch (s.launchOf w) (fun x => { x with flags := x.flags ||| (s.warp w).flags })
  else if live.all (fun l => (s.thread w l).wait = .rendezvous) then s.ready w live
  else s

/-- `exit` ends its threads; it is a release at `.sys` (R151). -/
def exitBody (s : State) (gl : List Nat) : Res :=
  let w := s.cur.warp
  let s := s.release w scopeSys
  let s := s.onLanes w gl (fun _ t => { t with live := false })
  .split (afterExit s w) gl

def execExit (f : F32) (s : State) : Host.Outcome State Fault Refusal :=
  finish (issue { hdrOf32 (.exit f) f with drain := true, rel := some scopeSys } (sysGate (8 * scopeSys) exitBody) s)
def execExitTwin (f : F64) (s : State) : Host.Outcome State Fault Refusal :=
  finish (issue { hdrOf (.exitTwin f) f with drain := true, rel := some scopeSys } (sysGate (8 * scopeSys) exitBody) s)

/-- `yield` leaves the ready set until the next formation (R36, R151). -/
def yieldBody (len : Nat) (s : State) (gl : List Nat) : Res :=
  let w := s.cur.warp
  .split ((s.advance w gl s.cur.pc len).enterAll w gl .formation) gl

def execYield (f : F32) (s : State) : Host.Outcome State Fault Refusal :=
  .next (issue (hdrOf32 (.yield f) f) (yieldBody 4) s)
def execYieldTwin (f : F64) (s : State) : Host.Outcome State Fault Refusal :=
  .next (issue (hdrOf (.yieldTwin f) f) (yieldBody 8) s)

/-! ### `trap` and `brk` (R177, R199): the frame's PC is the next instruction -/

def trapBody (bit code len : Nat) (s : State) (gl : List Nat) : Res :=
  let w := s.cur.warp
  let next := s.cur.pc + BitVec.ofNat 64 len
  let s := s.raise w (gl.map (fun l => { lane := l, bit := bit, code := code }))
  .split (s.onLanes w gl (fun _ t => { t with pc := next })) lanes32

/-- `brk` goes to the debugger while a hold-mode session is open on the owner (R177, R406). (DEDUCED, log 18) -/
def brkBody (code len : Nat) (s : State) (gl : List Nat) : Res :=
  let w := s.cur.warp
  if holdSession s (s.warp w).owner then
    let s := s.advance w gl s.cur.pc len
    .split (s.debugStop w 3) lanes32
  else trapBody causeBreak code len s gl

def execTrap (f : F32) (s : State) : Host.Outcome State Fault Refusal :=
  .next (issue (hdrOf32 (.trap f) f) (trapBody causeTrap (f.body.toNat % 2 ^ 16) 4) s)
def execTrapTwin (f : F64) (s : State) : Host.Outcome State Fault Refusal :=
  .next (issue (hdrOf (.trapTwin f) f) (trapBody causeTrap ((f.lit.getD 0).toNat % 2 ^ 16) 12) s)
def execBrk (f : F32) (s : State) : Host.Outcome State Fault Refusal :=
  .next (issue (hdrOf32 (.brk f) f) (brkBody (f.body.toNat % 2 ^ 16) 4) s)
def execBrkTwin (f : F64) (s : State) : Host.Outcome State Fault Refusal :=
  .next (issue (hdrOf (.brkTwin f) f) (brkBody ((f.lit.getD 0).toNat % 2 ^ 16) 12) s)

/-! ### `causeclr`, `tret`, `tabort` (R203) -/

def causeclrBody (m : State → Nat) (s : State) (_ : List Nat) : Res :=
  let k : BitVec 32 := BitVec.ofNat 32 (m s % 2 ^ 23)
  .next (s.setWarp s.cur.warp (fun x => { x with cause := x.cause &&& ~~~ k }))

def execCauseclrReg (f : F64) (s : State) : Host.Outcome State Fault Refusal :=
  .next (issue { hdrOf (.causeclrReg f) f with coll := true } (causeclrBody (fun s => (opnd s s.cur.warp 0 f.lit f.a.toNat).toNat)) s)
def execCauseclrLit (f : F64) (s : State) : Host.Outcome State Fault Refusal :=
  .next (issue { hdrOf (.causeclrLit f) f with coll := true } (causeclrBody (fun _ => (f.lit.getD 0).toNat)) s)
def execCauseclrImm (f : F64) (s : State) : Host.Outcome State Fault Refusal :=
  .next (issue { hdrOf (.causeclrImm f) f with coll := true } (causeclrBody (fun _ => f.c.toNat)) s)

/-- The threads of a warp before the first whose depth is below a frame's, and whether there is one. -/
def framed (s : State) (w : Nat) : List Nat → List Nat × Bool
  | [] => ([], false)
  | l :: r => if (s.thread w l).spd < 4 then ([], true) else let x := framed s w r; (l :: x.1, x.2)

/-- A thread resumes from its frame's words (R198, R201). (DEDUCED, log 74) -/
def resumeThread (t : Thread) (fr : List Nat) (tick : Nat) : Thread :=
  let w1 := fr.getD 1 0
  let wc := bitsOf w1 6 0
  { t with
    pc := BitVec.ofNat 64 (fr.getD 0 0), preds := BitVec.ofNat 7 (bitsOf w1 13 7), spd := t.spd - 4, wait := .ready,
    since := tick, urgent := false, raised := false, passed := false, wcode := wc,
    awaited := arrivalOf (wc == 1) false 0 (bitsOf w1 55 48),
    fired := if wc = 4 then true else t.fired }

def tretBody (s : State) (_ : List Nat) : Res :=
  let w := s.cur.warp
  let live := s.liveLanes w
  if !(s.warp w).inHandler then .trap (raiseAll causeIllegal live)
  else
    let fr := framed s w live
    let xs := fr.1.flatMap (fun l => (List.range 4).map (fun k => (l, spillAddr s w l ((s.thread w l).spd - 4 + k))))
    afterChecks (checkAccess s w .global .read 8 8 false xs) (fun s gs =>
      let s := gs.foldl (fun s g => s.drainLine (coreOf w) g.loc) s
      let words := gs.map (fun g => (g.lane, leNat (s.readLoc (s.warp w).owner g.loc 8).1))
      let frame := fun l => (words.filter (fun x => x.1 == l)).map (·.2)
      let pcs := fr.1.map (fun l => (l, BitVec.ofNat 64 ((frame l).getD 0 0)))
      match targetRaises pcs true with
      | r :: _ => .split ((s.orCause w r.bit).abortWarp w) lanes32
      | [] =>
        if fr.2 then .split ((s.orCause w causeStack).abortWarp w) lanes32
        else
          let fen := bitsOf ((frame (live.headD 0)).getD 2 0) 40 32
          let s := s.onLanes w live (fun l t => resumeThread t (frame l) s.tick)
          .split (s.setWarp w (fun x => { x with fen := BitVec.ofNat 9 fen, inHandler := false })) lanes32)

def execTret (f : F64) (s : State) : Host.Outcome State Fault Refusal :=
  finish (issue { hdrOf (.tret f) f with coll := true, mem := true } tretBody s)

/-- End the launch; in the supervisor warp ILLEGAL (R203). -/
def tabortBody (code : Nat) (s : State) (gl : List Nat) : Res :=
  let w := s.cur.warp
  if isSup w then .trap (raiseAll causeIllegal gl)
  else .next (s.endLaunch (s.launchOf w) statusAborted code (some (s.wg w).index))

def execTabort (f : F64) (s : State) : Host.Outcome State Fault Refusal :=
  .next (issue (hdrOf (.tabort f) f) (tabortBody f.c.toNat) s)

/-! ### System registers (R176) -/

/-- Handler charges of the launch so far; for the supervisor warp, of the invocation's owner (R363). (DEDUCED, log 13) -/
def chargesOf (s : State) (w : Nat) : Nat × Nat :=
  if s.launchOf w = 0 then
    let o := s.owners.get (s.warp w).owner
    (o.chargeCyc, o.chargeBytes)
  else ((s.launches.get (s.launchOf w)).hcyc, (s.launches.get (s.launchOf w)).hbytes)

/-- The value of a system register. -/
def readSr (s : State) (w lane sr : Nat) : Word :=
  let x := s.warp w
  let t := s.thread w lane
  match sr with
  | 0 => x.flags.zeroExtend 64
  | 1 => x.fen.zeroExtend 64
  | 2 => x.cause.zeroExtend 64
  | 3 => BitVec.ofNat 64 t.spd
  | 4 => x.spBase
  | 5 => BitVec.ofNat 64 x.spLen
  | 6 => BitVec.ofNat 64 (chargesOf s w).1
  | 7 => BitVec.ofNat 64 (chargesOf s w).2
  | 8 => BitVec.ofNat 64 (cyclesAt (dieOf w) s.tick)
  | 9 => BitVec.ofNat 64 (s.launches.get (s.launchOf w)).raceLoss
  | 10 => t.monitor
  | _ => 0

def execMfsr (f : F64) (s : State) : Host.Outcome State Fault Refusal :=
  .next (issueAlu (.mfsr f) f (fun s l => (readSr s s.cur.warp l f.c.toNat, 0)) s)

/-- Write FLAGS or FEN; the supervisor warp's FEN stays 0 (R342). -/
def mtsrBody (f : F64) (s : State) (_ : List Nat) : Res :=
  let w := s.cur.warp
  let x : BitVec 9 := (opnd s w 0 f.lit f.a.toNat).truncate 9
  .next (if f.c = 0 then s.setWarp w (fun y => { y with flags := x })
    else if isSup w then s else s.setWarp w (fun y => { y with fen := x }))

def execMtsr (f : F64) (s : State) : Host.Outcome State Fault Refusal :=
  .next (issue { hdrOf (.mtsr f) f with coll := true, drain := true } (mtsrBody f) s)

/-! ### `regq` (R44, R45) -/

/-- Take `n` of a quad's freed units from the workgroup's list, lowest first (R42). -/
def takeUnits (n quad : Nat) : List Nat → List Nat × List Nat
  | [] => ([], [])
  | u :: r =>
    match n with
    | 0 => ([], u :: r)
    | n' + 1 =>
      if u / 16 = quad then let x := takeUnits n' quad r; (u % 16 :: x.1, x.2)
      else let x := takeUnits n quad r; (x.1, u :: x.2)

/-- The registers of a warp from `lo` up to `hi` read zero. -/
def State.zeroRegs (s : State) (w lo hi : Nat) : State :=
  lanes32.foldl (fun s l => { s with vregs := s.vregs.fill (vkey w l lo) (hi - lo) 0 }) s

/-- `regq` (R44); ADDR of RANGELOCK on a B-hold register is 0, as no access is made. (DESIGN CHOICE, log 98) -/
def regqBody (d n : Nat) (s : State) (gl : List Nat) : Res :=
  let w := s.cur.warp
  let live := s.liveLanes w
  let g := s.wg w
  let q := quadOf w % 4
  let units := (s.warp w).units
  let quota := units.length
  let answer := fun (s : State) ok => Res.next (writePreds s w d (live.map (fun l => (l, ok))))
  if isSup w ∨ n < 1 ∨ 12 < n then .trap (raiseAll causeRegquota gl)
  else if quota < n then
    if g.free.getD q 0 < n - quota then answer s false
    else
      let t := takeUnits (n - quota) q g.freeUnits
      let s := s.setWg (s.warp w).vgid (fun g =>
        { g with free := g.free.set q (g.free.getD q 0 - (n - quota)), freeUnits := t.2 })
      let s := (s.setWarp w (fun x => { x with units := units ++ t.1 })).zeroRegs w (32 * quota) (32 * n)
      answer s true
  else if n < quota then
    if (List.range (32 * (quota - n))).any (fun i => bholdLocked s w (32 * n + i)) then .trap (raiseAll causeRangelock gl)
    else
      let given := (units.drop n).map (fun u => q * 16 + u)
      let s := s.setWg (s.warp w).vgid (fun g =>
        { g with free := g.free.set q (g.free.getD q 0 + (quota - n)), freeUnits := g.freeUnits ++ given })
      let s := (s.setWarp w (fun x => { x with units := units.take n })).zeroRegs w (32 * n) (32 * quota)
      answer s true
  else answer s true

def execRegqImm (f : F64) (s : State) : Host.Outcome State Fault Refusal :=
  .next (issue { hdrOf (.regqImm f) f with coll := true, drain := true } (regqBody (f.d.toNat % 8) f.c.toNat) s)
def execRegqReg (f : F64) (s : State) : Host.Outcome State Fault Refusal :=
  .next (issue { hdrOf (.regqReg f) f with coll := true, drain := true }
    (fun s gl => regqBody (f.d.toNat % 8) (s.w s.cur.warp (f.a.toNat - 384)).toNat s gl) s)

end Sys2Proof.Machine
end

