-- ==== Sys2Proof/Machine/Sync.lean ====
section
/-! DEFINITION. Flags and causes that reach a warp from outside its own instructions (R103, R196, R207), barrier entries and instructions (R17–R19, R166–R169), counter instructions (R170, R171), route literals
and `bsend` (R81–R83, R172–R174), and service requests (R175). -/

namespace Sys2Proof.Machine

/-! ### The issuing warp -/

/-- The warp id of an operation's issuer: the supervisor warp for VGID 0, and none while its workgroup is saved. -/
def issuerWarp (s : State) (core vgid ix : Nat) : Option Nat :=
  if vgid = 0 then some (supOf core) else (s.wgs.get vgid).warps[ix]?

/-- Change what is kept for a warp of a workgroup that is away, leaving or coming back: what arrives for it there joins its
record when it is restored (R207). -/
def State.setSaved (s : State) (vgid ix : Nat) (f : Warp → Warp) : State :=
  s.setWg vgid (fun g => { g with savedW := (g.savedW.zip (List.range g.savedW.length)).map (fun x =>
    if x.2 = ix then f x.1 else x.1) })

/-- Engine flags are set in the issuing warp and never trap (R103). -/
def State.engFlags (s : State) (core vgid ix : Nat) (fl : BitVec 9) : State :=
  if fl = 0 then s
  else
    let s := s.setSaved vgid ix (fun x => { x with flags := x.flags ||| fl })
    match issuerWarp s core vgid ix with
    | some w => s.orFlags w fl
    | none => s

/-- An engine, or the network, records an asynchronous cause in the issuing warp (R196); a saved warp takes it when
restored. -/
def State.engCause (s : State) (core vgid ix bit : Nat) : State :=
  let s := s.setSaved vgid ix (fun x => { x with cause := x.cause ||| (1#32 <<< bit) })
  match issuerWarp s core vgid ix with
  | some w => s.raiseAsync w bit
  | none =>
    let l := (s.wgs.get vgid).launch
    if l = 0 then s else s.setLaunch l (fun x => { x with causes := x.causes ||| (1#32 <<< bit) })

/-! ### Barrier entries (R17, R18) -/

def barMaxA : Nat := 2 ^ 12 - 1
def barMaxB : Nat := 2 ^ 32 - 1

/-- An entry as its 128-bit record. -/
def BarEntry.record (b : BarEntry) : Nat :=
  b.cntB + b.expB * 2 ^ 32 + b.cntA * 2 ^ 64 + b.expA * 2 ^ 76 + b.phase * 2 ^ 95 + b2n b.v * 2 ^ 103 + b.vgid * 2 ^ 104

/-- The entry that a record describes. -/
def barOfRecord (r : Nat) : BarEntry where
  vgid := bitsOf r 127 104
  v := bitOf r 103
  phase := bitsOf r 102 95
  expA := bitsOf r 87 76
  cntA := bitsOf r 75 64
  expB := bitsOf r 63 32
  cntB := bitsOf r 31 0

/-- How many phases complete at once: each takes EXPA arrivals and EXPB bytes (R18). An entry that expects neither, which
only a filled record can describe, completes none. (DESIGN CHOICE, log 88) -/
def phasesDue (b : BarEntry) : Nat :=
  if b.expA = 0 then (if b.expB = 0 then 0 else b.cntB / b.expB)
  else if b.expB = 0 then b.cntA / b.expA
  else min (b.cntA / b.expA) (b.cntB / b.expB)

/-- Complete every phase that is due (R18). -/
def BarEntry.settle (b : BarEntry) : BarEntry :=
  let k := phasesDue b
  { b with cntA := b.cntA - k * b.expA, cntB := b.cntB - k * b.expB, phase := (b.phase + k) % 256 }

/-- Bring arrivals and bytes; none when a count would pass its field (R18). -/
def BarEntry.bring (b : BarEntry) (a n : Nat) : Option BarEntry :=
  if barMaxA < b.cntA + a ∨ barMaxB < b.cntB + n then none
  else some ({ b with cntA := b.cntA + a, cntB := b.cntB + n }).settle

/-- The table key of a workgroup's e-th entry (R167). -/
def wgBarKey (g : Workgroup) (e : Nat) : Option Nat := (g.bars[e]?).map (fun n => g.barCore * 64 + n)

/-- Whether phases have completed between two contents of an entry to which arrivals and bytes were brought (R18). -/
def BarEntry.completed (b b' : BarEntry) (arr bytes : Nat) : Bool := b'.cntA != b.cntA + arr || b'.cntB != b.cntB + bytes

/-- The table key of the barrier of a workgroup's k-th set (R52, R169). (DEDUCED, log 75) -/
def setBarKey (s : State) (g : Workgroup) (k : Nat) : Option Nat :=
  match g.sets[k]? with
  | none => none
  | some v => ((s.sets.get v).entry).map (fun x => x.1 * 64 + x.2)

/-- The key that a thread's barrier wait stands on. -/
def waitKey (s : State) (w : Nat) (set : Bool) (e : Nat) : Option Nat :=
  if set then setBarKey s (s.wg w) e else wgBarKey (s.wg w) e

/-- A thread whose barrier wait a completion has satisfied (R18). -/
def Thread.pass (t : Thread) (tick : Nat) : Thread :=
  match t.wait with
  | .barrier set e ph => { t with wait := .ready, since := tick, urgent := false, passed := true,
                                  awaited := some { set := set, entry := e, phase := ph } }
  | _ => t

/-- Whether a thread waits on the entry with a table key. -/
def barWaiter (s : State) (w : Nat) (t : Thread) (key : Nat) : Bool :=
  match t.wait with
  | .barrier set e _ => waitKey s w set e == some key
  | _ => false

/-- A completion wakes every waiter on its entry (R18, R56). -/
def State.wakeBar (s : State) (key : Nat) : State :=
  { s with threads := s.threads.map (fun (e : Nat × Thread) =>
      if barWaiter s (e.1 / 32) e.2 key then (e.1, e.2.pass s.tick) else e) }

/-- An entry takes the contents that arrivals and bytes have brought it to; where phases have completed, its waiters wake
(R18). -/
def State.putBar (s : State) (key : Nat) (b' : BarEntry) (arr bytes : Nat) : State :=
  let t := { s with bars := s.bars.set key b' }
  if (s.bars.get key).completed b' arr bytes then t.wakeBar key else t

/-- Arrive in each lane, in increasing order: the entry after, each lane's phase before, lanes that overflow. -/
def arriveLanes (b : BarEntry) : List Nat → BarEntry × List (Nat × Nat) × List Nat
  | [] => (b, [], [])
  | l :: r =>
    match b.bring 1 0 with
    | none => let x := arriveLanes b r; (x.1, x.2.1, l :: x.2.2)
    | some b' => let x := arriveLanes b' r; (x.1, (l, b.phase) :: x.2.1, x.2.2)

/-- `bar.arrive` and `sbar.arrive` on an entry. -/
def arriveAt (set : Bool) (e key scope : Nat) (s : State) (gl : List Nat) : Res :=
  let w := s.cur.warp
  let r := arriveLanes (s.bars.get key) gl
  if r.2.2 ≠ [] then .trap (raiseAll causeEngine r.2.2)
  else
    let s := (s.release w scope).putBar key r.1 gl.length 0
    .next (r.2.1.foldl (fun s x => s.setThread w x.1 (fun t =>
      { t with arrival := some { set := set, entry := e, phase := x.2 } })) s)

/-- The phase that a wait stands on (R167): a withdrawn wait's, the arrival record's, or the phase now. (DEDUCED, log 74) -/
def waitPhase (t : Thread) (set : Bool) (e now : Nat) : Nat :=
  match t.awaited with
  | some a => a.phase
  | none =>
    match t.arrival with
    | some a => if a.set = set ∧ a.entry = e then a.phase else now
    | none => now

/-- `bar.wait` and `sbar.wait` on an entry: threads that a completion has satisfied, or whose phase has gone by, go on; the
satisfied wait is an acquire. (DEDUCED, log 74) -/
def waitAt (set : Bool) (e key scope : Nat) (s : State) (gl : List Nat) : Res :=
  let w := s.cur.warp
  let now := (s.bars.get key).phase
  let stays := fun l => !(s.thread w l).passed && waitPhase (s.thread w l) set e now == now
  let rest := gl.filter stays
  let done := gl.filter (fun l => !stays l)
  let s := if done = [] then s else s.acquireIn w scope done
  .split (s.onLanes w rest (fun _ t => { t with wait := .barrier set e (waitPhase t set e now) })) rest

/-- The checks of R167 on an entry index: BOUNDS, then BARSPILL for an entry that is not valid; ADDR is 0, as no access is made.
(DESIGN CHOICE, log 98) -/
def withEntry (s : State) (e : Nat) (gl : List Nat) (k : Nat → Res) : Res :=
  match wgBarKey (s.wg s.cur.warp) e with
  | none => .trap (raiseAll causeBounds gl)
  | some key => if (s.bars.get key).v then k key else .trap (raiseAll causeBarspill gl)

def barHdr (h : Hdr) : Hdr := { h with mem := true }

def execBarArrive (f : F32) (s : State) : Host.Outcome State Fault Refusal :=
  finish (issue { barHdr (hdrOf32 (.barArrive f) f) with rel := some scopeWg } (fun s gl =>
    withEntry s f.body.toNat gl (fun key => arriveAt false f.body.toNat key scopeWg s gl)) s)
def execBarArriveTwin (f : F64) (s : State) : Host.Outcome State Fault Refusal :=
  finish (issue { barHdr (hdrOf (.barArriveTwin f) f) with rel := some scopeWg } (fun s gl =>
    withEntry s f.c.toNat gl (fun key => arriveAt false f.c.toNat key scopeWg s gl)) s)
def execBarWait (f : F32) (s : State) : Host.Outcome State Fault Refusal :=
  finish (issue (barHdr (hdrOf32 (.barWait f) f)) (fun s gl =>
    withEntry s f.body.toNat gl (fun key => waitAt false f.body.toNat key scopeWg s gl)) s)
def execBarWaitTwin (f : F64) (s : State) : Host.Outcome State Fault Refusal :=
  finish (issue (barHdr (hdrOf (.barWaitTwin f) f)) (fun s gl =>
    withEntry s f.c.toNat gl (fun key => waitAt false f.c.toNat key scopeWg s gl)) s)

/-- ENGINE when `%setk` is zero or its set has no barrier (R169). -/
def withSet (s : State) (k : Nat) (gl : List Nat) (c : Nat → Res) : Res :=
  match setBarKey s (s.wg s.cur.warp) k with
  | none => .trap (raiseAll causeEngine gl)
  | some key => c key

def execSbarArrive (f : F64) (s : State) : Host.Outcome State Fault Refusal :=
  finish (issue { barHdr (hdrOf (.sbarArrive f) f) with rel := some scopePkg } (fun s gl =>
    withSet s f.c.toNat gl (fun key => arriveAt true f.c.toNat key scopePkg s gl)) s)
def execSbarWait (f : F64) (s : State) : Host.Outcome State Fault Refusal :=
  finish (issue (barHdr (hdrOf (.sbarWait f) f)) (fun s gl =>
    withSet s f.c.toNat gl (fun key => waitAt true f.c.toNat key scopePkg s gl)) s)

/-- Arm an entry with one lane's arm word; none when R167 traps (R166, R167). -/
def armEntry (b : BarEntry) (vgid x : Nat) : Option BarEntry :=
  if b.v ∧ (b.cntA ≠ 0 ∨ b.cntB ≠ 0) then none
  else if x % 2 ^ 20 ≠ 0 ∨ x / 2 ^ 20 = 0 then none
  else some { vgid := vgid, v := true, phase := b.phase, expA := bitsOf x 31 20, cntA := 0, expB := bitsOf x 63 32, cntB := 0 }

/-- Arm in each lane, in increasing order: the entry after, and the lanes that trap. -/
def armLanes (b : BarEntry) (vgid : Nat) : List (Nat × Nat) → BarEntry × List Nat
  | [] => (b, [])
  | x :: r =>
    match armEntry b vgid x.2 with
    | none => let y := armLanes b vgid r; (y.1, x.1 :: y.2)
    | some b' => armLanes b' vgid r

def barArmBody (f : F64) (s : State) (gl : List Nat) : Res :=
  let w := s.cur.warp
  match wgBarKey (s.wg w) f.c.toNat with
  | none => .trap (raiseAll causeBounds gl)
  | some key =>
    let r := armLanes (s.bars.get key) (s.warp w).vgid (gl.map (fun l => (l, (opnd s w l f.lit f.a.toNat).toNat)))
    if r.2 ≠ [] then .trap (raiseAll causeEngine r.2) else .next { s with bars := s.bars.set key r.1 }

def execBarArm (f : F64) (s : State) : Host.Outcome State Fault Refusal :=
  .next (issue (barHdr (hdrOf (.barArm f) f)) (barArmBody f) s)

/-- Credit in each lane: the entry after, and the lanes whose credit overflows. -/
def creditLanes (b : BarEntry) : List (Nat × Nat × Nat) → BarEntry × List Nat
  | [] => (b, [])
  | x :: r =>
    match b.bring x.2.1 x.2.2 with
    | none => let y := creditLanes b r; (y.1, x.1 :: y.2)
    | some b' => creditLanes b' r

def barCreditBody (f : F64) (s : State) (gl : List Nat) : Res :=
  let w := s.cur.warp
  withEntry s f.c.toNat gl (fun key =>
    let r := creditLanes (s.bars.get key) (gl.map (fun l =>
      (l, (opnd s w l f.lit f.a.toNat).toNat, (opnd s w l f.lit f.b.toNat).toNat)))
    if r.2 ≠ [] then .trap (raiseAll causeEngine r.2)
    else
      let arr := gl.foldl (fun n l => n + (opnd s w l f.lit f.a.toNat).toNat) 0
      let bytes := gl.foldl (fun n l => n + (opnd s w l f.lit f.b.toNat).toNat) 0
      .next ((s.release w scopeWg).putBar key r.1 arr bytes))

def execBarCredit (f : F64) (s : State) : Host.Outcome State Fault Refusal :=
  finish (issue { barHdr (hdrOf (.barCredit f) f) with rel := some scopeWg } (barCreditBody f) s)

def barQueryBody (f : F64) (s : State) (gl : List Nat) : Res :=
  let w := s.cur.warp
  match wgBarKey (s.wg w) f.c.toNat with
  | none => .trap (raiseAll causeBounds gl)
  | some key =>
    let r := (s.bars.get key).record
    let s := writeLanes s w f.d.toNat (gl.map (fun l => (l, BitVec.ofNat 64 r)))
    .next (writeLanes s w (f.d.toNat + 1) (gl.map (fun l => (l, BitVec.ofNat 64 (r / 2 ^ 64)))))

def execBarQuery (f : F64) (s : State) : Host.Outcome State Fault Refusal :=
  .next (issue (barHdr (hdrOf (.barQuery f) f)) (barQueryBody f) s)

/-- The lowest guard-true lane and its record address (R168). -/
def recordAt (s : State) (f : F64) (gl : List Nat) : List (Nat × Nat) :=
  gl.head?.toList.map (fun l => (l, (opnd s s.cur.warp l f.lit f.a.toNat).toNat))

def barSpillBody (f : F64) (s : State) (gl : List Nat) : Res :=
  let w := s.cur.warp
  match wgBarKey (s.wg w) f.c.toNat with
  | none => .trap (raiseAll causeBounds gl)
  | some key =>
    afterChecks (checkAccess s w .global .write 16 16 false (recordAt s f gl)) (fun s gs =>
      let b := s.bars.get key
      let s := gs.foldl (fun s g => performStore s w scopeWg
        { lane := g.lane, va := g.addr, loc := g.loc, data := BitVec.ofNat 64 b.record,
          data2 := BitVec.ofNat 64 (b.record / 2 ^ 64) } 16) s
      .next { s with bars := s.bars.set key { b with v := false } })

def execBarSpill (f : F64) (s : State) : Host.Outcome State Fault Refusal :=
  finish (issue { barHdr (hdrOf (.barSpill f) f) with coll := true } (barSpillBody f) s)

/-- VGIDs that a fill may install: the workgroup's and its sets' (R168). -/
def fillVgids (s : State) (w : Nat) : List Nat := (s.warp w).vgid :: (s.wg w).sets

def barFillBody (f : F64) (s : State) (gl : List Nat) : Res :=
  let w := s.cur.warp
  match wgBarKey (s.wg w) f.c.toNat with
  | none => .trap (raiseAll causeBounds gl)
  | some key =>
    afterChecks (checkAccess s w .global .read 16 16 false (recordAt s f gl)) (fun s gs =>
      match gs with
      | [] => .next s
      | g :: _ =>
        let r := readAt s w g.loc 16
        let b := barOfRecord (leNat r.1)
        if (s.bars.get key).v ∨ !b.v ∨ !(fillVgids s w).contains b.vgid then .trap (raiseAll causeEngine [g.lane])
        else .next ({ r.2 with bars := r.2.bars.set key b }.putBar key b.settle 0 0))

def execBarFill (f : F64) (s : State) : Host.Outcome State Fault Refusal :=
  finish (issue { barHdr (hdrOf (.barFill f) f) with coll := true } (barFillBody f) s)

/-! ### Counter instructions (R170, R171) -/

def cntAddrs (s : State) (f : F64) (gl : List Nat) : List (Nat × Nat) :=
  gl.map (fun l => (l, (opnd s s.cur.warp l f.lit f.a.toNat).toNat))

/-- `cnt.add` and `cnt.fail`: the work on each lane's counter. (DEDUCED, log 73) -/
def cntBody (f : F64) (wk : List LaneWork → Work) (s : State) (gl : List Nat) : Res :=
  let w := s.cur.warp
  let bs := gl.map (fun l => opnd s w l f.lit f.b.toNat)
  afterChecks (checkAccess s w .global .atomic 16 16 true (cntAddrs s f gl)) (fun s gs =>
    memWork s f gl f.c.toNat (wk ((gs.zip bs).map (fun x =>
      { lane := x.1.lane, va := x.1.addr, loc := x.1.loc, data := x.2, data2 := 0 }))))

def execCntAdd (f : F64) (s : State) : Host.Outcome State Fault Refusal :=
  finish (issue (memHdr (.cntAdd f) f f.c.toNat) (sysGate f.c.toNat (cntBody f (.cntAdd (ordScope f.c.toNat)))) s)
def execCntFail (f : F64) (s : State) : Host.Outcome State Fault Refusal :=
  finish (issue (memHdr (.cntFail f) f f.c.toNat) (sysGate f.c.toNat (cntBody f (.cntFail (ordScope f.c.toNat)))) s)

/-- One reading of a counter against a target: whether the wait is over, and whether it is satisfied (R16). -/
def counterTest (bs : List Byte) (target : Nat) : Bool × Bool :=
  let v := leNat (bs.take 8)
  let st := leNat (bs.drop 8) % 64
  (decide (target ≤ v) || st != 0, decide (target ≤ v) && st == 0)

/-- Read each lane's counter. -/
def counterReads (s : State) (w : Nat) (gs : List Got) (bs : List Word) : List (Nat × Nat × Nat × Bool × Bool) × State :=
  (gs.zip bs).foldl (fun r x =>
    let y := readAt r.2 w x.1.loc 16
    let t := counterTest y.1 x.2.toNat
    (r.1 ++ [(x.1.lane, x.1.addr, x.2.toNat, t.1, t.2)], y.2)) ([], s)

/-- `cnt.wait` (`waits`) and `cnt.poll`. A result that is true is an acquire at the scope. -/
def cntTestBody (f : F64) (waits : Bool) (s : State) (gl : List Nat) : Res :=
  let w := s.cur.warp
  let bs := gl.map (fun l => opnd s w l f.lit f.b.toNat)
  afterChecks (checkAccess s w .global .read 16 16 true (cntAddrs s f gl)) (fun s gs =>
    let r := counterReads s w gs bs
    let done := r.1.filter (fun x => x.2.2.2.1 || !waits)
    let rest := r.1.filter (fun x => !(x.2.2.2.1 || !waits))
    let s := writePreds r.2 w (f.d.toNat % 8) (done.map (fun x => (x.1, x.2.2.2.2)))
    let good := (done.filter (fun x => x.2.2.2.2)).map (·.1)
    let s := if good = [] then s else s.acquireIn w (ordScope f.c.toNat) good
    .split (rest.foldl (fun s x => s.enter w x.1 (.counter x.2.1 x.2.2.1)) s) (rest.map (·.1)))

def execCntWait (f : F64) (s : State) : Host.Outcome State Fault Refusal :=
  finish (issue (memHdr (.cntWait f) f 0) (cntTestBody f true) s)
def execCntPoll (f : F64) (s : State) : Host.Outcome State Fault Refusal :=
  finish (issue (memHdr (.cntPoll f) f 0) (cntTestBody f false) s)

/-! ### Routes (R81–R83) -/

/-- The heading after a turn code (R82). -/
def turnTo (head code : Nat) : Nat :=
  match code with
  | 1 => (head + 3) % 4
  | 2 => (head + 1) % 4
  | _ => head

/-- One hop on the 32 × 16 mesh; none when it leaves the mesh. -/
def hopTo (x y head : Nat) : Option (Nat × Nat) :=
  match head with
  | 0 => if y = 0 then none else some (x, y - 1)
  | 1 => if x = 31 then none else some (x + 1, y)
  | 2 => if y = 15 then none else some (x, y + 1)
  | _ => if x = 0 then none else some (x - 1, y)

/-- What a walk of a route comes to: the cores that receive a copy, in order, or the cause of R83. -/
inductive Walked
  | cores (cs : List Nat)
  | cause (bit : Nat)
deriving DecidableEq, Repr

/-- Walk `n` hops from a core of a die; `k` counts the hops already made. (DESIGN CHOICE, log 70) -/
def walkRoute (s : State) (die lit : Nat) : Nat → Nat → Nat → Nat → Nat → List Nat → Walked
  | 0, _, _, _, _, acc => .cores acc
  | n + 1, k, x, y, head, acc =>
    match hopTo x y head with
    | none => .cause causeBounds
    | some (x', y') =>
      let here := die * 512 + 32 * y + x
      let core := die * 512 + 32 * y' + x'
      let code := lit / 2 ^ (6 + 2 * k) % 4
      if (s.cores.get core).retired ∨ Config.linkRetired here core then .cause causeEngine
      else
        let acc := if n = 0 ∨ code = 3 then acc ++ [core] else acc
        walkRoute s die lit n (k + 1) x' y' (turnTo head code) acc

/-- Walk a route literal from a core. -/
def routeFrom (s : State) (core lit : Nat) : Walked :=
  walkRoute s (dieOfCore core) lit (lit / 4 % 16) 0 (core % 32) (core % 512 / 32) (lit % 4) []

/-! ### `bsend` (R172–R174) -/

/-- The first cause of R173 that a sending thread raises. -/
def bsendCause (s : State) (f : F64) (lane : Nat) : Option Nat :=
  let w := s.cur.warp
  let k := f.c.toNat % 4
  let set := setWord s (s.wg w) k
  let ctr := (opnd s w lane f.lit f.d.toNat).toNat
  if set = 0 ∨ !bitOf set 32 then some causeEngine
  else if (opnd s w lane f.lit f.a.toNat).toNat % 8 ≠ 0 ∨ (f.d ≠ 448 ∧ ctr % 16 ≠ 0) then some causeAlign
  else
    match routeFrom s (coreOf w) (f.lit.getD 0).toNat with
    | .cause b => some b
    | .cores _ => none

/-- The copies of one sending thread. -/
def bsendCopies (s : State) (f : F64) (lane : Nat) : List BsendCopy :=
  let w := s.cur.warp
  match routeFrom s (coreOf w) (f.lit.getD 0).toNat with
  | .cause _ => []
  | .cores cs => cs.map (fun c =>
      { id := 0, core := c, setV := ((s.wg w).sets).getD (f.c.toNat % 4) 0, vgid := (s.warp w).vgid,
        owner := (s.warp w).owner, offset := (opnd s w lane f.lit f.a.toNat).toNat,
        datum := opnd s w lane f.lit f.b.toNat, entry := if f.c.getLsbD 2 then some (f.c.toNat / 8) else none,
        warp := w, index := (s.warp w).index, ctr := (opnd s w lane f.lit f.d.toNat).toNat, ctrOn := decide (f.d ≠ 448), landed := none })

/-- Number copies and put them on their way. -/
def State.send (s : State) (cs : List BsendCopy) : State :=
  cs.foldl (fun s c => { s with bsends := s.bsends ++ [{ c with id := s.serial }], serial := s.serial + 1 }) s

/-- The causes of R173, then the copies leave; a slot clears once they have (R172). ADDR of a misaligned operand and of a
route that leaves the mesh is the bench offset. (DESIGN CHOICE, log 98) -/
def bsendBody (f : F64) (s : State) (gl : List Nat) : Res :=
  let w := s.cur.warp
  let rs := gl.filterMap (fun l => (bsendCause s f l).map (fun b =>
    ({ lane := l, bit := b, addr := if b = causeAlign ∨ b = causeBounds then (opnd s w l f.lit f.a.toNat).toNat else 0 } : Raise)))
  if rs ≠ [] then .trap rs
  else
    let s' := s.send (gl.flatMap (bsendCopies s f))
    if f.set = 0 then .next s' else .next (startMemory s' f gl 0 .slotOnly .bsend)

def execBsend (f : F64) (s : State) : Host.Outcome State Fault Refusal :=
  .next (issue (memHdr (.bsend f) f 0) (bsendBody f) s)

/-- The workgroup resident on a core that belongs to a set instance (R173). -/
def memberOn (s : State) (core setV : Nat) : Option Nat :=
  s.wgs.keys.find? (fun v =>
    let g := s.wgs.get v
    (g.phase == .resident || g.phase == .stopping) && g.core == core && g.sets.contains setV)

/-- Whether an engine operation holds a bench line locked (R21). -/
def benchLocked (s : State) (core key : Nat) : Bool :=
  s.locks.any (fun k => k.space == .bench core && decide (k.lo < key / 128 * 128 + 128) && decide (key / 128 * 128 < k.hi))

/-- Credit an entry by table key: none when it would overflow (R18). -/
def State.creditKey (s : State) (key arr bytes : Nat) : Option State :=
  ((s.bars.get key).bring arr bytes).map (fun b' => s.putBar key b' arr bytes)

/-- Credit the entry that a copy names; whether the credit was dropped. One that would pass its field raises ENGINE in the
sender's warp (R18, R19, R173). (DESIGN CHOICE, log 89) -/
def creditCopy (s : State) (c : BsendCopy) (g : Workgroup) (e : Nat) : State × Bool :=
  match wgBarKey g e with
  | none => (s, true)
  | some k =>
    if !(s.bars.get k).v then (s, true)
    else match s.creditKey k 0 8 with
      | some s' => (s', false)
      | none => (s.engCause (coreOf c.warp) c.vgid c.index causeEngine, false)

/-- Land one copy: the state after, whether its word was written, whether it or its credit was dropped, and further status
bits (R173). -/
def landCopy (s : State) (c : BsendCopy) : State × Bool × Bool × Nat :=
  match memberOn s c.core c.setV with
  | none => (s, false, true, 0)
  | some v =>
    let g := s.wgs.get v
    if g.benchLen < c.offset + 8 then (s, false, true, 2)
    else
      let place := Loc.bench (benchKey c.core (g.benchBase + c.offset))
      let s := s.perform c.owner c.vgid place (leBytes 8 c.datum.toNat)
      match c.entry with
      | none => (s, true, false, 0)
      | some e =>
        let r := creditCopy (s.closeLines c.vgid [place.granules 8]) c g e
        (r.1, true, r.2, 0)

/-- Replace a copy in flight. -/
def State.setCopy (s : State) (c : BsendCopy) : State :=
  { s with bsends := s.bsends.map (fun x => if x.id = c.id then c else x) }
def State.dropCopy (s : State) (id : Nat) : State := { s with bsends := s.bsends.filter (fun x => x.id != id) }

/-- A translation for an engine's update of a counter of the owner, as the core's engines translate (R341). -/
def counterXlate (s : State) (core owner vgid op va : Nat) : Xlate × State :=
  xlate s (coreReq core owner vgid 1 op .atomic) va

/-- The counter update of a landed copy: 8 for a word written, a drop for one that was dropped or whose credit was (R173). Where the
counter's translation is refused it is lost. (DESIGN CHOICE, log 92) -/
def settleCopy (s : State) (c : BsendCopy) (x : Bool × Bool × Nat) : State :=
  if !c.ctrOn then s.dropCopy c.id
  else
    match counterXlate s (coreOf c.warp) c.owner c.vgid c.id c.ctr with
    | (.ok l, s) =>
      let die := dieOfCore (coreOf c.warp)
      let s := if x.1 then s.engAdd die c.owner l 8 else s
      let s := if x.2.1 then s.engDrop die c.owner l x.2.2 else s
      s.dropCopy c.id
    | (.refused, s) => s.dropCopy c.id
    | (_, s) => s

/-- BSEND_DELIVERY: one copy reaches its core. A locked line holds the write back (R21). -/
def execBsendDelivery (id : Nat) (s : State) : Host.Outcome State Fault Refusal :=
  match s.bsends.find? (fun c => c.id == id) with
  | none => .next s
  | some c =>
    match c.landed with
    | some x => finish (settleCopy s c x)
    | none =>
      let waits := match memberOn s c.core c.setV with
        | some v => benchLocked s c.core (benchKey c.core ((s.wgs.get v).benchBase + c.offset))
        | none => false
      if waits then .next s
      else
        let r := landCopy s c
        let c := { c with landed := some r.2 }
        finish (settleCopy (r.1.setCopy c) c r.2)

/-! ### Credits by VGID (R19) -/

/-- The valid entry of a core with a VGID and number. -/
def creditTarget (s : State) (m : CreditMsg) : Option Nat :=
  let key := m.core * 64 + m.entry
  if (s.bars.get key).v ∧ (s.bars.get key).vgid = m.vgid then some key else none

/-! ### Service requests (R175) -/

/-- The 8 words of a mailbox record. -/
def svcWords (s : State) (f : F64) (lane : Nat) : List Word :=
  let w := s.cur.warp
  let x := s.warp w
  let w1 := x.index + f.set.toNat * 2 ^ 4 + f.d.toNat * 2 ^ 7 + (f.lit.getD 0).toNat % 2 ^ 16 * 2 ^ 16 +
    x.owner * 2 ^ 32 + x.vgid * 2 ^ 40
  [BitVec.ofNat 64 (lane * 2 ^ 59), BitVec.ofNat 64 w1, 0, 0, 0, s.cur.pc, opnd s w lane f.lit f.a.toNat,
   opnd s w lane f.lit f.b.toNat]

/-- Free places of a core's mailbox, lowest first. -/
def freeMail (s : State) (core : Nat) : List Nat :=
  (List.range 32).filter (fun i => ((s.cores.get core).mailbox.get i).isNone)

def svcBody (f : F64) (s : State) (gl : List Nat) : Res :=
  let w := s.cur.warp
  let core := coreOf w
  if (svcPc s (s.warp w).owner).isNone then .trap (raiseAll causeSvc gl)
  else
    let taken := gl.zip (freeMail s core)
    let rest := gl.drop taken.length
    let s' := if taken = [] then s else s.release w scopePkg
    let s' := taken.foldl (fun t x =>
      let r : SvcRec := { words := svcWords s f x.1, warp := w, lane := x.1, dest := f.d.toNat, slot := f.set.toNat,
                          vgid := (s.warp w).vgid, index := (s.warp w).index, order := t.serial, taken := false }
      let t := t.setCore core (fun c => { c with mailbox := c.mailbox.set x.2 (some r) })
      startPending t .engine f.set.toNat [x.1] 0 .slotOnly) s'
    .split (s'.enterAll w rest .resource) rest

def execSvc (f : F64) (s : State) : Host.Outcome State Fault Refusal :=
  finish (issue { hdrOf (.svc f) f with rel := some scopePkg } (svcBody f) s)

end Sys2Proof.Machine
end

