-- ==== Sys2Proof/Machine/Engine.lean ====
section
/-! DEFINITION. What the engines share: range locks and their release (R20–R22, R224), presence (R23, R25), reading and
writing with translation, R21's waits and the race check (R190), credits and counter updates (R15, R19, R27), and
flags and causes for the issuing warp (R103, R196). -/

namespace Sys2Proof.Machine

/-! ### Places of an engine's bytes -/

/-- An engine's address: owner virtual, device physical, or a bench or marver byte by its key. -/
inductive EP
  | glob (va : Nat)
  | phys (pa : Nat)
  | bench (key : Nat)
  | marver (key : Nat)
deriving DecidableEq, Repr, Inhabited

def EP.plus (p : EP) (n : Nat) : EP :=
  match p with
  | .glob a => .glob (a + n)
  | .phys a => .phys (a + n)
  | .bench k => .bench (k + n)
  | .marver k => .marver (k + n)

def EP.num : EP → Nat
  | .glob a => a
  | .phys a => a
  | .bench k => k
  | .marver k => k

/-- Bytes of a line of the place's space (R20). -/
def EP.lineSize : EP → Nat
  | .glob _ => 64
  | .phys _ => 64
  | .bench _ => 128
  | .marver _ => 128

def EP.space (owner : Nat) (p : EP) : LockSpace :=
  match p with
  | .glob _ => .global owner
  | .phys _ => .phys
  | .bench k => .bench (k / 2 ^ 23)
  | .marver k => .marver (k / 2 ^ 26)

/-! ### Locks (R20–R22) -/

/-- A lock on `n` bytes, rounded outward to lines. Bench locks are the core's own, which `die` 4 marks. -/
def mkLock (op rid die owner : Nat) (kind : LockKind) (p : EP) (n : Nat) : RLock :=
  let z := if kind = .counter then 16 else p.lineSize
  { op := op, rid := rid
    die := match p with
      | .bench _ => 4
      | _ => die
    owner := owner, space := p.space owner, kind := kind, lo := p.num / z * z, hi := (p.num + n + z - 1) / z * z }

/-- Range-lock entries of an owner in use on a die (R22): a range counts once, however much of it is left. -/
def entriesUsed (s : State) (die owner : Nat) : Nat :=
  ((s.locks.filter (fun k => k.die == die && k.owner == owner)).map (fun k => (k.op, k.rid))).eraseDups.length

/-- Whether new locks fit (R22). -/
def locksFit (s : State) (die owner : Nat) (ks : List RLock) : Bool :=
  decide (entriesUsed s die owner + (ks.filter (fun k => k.die == die)).length ≤ 256)

/-- Release part of a lock: what lies outside [lo, hi) stays. -/
def carve (lo hi : Nat) (k : RLock) : List RLock :=
  if k.hi ≤ lo ∨ hi ≤ k.lo then [k]
  else (if k.lo < lo then [{ k with hi := lo }] else []) ++ (if hi < k.hi then [{ k with lo := hi }] else [])

/-- Release a stretch of one of an operation's ranges. -/
def State.unlock (s : State) (op rid lo hi : Nat) : State :=
  { s with locks := s.locks.flatMap (fun k => if k.op = op ∧ k.rid = rid then carve lo hi k else [k]) }

/-- Release every lock of an operation; threads that wait for an entry may try again (R22). -/
def State.unlockAll (s : State) (op die : Nat) : State :=
  ({ s with locks := s.locks.filter (fun k => k.op != op) }).post (.engineResourceFreed die)

/-- Whether a line is locked for writing by a later operation, which has cleared its presence bit (R21, R23): an earlier one does not
wait for it. (DEDUCED, log 110) -/
def laterWrite (s : State) (op owner : Nat) (p : EP) (n : Nat) : Bool :=
  s.locks.any (fun k => decide (op < k.op) && k.space == p.space owner && k.kind == .write &&
    decide (k.lo < p.num + n) && decide (p.num < k.hi))

/-- Whether an earlier operation's lock holds an access back (R21). -/
def earlierLock (s : State) (op owner : Nat) (p : EP) (n : Nat) (writes : Bool) : Bool :=
  s.locks.any (fun k => decide (k.op < op) && k.space == p.space owner && (k.kind == .write || (writes && k.kind == .read)) &&
    decide (k.lo < p.num + n) && decide (p.num < k.hi))

/-! ### Presence (R23, R25) -/

/-- Clear or set the presence bits of the lines of `n` bytes; only bench and marver have them. -/
def State.setPresence (s : State) (p : EP) (n : Nat) (present : Bool) : State :=
  let lines := (List.range ((p.num + n + 127) / 128 - p.num / 128)).map (p.num / 128 + ·)
  match p with
  | .bench _ => { s with benchAbs := lines.foldl (fun (m : SMap Bool) (k : Nat) => m.set k (!present)) s.benchAbs }
  | .marver _ => { s with marvAbs := lines.foldl (fun (m : SMap Bool) (k : Nat) => m.set k (!present)) s.marvAbs }
  | _ => s

/-! ### Reading and writing -/

/-- What an engine's step comes to: it went on, it waits, or it fails with a status bit of R14, perhaps for a race. -/
inductive Eng (α : Type)
  | ok (s : State) (x : α)
  | wait (s : State)
  | fail (s : State) (bit : Nat) (race : Bool)

def Eng.bind {α β : Type} (e : Eng α) (k : State → α → Eng β) : Eng β :=
  match e with
  | .ok s x => k s x
  | .wait s => .wait s
  | .fail s b r => .fail s b r

/-- Status bits of R14, as masks. -/
def stRevoked : Nat := 1
def stFault : Nat := 2
def stCancelled : Nat := 4
/-- ECC: an uncorrectable error was met. -/
def stEcc : Nat := 32
def stDropped : Nat := 8
def stOverflow : Nat := 16

/-- Whether every byte of a range lies in one of the owner's frame ranges of tiers 0 and 1: the ranges that meet it are
followed upwards from its first byte (R223). -/
def inFrames (o : Owner) (r : Int × Int) : Bool :=
  let ks := o.ranges.filter (fun k => k.tier < 2)
  let reach := fun (at_ : Int) => (ks.filter (fun k => decide ((k.base : Int) ≤ at_))).foldl (fun m k => max m ((k.base : Int) + k.len)) at_
  decide (r.2 ≤ (List.range ks.length).foldl (fun at_ _ => reach at_) r.1)

/-- Where an engine's bytes lie. The request names owner, die and kind; `va` is only used for global places. A physical
address outside the owner's frames, which only a gathered row can name, is a fault (R220, R223). (DEDUCED, log 71) -/
def engLoc (s : State) (q : XReq) (p : EP) : Eng Loc :=
  match p with
  | .phys pa => if inFrames (s.owners.get q.owner) (pa, pa + 1) then .ok s (.dev pa) else .fail s stFault false
  | .bench k => .ok s (.bench k)
  | .marver k => .ok s (.marver k)
  | .glob va =>
    if 2 ^ 56 ≤ va then .fail s stFault false
    else
      match xlate s q va with
      | (.ok l, s') => .ok s' l
      | (.refused, s') => .fail s' stFault false
      | (_, s') => .wait s'

/-- The PASID and page of a host place (R369). -/
def Loc.hostPage (l : Loc) : List (Nat × Nat) :=
  match l with
  | .host _ p a _ => [(p, a / 4096)]
  | _ => []

/-- The granule of a global place, for REVOKED (R226). -/
def EP.granule : EP → List Nat
  | .glob va => [va / 2 ^ 16]
  | _ => []

/-- Change a transfer operation where it stands: on its channel, or with its workgroup while that is away. -/
def State.onOp (s : State) (op : Nat) (f : XferOp → XferOp) : State :=
  let g := fun (x : XferOp) => if x.op = op then f x else x
  { s with
    xfer := s.xfer.map (fun e => (e.1, e.2.map g))
    wgs := s.wgs.map (fun e => (e.1, { e.2 with savedX := e.2.savedX.map (fun x => (x.1, g x.2)) })) }
/-- Change a collective operation where it stands. -/
def State.onColl (s : State) (op : Nat) (f : CollOp → CollOp) : State :=
  { s with colls := s.colls.map (fun x => if x.op = op then f x else x) }

/-- Note what an operation has translated: the granule, and the host page behind it (R226, R369). -/
def State.noteUse (s : State) (op : Nat) (p : EP) (l : Loc) : State :=
  (s.onOp op (fun x => { x with used := (p.granule ++ x.used).eraseDups, pages := (l.hostPage ++ x.pages).eraseDups })).onColl op
    (fun x => { x with used := (p.granule ++ x.used).eraseDups, pages := (l.hostPage ++ x.pages).eraseDups })

/-- Note the lines that a transfer or a collective operation has opened (R189). -/
def State.noteWrote (s : State) (op : Nat) (ls : List Opened) : State :=
  (s.onOp op (fun x => { x with wrote := ls ++ x.wrote })).onColl op (fun x => { x with wrote := ls ++ x.wrote })

/-- Read `n` bytes for an operation, in one page and one line's size. The access follows the die's ordered path to the
line's home (R178). -/
def engRead (s : State) (q : XReq) (op : Nat) (p : EP) (n : Nat) : Eng (List Byte) :=
  if earlierLock s op q.owner p n false then .wait s
  else
    (engLoc s q p).bind (fun s l =>
      let s := (s.noteUse op p l).drainCross q.die l
      let r := s.readLoc q.owner l n
      match p, raceAt s q.vgid l n with
      | .phys _, _ => .ok r.2 r.1
      | _, some _ => .fail s stFault true
      | _, none => .ok r.2 r.1)

/-- Whether `n` bytes at a virtual address meet the ring of an armed landing zone of the owner (R298). -/
def meetsZone (s : State) (owner va n : Nat) : Bool :=
  (s.owners.get owner).zones.any (fun e => e.2.armed && decide (e.2.base < va + n) && decide (va < e.2.base + e.2.z))

/-- The same for an engine's place. -/
def EP.meetsZone (s : State) (owner : Nat) (p : EP) (n : Nat) : Bool :=
  match p with
  | .glob va => Sys2Proof.Machine.meetsZone s owner va n
  | _ => false

/-- Whether some run of bytes of a line, at its distance from the line's base, meets a condition. -/
def anyRun (runs : List (Nat × List Byte)) (c : Nat → Nat → Bool) : Bool := runs.any (fun r => c r.1 r.2.length)

/-- Write the runs of one line for an operation, all of them or none (R226); the granules open under its VGID, but not for
physical ranges (R229). The answer is what has been opened. -/
def engWrite (s : State) (q : XReq) (op : Nat) (p : EP) (runs : List (Nat × List Byte)) : Eng (List Opened) :=
  let first := ((runs.head?).map (·.1)).getD 0
  if anyRun runs (fun k n => (p.plus k).meetsZone s q.owner n) then .fail s stFault false
  else if anyRun runs (fun k n => earlierLock s op q.owner (p.plus k) n true) then .wait s
  else
    (engLoc s { q with acc := .write } (p.plus first)).bind (fun s l =>
      let at_ := fun k => l.plus (k - first)
      let s := (s.noteUse op (p.plus first) l).drainCross q.die l
      let phys := match p with
        | .phys _ => true
        | _ => false
      if !phys && anyRun runs (fun k n => (raceAt s q.vgid (at_ k) n).isSome) then .fail s stFault true
      else
        let vgid := if phys then 0 else q.vgid
        let ls := runs.map (fun r => let g := (at_ r.1).granules r.2.length; { g with mask := if phys then 0 else g.mask })
        let s := runs.foldl (fun s r => s.perform q.owner vgid (at_ r.1) r.2) s
        .ok (s.noteWrote op ls) ls)

/-- Whether a write of `engWrite` could be made now: it need not wait, and its place is translated. -/
def engProbe (s : State) (q : XReq) (op : Nat) (p : EP) (runs : List (Nat × List Byte)) : Eng Unit :=
  if anyRun runs (fun k n => (p.plus k).meetsZone s q.owner n) then .fail s stFault false
  else if anyRun runs (fun k n => earlierLock s op q.owner (p.plus k) n true) then .wait s
  else (engLoc s { q with acc := .write } (p.plus (((runs.head?).map (·.1)).getD 0))).bind (fun s _ => .ok s ())

/-- Whether lines that an operation has written lie in host memory. -/
def wroteHost (ls : List Opened) : Bool := ls.any (fun x => x.space == .phys && decide (2 ^ 60 ≤ x.line))

/-- Whether what a part or an operation has written can cross the link now, with its addition: a full parking buffer holds it back
(R404). -/
def showFits (s : State) (owner : Nat) (ls : List Opened) (l : Loc) : Bool :=
  (!wroteHost ls && l.hostPage == []) || parkFits s (dirtyOf s owner + 64)

/-- A part or an operation has written its bytes: they are visible at its scope, across the link too (R27, R180, R185). Its
addition or credit, where it makes one, closes the lines that it opened (R27, R189). -/
def State.showWrites (s : State) (owner : Nat) (ls : List Opened) : State := if wroteHost ls then s.flushHost owner else s

/-- Set status bits of an engine's counter (R15). (DEDUCED, log 73) -/
def engCounterStatus (s : State) (q : XReq) (va bits : Nat) : Eng Unit :=
  (engLoc s { q with acc := .atomic } (.glob va)).bind (fun s l =>
    .ok (((s.drainCross q.die l).counterStatus q.owner l bits).flushAt l) ())

/-! ### Credits -/

/-- The entry that an operation credits: its core, its number, its VGID (R52, R209). `sel` 0 names the workgroup's
entry, 1–4 a set's barrier. -/
def creditEntry (s : State) (vgid sel ix : Nat) : Option (Nat × Nat × Nat) :=
  let g := s.wgs.get vgid
  if sel = 0 then (g.bars[ix]?).map (fun n => (g.barCore, n, vgid))
  else
    match g.sets[sel - 1]? with
    | none => none
    | some v => ((s.sets.get v).entry).map (fun e => (e.1, e.2, v))

/-- What crediting comes to. A credit to an entry of another core has been sent in a message. -/
inductive Credited
  | done (s : State)
  | dropped (s : State)
  | sent (s : State) (id : Nat)
  | overflow

/-- Credit an entry for an operation. On the operation's own core it is credited at once; elsewhere the credit travels by
VGID, and the part waits for the answer (R52, R225). -/
def engCredit (s : State) (core owner vgid warp op sel ix arr bytes : Nat) : Credited :=
  match creditEntry s vgid sel ix with
  | none => .dropped s
  | some (c, n, v) =>
    let key := c * 64 + n
    if c = core then
      (if (s.bars.get key).v ∧ (s.bars.get key).vgid = v then
        match s.creditKey key arr bytes with
        | some s' => .done s'
        | none => .overflow
      else .dropped s)
    else
      let m : CreditMsg := { id := s.serial, vgid := v, src := vgid, core := c, entry := n, arr := arr, bytes := bytes,
                             owner := owner, warp := warp, op := op, result := none }
      .sent { s with credits := s.credits ++ [m], serial := s.serial + 1 } s.serial

/-- The answer to a credit that travels. -/
def creditAnswer (s : State) (id : Nat) : Option Nat := (s.credits.find? (fun m => m.id == id)).bind (·.result)

/-- Forget a credit message: its answer has been taken, or it is withdrawn. -/
def State.dropCredit (s : State) (id : Nat) : State := { s with credits := s.credits.filter (fun m => m.id != id) }

/-- Instructions that wait for engine operations to end (R231, R312): one of them has, and each that now waits for none is
complete. -/
def State.opEnded (s : State) (op : Nat) : State :=
  let out := fun (p : Pending) => { p with after := p.after.filter (fun n => n != op) }
  let done := s.pending.filter (fun p => p.after.contains op && (out p).after == [])
  done.foldl (fun s p => s.completePending p) { s with pending := s.pending.map out }

/-- Hold the lanes of an instruction until engine operations have ended; each then takes its value. Its completion is an
acquire at `.wg` (R231, R312). -/
def State.awaitOps (s : State) (w : Nat) (ops : List Nat) (vs : List (Nat × Nat × Word)) : State :=
  let lanes := vs.map (·.1)
  let p : Pending := { pid := s.serial, unit := .engine, warp := w, lanes := lanes, slot := 0, flags := 0, acq := some scopeWg,
                       work := .writeRegs vs, after := ops }
  if ops = [] then s.endWork p
  else ({ s with pending := s.pending ++ [p], serial := s.serial + 1 }).enterAll w lanes (.result p.pid)

/-! ### What waiting lanes have read (R218, R264, R306) -/

/-- What a lane keeps of a hand-off that it waits to have accepted. -/
def askedBy (s : State) (w lane : Nat) : Option Asked := s.asked.find? (fun a => a.warp == w && a.lane == lane)

/-- Keep what the waiting lanes of a warp have read; the others of it keep nothing more. -/
def State.keepAsked (s : State) (w : Nat) (xs : List Asked) (rest : List Nat) : State :=
  { s with asked := s.asked.filter (fun a => a.warp != w || !(xs.any (fun x => x.lane == a.lane))) ++
      xs.filter (fun x => rest.contains x.lane) }

/-- The lanes of a warp at the issuing instruction that meet a condition. -/
def lanesHere (s : State) (w : Nat) (c : Nat → Bool) : List Nat :=
  lanes32.filter (fun l => (s.thread w l).live && (s.thread w l).pc == s.cur.pc && c l)

/-- The lanes of a bundle that go on with a hand-off of which `old` still wait: in increasing order, up to the first before which
one outside the bundle waits; where none waits, all (R218, R264). -/
def inOrder (old gl : List Nat) : List Nat :=
  if old = [] then gl else (gl.filter old.contains).takeWhile (fun l => old.all (fun k => l ≤ k || gl.contains k))

/-- The lanes of a hand-off that still wait once some have been accepted. -/
def stillAsking (old gl done : List Nat) : List Nat := (if old = [] then gl else old).filter (fun l => !done.contains l)

/-- Lanes that still wait look again when others of their instruction have been accepted (R218). -/
def State.nudge (s : State) (w : Nat) (done rest : List Nat) : State :=
  if done = [] ∨ rest = [] then s else s.post (.engineResourceFreed (dieOf w))

/-- The lanes of the issuing instruction that have read theirs. -/
def askedLanes (s : State) (w : Nat) : List Nat := lanesHere s w (fun l => (askedBy s w l).isSome)

/-! ### Slots of hand-offs -/

/-- The pending instruction that lanes still to be accepted belong to. -/
def joinPid (s : State) (w slot : Nat) (gl : List Nat) : Option Pending :=
  s.pending.find? (fun p => p.warp == w && p.slot == slot && p.unit == .engine && p.more != [] && gl.all p.more.contains)

/-- Start or extend the pending instruction `pid` with the lanes accepted now; `rest` still wait. -/
def State.holdSlot (s : State) (w slot pid : Nat) (old : Option Pending) (done rest : List Nat) : State :=
  if slot = 0 then s
  else
    let s := s.onLanes w done (fun _ t => t.slotSet slot)
    match old with
    | some p => { s with pending := s.pending.map (fun q =>
        if q.pid = p.pid then { q with lanes := q.lanes ++ done, more := q.more.filter (fun l => !done.contains l) } else q) }
    | none =>
      let p : Pending := { pid := pid, unit := .engine, warp := w, lanes := done, slot := slot, flags := 0, acq := none,
                           work := .slotOnly, more := rest }
      { s with pending := s.pending ++ [p] }

/-- A hand-off's slot: it clears in every lane once the last has been accepted (R218, R310). -/
def State.handSlot (s : State) (w slot : Nat) (gl done rest : List Nat) : State :=
  let old := joinPid s w slot gl
  if slot = 0 ∨ (rest = [] ∧ old.isNone) ∨ (done = [] ∧ old.isNone) then s
  else
    let pid := (old.map (·.pid)).getD s.serial
    let s := (if old.isNone then { s with serial := s.serial + 1 } else s).holdSlot w slot pid old done rest
    match s.pending.find? (fun p => p.pid == pid && p.more == []) with
    | some p => s.completePending p
    | none => s

/-- Put back in the ready set every thread of an owner's warps on a die that waits for an engine resource (R22). -/
def State.wakeResources (s : State) (die : Nat) : State :=
  { s with threads := s.threads.map (fun e =>
      if dieOf (e.1 / 32) = die ∧ e.2.wait = .resource then
        (e.1, { e.2 with wait := .ready, since := s.tick, urgent := false }) else e) }

/-- ENGINE_RESOURCE_FREED (R22, R56): the waiting threads try again. (DEDUCED, log 7) -/
def execEngineResourceFreed (die : Nat) (s : State) : Host.Outcome State Fault Refusal := .next (s.wakeResources die)

/-- The lines that an engine operation's part has opened close: its credit reaches its entry (R27, R189). Those of a workgroup that is
away are in its record. -/
def State.closeOf (s : State) (op : Nat) : State :=
  let s := ((s.xfer.flatMap (·.2)).filter (fun x => x.op == op)).foldl (fun s x => s.closeLines x.vgid x.wrote) s
  let s := ((s.cores.flatMap (fun c => c.2.cube)).filter (fun x => x.op == op)).foldl (fun s x => s.closeLines x.vgid x.wrote) s
  let s := (s.colls.filter (fun x => x.op == op)).foldl (fun s x => s.closeLines x.vgid x.wrote) s
  s.wgs.keys.foldl (fun s v =>
    let g := s.wgs.get v
    let ws := ((g.savedX.map (·.2)).filter (fun x => x.op == op)).flatMap (·.wrote) ++
      (g.savedC.filter (fun x => x.op == op)).flatMap (·.wrote)
    if ws = [] then s else (s.closeLines v ws).setWg v (fun g => { g with savedO := closedBy v ws g.savedO })) s

/-- The answer to a credit is there. -/
def State.answerCredit (s : State) (id r : Nat) : State :=
  { s with credits := s.credits.map (fun m => if m.id = id then { m with result := some r } else m) }

/-- BARRIER_CREDIT_DELIVERY: an engine's credit reaches the entry's core (R19). One that meets no valid entry is dropped, and
one that would pass a field changes nothing (R18); the operation's part takes the answer (R225). -/
def execBarrierCreditDelivery (id : Nat) (s : State) : Host.Outcome State Fault Refusal :=
  match s.credits.find? (fun m => m.id == id && m.result.isNone) with
  | none => .next s
  | some m =>
    match creditTarget s m with
    | none => .next (s.answerCredit id 1)
    | some key =>
      match s.creditKey key m.arr m.bytes with
      | some s' => .next ((s'.closeOf m.op).answerCredit id 0)
      | none => .next (s.answerCredit id 2)

end Sys2Proof.Machine
end

