-- ==== Sys2Proof/Machine/Tags.lean ====
section
/-! DEFINITION. The tag plane and its formats (R98, R99, R104–R109): reading the elements of a 64-byte block as exact
values, and writing values in a destination format. A complex element is two components, real part first. -/

namespace Sys2Proof.Machine

/-- How the components of a format are coded. -/
inductive CompKind
  | flt (t : Fmt)
  | int (w : Nat)
  | t2
  | cb3
deriving DecidableEq, Repr

/-- A numeric format of R105: component coding, elements per block, complex, scaling. -/
structure TagFmt where
  kind    : CompKind
  ne      : Nat
  complex : Bool
  scales  : Bool
deriving DecidableEq, Repr

/-- The format of a code; none for raw and reserved codes. -/
def tagFmt (code : Nat) : Option TagFmt :=
  match code with
  | 0x01 => some { kind := .flt .f32, ne := 16, complex := false, scales := false }
  | 0x02 => some { kind := .flt .bf16, ne := 32, complex := false, scales := false }
  | 0x03 => some { kind := .flt .f16, ne := 32, complex := false, scales := false }
  | 0x04 => some { kind := .flt .e4m3, ne := 64, complex := false, scales := true }
  | 0x05 => some { kind := .flt .e5m2, ne := 64, complex := false, scales := true }
  | 0x08 => some { kind := .int 8, ne := 64, complex := false, scales := true }
  | 0x09 => some { kind := .int 4, ne := 128, complex := false, scales := true }
  | 0x0A => some { kind := .t2, ne := 256, complex := false, scales := true }
  | 0x0C => some { kind := .int 8, ne := 32, complex := true, scales := true }
  | 0x0D => some { kind := .int 4, ne := 64, complex := true, scales := true }
  | 0x10 => some { kind := .cb3, ne := 128, complex := false, scales := true }
  | _ => none

/-- Bits of one component as it is written; a CB3 entry is a BF16. -/
def CompKind.width : CompKind → Nat
  | .flt t => t.width
  | .int w => w
  | .t2 => 2
  | .cb3 => 16

/-- Components of a block. -/
def TagFmt.comps (f : TagFmt) : Nat := if f.complex then 2 * f.ne else f.ne

/-- Bits of one element as a destination format. -/
def TagFmt.elemBits (f : TagFmt) : Nat := if f.complex then 2 * f.kind.width else f.kind.width

/-- A component value: a floating-point code, or an integer. -/
inductive Comp
  | flt (t : Fmt) (code : Nat)
  | int (x : Int)
deriving DecidableEq, Repr

/-- Component `j` of a block, with FORMAT for a reserved T2 code (R98, R109). -/
def readComp (k : CompKind) (block : Nat) (j : Nat) : Comp × BitVec 9 :=
  match k with
  | .flt t => (.flt t (block / 2 ^ (t.width * j) % 2 ^ t.width), 0)
  | .int w => (.int (sextInt w (block / 2 ^ (w * j) % 2 ^ w)), 0)
  | .t2 => let v := t2Value (block / 2 ^ (2 * j) % 4); (.int v.1, v.2)
  | .cb3 =>
    let ix := block / 2 ^ (128 + 3 * j) % 8
    (.flt .bf16 (block / 2 ^ (16 * ix) % 2 ^ 16), 0)

/-- The exact value of a component under a power-of-two scale; NaNs keep their code apart. -/
def Comp.val (c : Comp) (shift : Int) : FNum :=
  let u := match c with
    | .flt t x => unpackF t x
    | .int x => intF x
  match u with
  | .fin n m e => .fin n m (e + shift)
  | x => x

/-- Whether a component is an infinity or a NaN. -/
def Comp.nonFinite (c : Comp) : Bool :=
  match c.val 0 with
  | .fin _ _ _ => false
  | _ => true

/-- Convert a component, scaled by 2^shift, to a destination format (R222): floats by R89–R95, integers by R100, T2 as
R145. -/
def Comp.put (c : Comp) (shift : Int) (dst : CompKind) (mode : RMode) : Nat × BitVec 9 :=
  match dst with
  | .flt t =>
    match c with
    | .flt t' x =>
      if isNanF t' x then (convNan t' t x, if isSnan t' x then flagInvalid else 0) else packF t mode (c.val shift)
    | .int _ => packF t mode (c.val shift)
  | .int w => toIntF true w mode (c.val shift)
  | .t2 => toT2F mode (c.val shift)
  | .cb3 => (0, 0)

/-! ### Tags (R104) -/

structure Tag where
  scale : Nat
  nf    : Bool
  z     : Bool
  fmt   : Nat
deriving DecidableEq, Repr, Inhabited

def tagOf (x : Nat) : Tag where
  scale := bitsOf x 15 8
  nf := bitOf x 7
  z := bitOf x 6
  fmt := x % 64

def Tag.code (t : Tag) : Nat := t.fmt + 2 ^ 6 * b2n t.z + 2 ^ 7 * b2n t.nf + 2 ^ 8 * t.scale

/-- The scale a reader uses: a format that does not scale reads 127, with FORMAT for any other (R105). -/
def tagScale (f : TagFmt) (t : Tag) : Nat × BitVec 9 :=
  if f.scales then (t.scale, 0) else if t.scale = 127 then (127, 0) else (127, flagFormat)

/-- A block read as numbers: its components, its scale exponent, and FORMAT where R98, R105–R107 raise it. -/
structure Block where
  comps : List Comp
  scale : Nat
  flags : BitVec 9
deriving DecidableEq, Repr

/-- A block of zeros with `n` components. -/
def zeroBlock (n : Nat) (fl : BitVec 9) : Block := { comps := List.replicate n (.int 0), scale := 127, flags := fl }

/-- Read a block by its tag (R106, R107). A Z block reads as +0 whatever bytes it holds. -/
def readBlock (f : TagFmt) (t : Tag) (bytes : List Byte) : Block :=
  if t.z then zeroBlock f.comps (tagScale f t).2
  else
    let x := leNat bytes
    let cs := (List.range f.comps).map (readComp f.kind x)
    let sc := tagScale f t
    let bad := !t.nf && cs.any (fun c => c.1.nonFinite)
    { comps := cs.map (·.1), scale := sc.1,
      flags := cs.foldl (fun fl c => fl ||| c.2) sc.2 ||| (if bad then flagFormat else 0) }

/-- The largest finite value of a component of a scaling format, as m × 2^e (R222). -/
def maxOf (k : CompKind) : Nat × Int :=
  match k with
  | .flt .e4m3 => (448, 0)
  | .flt .e5m2 => (57344, 0)
  | .int 8 => (127, 0)
  | .int 4 => (7, 0)
  | _ => (1, 0)

/-- Whether a × 2^ea ≤ b × 2^eb. -/
def magLe (a : Nat) (ea : Int) (b : Nat) (eb : Int) : Bool :=
  let e := min ea eb
  decide (a * 2 ^ (ea - e).toNat ≤ b * 2 ^ (eb - e).toNat)

/-- The least exponent in 1..254 that fits; 254 when none does (R222, R305). -/
def leastScale (ok : Nat → Bool) : Nat := ((List.range 254).map (· + 1)).find? ok |>.getD 254

/-- The scale of a destination block from its finite component values (R222). -/
def chooseScale (k : CompKind) (vals : List FNum) : Nat :=
  let mags := vals.filterMap (fun v => match v with
    | .fin _ m e => if m = 0 then none else some (m, e)
    | _ => none)
  if mags = [] then 127
  else leastScale (fun e => mags.all (fun x => magLe x.1 x.2 (maxOf k).1 ((maxOf k).2 + e - 127)))

/-- Whether a written component code is a zero of either sign, and whether it is an infinity or NaN (R107). -/
def codeZero (k : CompKind) (x : Nat) : Bool :=
  match k with
  | .flt t => x % t.signBit == 0
  | _ => x == 0
def codeNonFinite (k : CompKind) (x : Nat) : Bool :=
  match k with
  | .flt t => (match unpackF t x with
    | .fin _ _ _ => false
    | _ => true)
  | _ => false

end Sys2Proof.Machine
end

