-- ==== Sys2Proof/Machine/Transfer.lean ====
section
/-! DEFINITION. The transfer engine (R160, R215–R231): templates, geometry, refusals, locks and parts, conversion, the
hand-off `st.a`, `xquery` and `xcancel`, and the engine's own steps. -/

namespace Sys2Proof.Machine

/-! ### The template (R219) -/

/-- A number from 64-bit words, the first lowest. -/
def bigOf : List Word → Nat
  | [] => 0
  | w :: ws => w.toNat + 2 ^ 64 * bigOf ws

/-- A field of an operation's template. -/
def XferOp.f (x : XferOp) (hi lo : Nat) : Nat := bitsOf (bigOf x.tmpl) hi lo
def XferOp.b (x : XferOp) (i : Nat) : Bool := bitOf (bigOf x.tmpl) i

def XferOp.conv (x : XferOp) : Bool := x.b 23
def XferOp.gather (x : XferOp) : Bool := x.b 22
def XferOp.physical (x : XferOp) : Bool := x.b 21
def XferOp.transpose (x : XferOp) : Bool := x.b 25
def XferOp.cbl (x : XferOp) : Bool := x.b 26
def XferOp.conj (x : XferOp) : Bool := x.b 27
def XferOp.esz (x : XferOp) : Nat := 2 ^ x.f 20 18
def XferOp.sfmt (x : XferOp) : Nat := x.f 17 12
def XferOp.dfmt (x : XferOp) : Nat := x.f 36 31
def XferOp.ssp (x : XferOp) : Nat := x.f 121 120
def XferOp.dsp (x : XferOp) : Nat := x.f 185 184
def XferOp.sbaseT (x : XferOp) : Nat := x.f 119 64
def XferOp.dbaseT (x : XferOp) : Nat := x.f 183 128
def XferOp.sbase (x : XferOp) : Int := x.sbaseT + x.soff
def XferOp.dbase (x : XferOp) : Int := x.dbaseT + x.doff
def XferOp.ctr (x : XferOp) : Nat := x.f 823 768
def XferOp.cadd (x : XferOp) : Nat := x.f 991 960
def XferOp.aux (x : XferOp) : Nat := x.f 887 832
def XferOp.dtag (x : XferOp) : Nat := x.f 951 896
def XferOp.dtagen (x : XferOp) : Bool := x.b 46
def XferOp.scalem (x : XferOp) : Bool := x.b 45
def XferOp.dscale (x : XferOp) : Nat := x.f 44 37
def XferOp.rmode (x : XferOp) : RMode := .ofBits (x.f 30 29)
def XferOp.baren (x : XferOp) : Bool := x.b 56
def XferOp.barsel (x : XferOp) : Nat := x.f 55 53
def XferOp.baridx (x : XferOp) : Nat := x.f 52 47
def XferOp.pitch (x : XferOp) : Nat := x.f 1023 992
def XferOp.win (x : XferOp) (d : Nat) : Nat := x.f (655 + 16 * d) (640 + 16 * d)
def XferOp.stride (x : XferOp) (d : Nat) : Int := sextInt 56 (x.f (247 + 64 * d) (192 + 64 * d))
/-- Sampling interval; 0 reads as 1, and dimensions 3 to 6 have none (R220). -/
def XferOp.q (x : XferOp) (d : Nat) : Nat := if d ≤ 2 then Nat.max (x.f (255 + 64 * d) (248 + 64 * d)) 1 else 1
def XferOp.pad (x : XferOp) (k : Nat) : Nat := x.f (447 + 64 * k) (440 + 64 * k)  -- PL0, PH0, PL1, PH1

/-! ### Geometry (R220) -/

def ceilDiv (a b : Nat) : Nat := (a + b - 1) / b

def XferOp.n (x : XferOp) (d : Nat) : Nat := ceilDiv (x.win d) (x.q d)
/-- Padded extents e0–e6. -/
def XferOp.ext (x : XferOp) (d : Nat) : Nat :=
  match d with
  | 0 => x.pad 0 + x.n 0 + x.pad 1
  | 1 => x.pad 2 + x.n 1 + x.pad 3
  | d => x.n d
def XferOp.out (x : XferOp) (d : Nat) : Nat :=
  if x.transpose ∧ d < 2 then x.ext (1 - d) else x.ext d

/-- Bytes of a source element: ESZ, or a 64-byte block under CONV. -/
def XferOp.srcBytes (x : XferOp) : Nat := if x.conv then 64 else x.esz

/-- Bytes of one element of the output stream (R220, R222). -/
def XferOp.outBytes (x : XferOp) : Nat :=
  if !x.conv then x.esz
  else if x.dfmt = 0 then 64
  else
    match tagFmt x.sfmt, tagFmt x.dfmt with
    | some sf, some df => sf.ne * df.elemBits / 8
    | _, _ => 64

/-- Row length L, number of rows, stream length. -/
def XferOp.rowBytes (x : XferOp) : Nat := x.out 0 * x.outBytes
def XferOp.rows (x : XferOp) : Nat := x.out 1 * x.out 2 * x.out 3 * x.out 4 * x.out 5 * x.out 6
def XferOp.total (x : XferOp) : Nat := x.rowBytes * x.rows
def XferOp.rowPitch (x : XferOp) : Nat := if x.pitch = 0 then x.rowBytes else x.pitch

/-- Where byte `i` of the stream lands, counted from DBASE. -/
def XferOp.place (x : XferOp) (i : Nat) : Nat :=
  let r := i / x.rowBytes
  let b := i % x.rowBytes
  if x.cbl then (r / 16 * (x.rowBytes / 64) + b / 64) * 1024 + r % 16 * 64 + b % 64
  else r * x.rowPitch + b

/-- The byte of the stream that lands at an offset from DBASE, if one does. -/
def XferOp.streamAt (x : XferOp) (off : Nat) : Option Nat :=
  let rb := if x.cbl then
      let k := off / 1024
      (k / (x.rowBytes / 64) * 16 + off % 1024 / 64, k % (x.rowBytes / 64) * 64 + off % 64)
    else (off / x.rowPitch, off % x.rowPitch)
  if rb.1 < x.rows ∧ rb.2 < x.rowBytes then some (rb.1 * x.rowBytes + rb.2) else none

/-- The padded source position of output element `j`, and its source indices i0–i6 unless it is a PAD (R220). -/
def XferOp.position (x : XferOp) (j : Nat) : Option (List Nat) :=
  let o := (List.range 7).foldl (fun (acc : Nat × List Nat) d =>
    (acc.1 / x.out d, acc.2 ++ [acc.1 % x.out d])) (j, [])
  let o0 := o.2.getD 0 0
  let o1 := o.2.getD 1 0
  let p0 := if x.transpose then o1 else o0
  let p1 := if x.transpose then o0 else o1
  if p0 < x.pad 0 ∨ x.pad 0 + x.n 0 ≤ p0 ∨ p1 < x.pad 2 ∨ x.pad 2 + x.n 1 ≤ p1 then none
  else some ([(p0 - x.pad 0) * x.q 0, (p1 - x.pad 2) * x.q 1] ++
    ((List.range 5).map (fun k => o.2.getD (k + 2) 0 * x.q (k + 2))))

/-- The source address of source indices, with the gathered row in place of i1. -/
def XferOp.srcAddr (x : XferOp) (is : List Nat) (row : Nat) : Int :=
  x.sbase + (is.getD 0 0 : Nat) * x.stride 0 + (row : Nat) * x.stride 1 +
    ((List.range 5).map (fun k => ((is.getD (k + 2) 0 : Nat) : Int) * x.stride (k + 2))).foldl (· + ·) 0

/-- The source's bounding range for an operation that does not gather: lowest byte, and one past the highest. -/
def XferOp.srcRange (x : XferOp) : Int × Int :=
  let spans := (List.range 7).map (fun d => (((x.n d - 1) * x.q d : Nat) : Int) * x.stride d)
  (x.sbase + (spans.map (fun v => min v 0)).foldl (· + ·) 0,
   x.sbase + (spans.map (fun v => max v 0)).foldl (· + ·) 0 + x.srcBytes)

/-- Where the last byte of the stream lands, counted from DBASE. -/
def XferOp.lastOff (x : XferOp) : Nat := x.place (x.total - 1)
/-- The destination block, counted from DBASE_t, that a byte at an offset from DBASE lies in (R222). -/
def XferOp.blockOf (x : XferOp) (off : Nat) : Int := (x.doff + off) / 64
/-- Bytes from DBASE to the end of the destination's bounding range: the last byte of the stream, or under CONV the end of
the final destination block, which is written to its end (R222). -/
def XferOp.dstBytes (x : XferOp) : Nat :=
  if x.conv then ((x.blockOf x.lastOff + 1) * 64 - x.doff).toNat else x.lastOff + 1
def XferOp.dstRange (x : XferOp) : Int × Int := (x.dbase, x.dbase + x.dstBytes)

/-- Byte range of a tag plane for a range of its tensor (R104, R222). -/
def tagRange (base : Nat) (tensor : Nat) (r : Int × Int) : Int × Int :=
  (base + 2 * ((r.1 - tensor) / 64), base + 2 * ((r.2 - 1 - tensor) / 64) + 2)
def XferOp.stagRange (x : XferOp) : Int × Int := tagRange x.aux x.sbaseT x.srcRange
def XferOp.dtagRange (x : XferOp) : Int × Int := tagRange x.dtag x.dbaseT x.dstRange
def XferOp.indexRange (x : XferOp) : Int × Int := (x.aux, x.aux + 4 * ((x.n 1 - 1) * x.q 1 + 1 : Nat))

/-! ### What the engine refuses (R223) -/

/-- Reserved fields and values of the template, and of the data word. -/
def XferOp.reserved (x : XferOp) : Bool :=
  x.f 959 952 != 0 || x.f 895 888 != 0 || x.f 831 824 != 0 || x.f 191 186 != 0 || x.f 127 122 != 0 ||
  x.b 24 || x.f 11 0 != 0 || decide (4 < x.f 20 18) || x.dsp == 3 || x.ssp == 3 ||
  (!x.conv && !x.gather && x.aux != 0)

def rangesMeet (a b : Int × Int) : Bool := decide (a.1 < b.2) && decide (b.1 < a.2)

def dfmtOk (d : Nat) : Bool := [0, 1, 2, 3, 4, 5, 8, 9, 10, 12, 13].contains d
def fmtScales (d : Nat) : Bool := match tagFmt d with
  | some f => f.scales
  | none => false

/-- The conditions of ENGINE that the template alone decides. -/
def XferOp.malformed (x : XferOp) : Bool :=
  let pads := [0, 1, 2, 3].any (fun k => x.pad k != 0)
  let partlg := x.f 62 58
  !x.b 63 || x.reserved || (List.range 7).any (fun d => x.win d == 0) || (pads && x.conv) ||
  (1 ≤ partlg && partlg ≤ 5) || (partlg == 6 && x.dsp != 0) || decide (24 < partlg) ||
  (x.gather && (x.conv || x.ssp != 0)) || (x.transpose && x.conv) ||
  (x.cbl && (x.pitch != 0 || x.rowBytes % 64 != 0 || x.rows % 16 != 0)) ||
  (x.pitch != 0 && decide (x.pitch < x.rowBytes)) ||
  (!x.conv && (x.dfmt != 0 || x.scalem || x.dscale != 0 || x.f 30 29 != 0 || x.dtagen)) ||
  (!x.conv && !x.conj && x.sfmt != 0) ||
  (!x.conv && x.conj && ((x.sfmt != 0x0C && x.sfmt != 0x0D) || (x.sfmt == 0x0C && x.esz == 1))) ||
  (x.conv && x.f 20 18 != 0) || (x.conv && !dfmtOk x.dfmt) ||
  (x.conv && ((x.dfmt == 0 && x.sfmt != 0) || (x.dfmt != 0 && (tagFmt x.sfmt).isNone))) ||
  (x.conv && !fmtScales x.dfmt && (x.scalem || x.dscale != 127)) ||
  (x.scalem && !x.dtagen) || (x.dtagen && x.dsp != 0) || decide (2 ^ 36 < x.total)

/-- The conditions of ENGINE that depend on the issuer. -/
def XferOp.misused (s : State) (x : XferOp) : Bool :=
  let o := s.owners.get x.owner
  (x.baren && decide (5 ≤ x.barsel)) ||
  (x.baren && x.barsel != 0 && x.barsel < 5 && (creditEntry s x.vgid x.barsel 0).isNone) ||
  (x.baren && x.barsel != 0 && x.baridx != 0) ||
  (x.physical && (x.vgid != 0 || x.ssp != 0 || x.dsp != 0 || !inFrames o x.dstRange ||
    (!x.gather && !inFrames o x.srcRange) || (x.conv && x.aux != 0 && !inFrames o x.stagRange) ||
    (x.dtagen && !inFrames o x.dtagRange))) ||
  (!x.gather && x.ssp == x.dsp && rangesMeet x.srcRange x.dstRange)

def notMult (a : Int) (m : Nat) : Bool := a % (m : Int) != 0

/-- The conditions of ALIGN; a tagged tensor's base is that of the template (R104). -/
def XferOp.misaligned (x : XferOp) : Bool :=
  let m := if x.conv then 64 else x.esz
  notMult x.sbase m || notMult x.dbase m || (List.range 7).any (fun d => notMult (x.stride d) m) ||
  (!x.conv && x.pitch % x.esz != 0) || (x.cbl && notMult x.dbase 1024) || x.ctr % 16 != 0 ||
  (x.conv && (x.aux % 2 != 0 || (x.aux != 0 && x.sbaseT % 64 != 0))) || (x.gather && x.aux % 4 != 0) ||
  (x.dtagen && (x.dtag % 2 != 0 || x.dbaseT % 64 != 0))

/-- Whether a range leaves its space: bench and marver allotments, or [0, 2^56). -/
def leavesSpace (s : State) (x : XferOp) (sp : Nat) (r : Int × Int) : Bool :=
  let lim := match sp with
    | 0 => 2 ^ 56
    | 1 => (s.wgs.get x.vgid).benchLen
    | _ => (s.owners.get x.owner).marvBytes
  decide (r.1 < 0) || decide ((lim : Int) < r.2)

/-- The conditions of BOUNDS. -/
def XferOp.outOfBounds (s : State) (x : XferOp) : Bool :=
  (x.baren && x.barsel == 0 && decide ((s.wgs.get x.vgid).bars.length ≤ x.baridx)) ||
  leavesSpace s x x.dsp x.dstRange || (!x.gather && leavesSpace s x x.ssp x.srcRange) ||
  (x.gather && leavesSpace s x 0 x.indexRange) ||
  (x.conv && x.aux != 0 && (leavesSpace s x 0 x.stagRange || decide (x.srcRange.1 < x.sbaseT))) ||
  (x.dtagen && (leavesSpace s x 0 x.dtagRange || decide (x.dbase < x.dbaseT)))

/-- The first cause that refuses an operation (R218 step 2). -/
def XferOp.refusal (s : State) (x : XferOp) : Option Nat :=
  if x.malformed || x.misused s then some causeEngine
  else if x.misaligned then some causeAlign
  else if x.outOfBounds s then some causeBounds
  else none

/-! ### Places, locks and parts (R224, R225) -/

/-- An address of one of the operation's spaces on a core. (DESIGN CHOICE, log 106) -/
def XferOp.at_ (s : State) (x : XferOp) (core sp : Nat) (a : Nat) : EP :=
  match sp with
  | 0 => if x.physical then .phys a else .glob a
  | 1 => .bench (benchKey core ((s.wgs.get x.vgid).benchBase + a))
  | _ => .marver (marverKey (dieOfCore core) ((s.owners.get x.owner).marvBase.getD (dieOfCore core) 0 + a))

/-- An address of a tag plane: physical under PHYS, as every base of the template is; the index list and the counter are
named by virtual addresses (R219, R229). (DEDUCED, log 90) -/
def XferOp.tagAt (x : XferOp) (a : Nat) : EP := if x.physical then .phys a else .glob a

/-- The locks of an operation: destination 0, source 1, counter 2, index list 3, source tags 4, destination tags 5. (DEDUCED, log 90) -/
def XferOp.locks (s : State) (x : XferOp) (core : Nat) : List RLock :=
  let die := dieOfCore core
  let mk := fun rid kind (sp : Nat) (r : Int × Int) =>
    mkLock x.op rid die x.owner kind (x.at_ s core sp r.1.toNat) (r.2 - r.1).toNat
  [mk 0 .write x.dsp x.dstRange] ++
  (if x.gather then [] else [mk 1 .read x.ssp x.srcRange]) ++
  (if x.ctr = 0 then [] else [mkLock x.op 2 die x.owner .counter (.glob x.ctr) 16]) ++
  (if x.gather then [mkLock x.op 3 die x.owner .read (.glob x.aux) (x.indexRange.2 - x.indexRange.1).toNat] else []) ++
  (if x.conv ∧ x.aux ≠ 0 then
    [mkLock x.op 4 die x.owner .read (x.tagAt x.stagRange.1.toNat) (x.stagRange.2 - x.stagRange.1).toNat] else []) ++
  (if x.dtagen then
    [mkLock x.op 5 die x.owner .write (x.tagAt x.dtagRange.1.toNat) (x.dtagRange.2 - x.dtagRange.1).toNat] else [])

/-- Part size in stream bytes, and the number of parts. -/
def XferOp.partBytes (x : XferOp) : Nat := if x.f 62 58 = 0 then x.total else 2 ^ x.f 62 58
def XferOp.partCount (x : XferOp) : Nat := ceilDiv x.total x.partBytes

/-- The part that writes a byte of the stream. -/
def XferOp.partOf (x : XferOp) (i : Nat) : Nat := i / x.partBytes

/-- A destination line of the operation's space (R20), and the lines its bounding range meets, by number. -/
def XferOp.lineBytes (x : XferOp) : Nat := if x.dsp = 0 then 64 else 128
def XferOp.lines (x : XferOp) : List Nat :=
  let base := x.dbase.toNat
  let z := x.lineBytes
  (List.range ((base + x.dstBytes - 1) / z + 1 - base / z)).map (base / z + ·)

/-- The bytes of a destination block that the operation writes: offset from DBASE, and position in the stream unless it is
one of the bytes after the stream's last, which the final block receives as +0 (R222). -/
def XferOp.blockBytes (x : XferOp) (b : Int) : List (Nat × Option Nat) :=
  (List.range 64).filterMap (fun (k : Nat) =>
    let off : Int := 64 * b - x.doff + (k : Int)
    if off < 0 then none
    else match x.streamAt off.toNat with
      | some i => some (off.toNat, some i)
      | none => if b = x.blockOf x.lastOff ∧ (x.lastOff : Int) < off then some (off.toNat, none) else none)

/-- The stream bytes of a block, and the part that writes it: that of its last stream byte (R222). -/
def streamBytes (bs : List (Nat × Option Nat)) : List Nat := bs.filterMap (·.2)
def XferOp.blockPart (x : XferOp) (b : Int) : Nat := x.partOf ((streamBytes (x.blockBytes b)).foldl Nat.max 0)

/-- The blocks of a line that hold stream bytes. -/
def XferOp.lineBlocks (x : XferOp) (u : Nat) : List Int :=
  let lo : Int := (u * x.lineBytes : Nat) - x.dbaseT
  let hi := lo + (x.lineBytes : Int) - 1
  ((List.range (hi / 64 - lo / 64 + 1).toNat).map (fun (k : Nat) => lo / 64 + (k : Int))).filter (fun b => streamBytes (x.blockBytes b) != [])

/-- The bytes of a line that the operation writes: offset from the line's base, and position in the stream. -/
def XferOp.lineOffs (x : XferOp) (u : Nat) : List (Nat × Option Nat) :=
  let lo := u * x.lineBytes
  let base := x.dbase.toNat
  if x.conv then
    ((x.lineBlocks u).flatMap x.blockBytes).filterMap (fun b =>
      if lo ≤ base + b.1 ∧ base + b.1 < lo + x.lineBytes then some (base + b.1 - lo, b.2) else none)
  else (List.range x.lineBytes).filterMap (fun k =>
    if lo + k < base then none else (x.streamAt (lo + k - base)).map (fun i => (k, some i)))

/-- The part in which a line lands: the first that writes a byte of it. A line lands once, whole, so a line that parts share
comes with the first of them (R225, R226). (DEDUCED, log 91) -/
def XferOp.linePart (x : XferOp) (u : Nat) : Option Nat :=
  (if x.conv then (x.lineBlocks u).map x.blockPart
   else (x.lineOffs u).filterMap (fun b => b.2.map x.partOf)).min?

/-- The lines that land in a part. -/
def XferOp.partLines (x : XferOp) (k : Nat) : List Nat := x.lines.filter (fun u => x.linePart u == some k)

/-- The number of bytes that a part credits and adds: its own, or under CONV the stream bytes of the blocks it writes
(R222, R225). -/
def XferOp.partCredit (x : XferOp) (k : Nat) : Nat :=
  if x.conv then
    let first := x.blockOf 0
    let n := (x.blockOf x.lastOff - first + 1).toNat
    ((List.range n).map (fun (j : Nat) => streamBytes (x.blockBytes (first + (j : Int))))).foldl (fun c bs =>
      if bs ≠ [] ∧ x.partOf (bs.foldl Nat.max 0) = k then c + bs.length else c) 0
  else min x.partBytes (x.total - k * x.partBytes)

/-! ### Elements and conversion (R220–R222) -/

/-- The bytes of a PAD element. -/
def XferOp.padBytes (x : XferOp) : List Byte :=
  let v := x.f 767 752
  match x.esz with
  | 1 => leBytes 1 v
  | 2 => leBytes 2 v
  | n => (List.range (n / 4)).flatMap (fun _ => leBytes 4 (v * 2 ^ 16))

/-- Negate the imaginary part of one complex value of two `w`-bit parts (R99, R221). -/
def conjParts (sat : Bool) (w x : Nat) : Nat × BitVec 9 :=
  let im := sextInt w (x / 2 ^ w % 2 ^ w)
  if sat then
    let r := satInt true w (-im)
    (x % 2 ^ w + 2 ^ w * wrapInt w r.1, if r.2 then flagSat else 0)
  else (x % 2 ^ w + 2 ^ w * wrapInt w (-im), 0)

/-- Conjugate every complex value of a run of bytes. -/
def conjBytes (sat : Bool) (w : Nat) (bs : List Byte) : List Byte × BitVec 9 :=
  let n := 8 * bs.length / (2 * w)
  let x := leNat bs
  let rs := (List.range n).map (fun j => conjParts sat w (x / 2 ^ (2 * w * j) % 2 ^ (2 * w)))
  (leBytes bs.length (rs.foldr (fun r acc => r.1 + 2 ^ (2 * w) * acc) 0), rs.foldl (fun fl r => fl ||| r.2) 0)

/-- The request of the engine for an operation. -/
def XferOp.req (x : XferOp) (core : Nat) (a : Acc) : XReq := coreReq core x.owner x.vgid 1 x.op a

/-- Read an entry of the index list, or a tag. (DEDUCED, log 90) -/
def XferOp.readAux (s : State) (x : XferOp) (core : Nat) (p : EP) (n : Nat) : Eng Nat :=
  (engRead s (x.req core .read) x.op p n).bind (fun s bs => .ok s (leNat bs))

/-- The source address of output element `j`; none for a PAD. -/
def XferOp.elemAt (s : State) (x : XferOp) (core j : Nat) : Eng (Option Int) :=
  match x.position j with
  | none => .ok s none
  | some is =>
    if x.gather then
      (x.readAux s core (.glob (x.aux + 4 * is.getD 1 0)) 4).bind (fun s r =>
        .ok s (if r = 0xFFFFFFFF then none else some (x.srcAddr is r)))
    else .ok s (some (x.srcAddr is (is.getD 1 0)))

/-- The tag of a source block (R222). -/
def XferOp.srcTag (s : State) (x : XferOp) (core : Nat) (a : Int) : Eng Tag :=
  if !x.conv then .ok s default
  else if x.aux = 0 then .ok s { scale := 127, nf := true, z := false, fmt := x.sfmt }
  else (x.readAux s core (x.tagAt (x.aux + 2 * ((a - x.sbaseT) / 64)).toNat) 2).bind (fun s r => .ok s (tagOf r))

/-- What an element of the output stream comes from: its number, whether it is a PAD, its block's tag, its bytes. -/
structure Elem where
  ix    : Nat
  pad   : Bool
  tag   : Tag
  bytes : List Byte
deriving DecidableEq, Repr, Inhabited

/-- Read an element: a block's tag before the block (R108). -/
def XferOp.element (s : State) (x : XferOp) (core j : Nat) : Eng Elem :=
  (x.elemAt s core j).bind (fun s e =>
    match e with
    | none => .ok s { ix := j, pad := true, tag := default, bytes := x.padBytes }
    | some a =>
      if a < 0 ∨ 2 ^ 56 ≤ a then .fail s stFault false
      else
        (x.srcTag s core a).bind (fun s t =>
          (engRead s (x.req core .read) x.op (x.at_ s core x.ssp a.toNat) x.srcBytes).bind (fun s bs =>
            .ok s { ix := j, pad := false, tag := t, bytes := bs })))

/-- The numbers of a source block (R222). -/
def XferOp.srcBlock (x : XferOp) (t : Tag) (bytes : List Byte) : Block :=
  match tagFmt x.sfmt, tagFmt x.dfmt, tagFmt t.fmt with
  | some sf, some df, some tf =>
    if tf.ne ≠ sf.ne ∨ tf.complex ≠ df.complex then zeroBlock (if df.complex then 2 * sf.ne else sf.ne) flagFormat
    else readBlock tf t bytes
  | some sf, some df, none => zeroBlock (if df.complex then 2 * sf.ne else sf.ne) flagFormat
  | _, _, _ => zeroBlock 0 flagFormat

/-- The elements that stream positions come from, each read once. -/
def XferOp.sources (s : State) (x : XferOp) (core : Nat) : List Nat → Eng (List Elem)
  | [] => .ok s []
  | j :: r => (x.element s core j).bind (fun s e => (XferOp.sources s x core r).bind (fun s es => .ok s (e :: es)))

/-- One byte of the stream without conversion: its element's byte, conjugated when CONJ asks; pads are not (R221). -/
def XferOp.plainByte (x : XferOp) (srcs : List Elem) (i : Nat) : Byte × BitVec 9 :=
  match srcs.find? (fun e => e.ix == i / x.outBytes) with
  | none => (0, 0)
  | some e =>
    if x.conj ∧ !x.conv ∧ !e.pad then
      let r := conjBytes (x.b 28) (if x.sfmt = 0x0C then 8 else 4) e.bytes
      (r.1.getD (i % x.outBytes) 0, r.2)
    else (e.bytes.getD (i % x.outBytes) 0, 0)

/-- The components of a stream byte under conversion: block, component number, and the bit it starts at in the byte,
with the byte of it that is meant. -/
def XferOp.compsOf (x : XferOp) (df : TagFmt) (i : Nat) : List (Nat × Nat × Nat × Nat) :=
  let j := i / x.outBytes
  let k := i % x.outBytes
  let w := df.kind.width
  if 8 ≤ w then [(j, 8 * k / w, 0, k % (w / 8))]
  else (List.range (8 / w)).map (fun c => (j, 8 * k / w + c, w * c, 0))

/-- A component's destination code under the block's scale, conjugated in its imaginary part when CONJ asks. -/
def XferOp.compCode (x : XferOp) (df : TagFmt) (ed : Nat) (b : Block) (c : Nat) : Nat × BitVec 9 :=
  let shift := ((b.scale : Int) - 127) + (127 - (ed : Int))
  let r := (b.comps.getD c (.int 0)).put shift df.kind x.rmode
  if x.conj ∧ df.complex ∧ c % 2 = 1 then
    let w := df.kind.width
    let v := sextInt w r.1
    if x.b 28 then
      let t := satInt true w (-v)
      (wrapInt w t.1, r.2 ||| (if t.2 then flagSat else 0))
    else (wrapInt w (-v), r.2)
  else r

/-- A destination block: its bytes by offset from DBASE, its flags, its tag (R222). -/
def XferOp.convBlock (x : XferOp) (df : TagFmt) (blocks : List (Nat × Block)) (bytes : List (Nat × Option Nat)) :
    List (Nat × Byte) × BitVec 9 × Tag :=
  let blk := fun j => ((blocks.find? (fun e => e.1 == j)).map (·.2)).getD (zeroBlock 0 0)
  let comps := ((streamBytes bytes).flatMap (fun i => (x.compsOf df i).map (fun c => (c.1, c.2.1)))).eraseDups
  let vals := comps.map (fun c => ((blk c.1).comps.getD c.2 (.int 0)).val ((blk c.1).scale - 127))
  let ed := if x.scalem then chooseScale df.kind vals else x.dscale
  let codes := comps.map (fun c => (c, x.compCode df ed (blk c.1) c.2))
  let code := fun j c => ((codes.find? (fun e => e.1 == (j, c))).map (fun e => e.2.1)).getD 0
  let byteAt := fun (i : Nat) => BitVec.ofNat 8 ((x.compsOf df i).foldl (fun acc c =>
    acc + code c.1 c.2.1 / 2 ^ (8 * c.2.2.2) % 2 ^ (min 8 df.kind.width) * 2 ^ c.2.2.1) 0)
  let out := bytes.map (fun b => (b.1, match b.2 with
    | some i => byteAt i
    | none => (0 : Byte)))
  let js := comps.map (·.1)
  let fl := codes.foldl (fun fl e => fl ||| e.2.2) 0 |||
    ((blocks.filter (fun e => js.contains e.1)).map (·.2.flags)).foldl (· ||| ·) 0
  (out, fl, { scale := ed, fmt := x.dfmt, z := codes.all (fun e => codeZero df.kind e.2.1),
              nf := codes.any (fun e => codeNonFinite df.kind e.2.1) })

/-- A destination block's bytes by offset from DBASE, its flags and its tag: copied with its tag when DFMT is 0 (R222); of two source
blocks, the tag is that of the block that its last byte comes from. (DESIGN CHOICE, log 108) -/
def XferOp.blockData (x : XferOp) (srcs : List Elem) (bytes : List (Nat × Option Nat)) : List (Nat × Byte) × BitVec 9 × Tag :=
  match tagFmt x.dfmt with
  | some df => x.convBlock df (srcs.map (fun e => (e.ix, x.srcBlock e.tag e.bytes))) bytes
  | none =>
    let last := ((streamBytes bytes).getLast?).bind (fun i => srcs.find? (fun e => e.ix == i / x.outBytes))
    (bytes.map (fun b => (b.1, match b.2 with
      | some i => (x.plainByte srcs i).1
      | none => (0 : Byte))), 0, (last.map (·.tag)).getD default)

/-- What a line receives: bytes by offset from the line's base, flags, and the tags of its blocks. -/
def XferOp.lineData (x : XferOp) (srcs : List Elem) (u : Nat) : List (Nat × Byte) × BitVec 9 × List (Int × Tag) :=
  if x.conv then
    let bs := (x.lineBlocks u).map (fun b => (b, x.blockData srcs (x.blockBytes b)))
    let at_ := fun (off : Nat) => x.dbase.toNat + off
    let lo := u * x.lineBytes
    ((bs.flatMap (fun b => b.2.1)).filterMap (fun y =>
        if lo ≤ at_ y.1 ∧ at_ y.1 < lo + x.lineBytes then some (at_ y.1 - lo, y.2) else none),
      bs.foldl (fun fl b => fl ||| b.2.2.1) 0, bs.map (fun b => (b.1, b.2.2.2)))
  else
    let rs := (x.lineOffs u).filterMap (fun b => b.2.map (fun i => (b.1, x.plainByte srcs i)))
    (rs.map (fun r => (r.1, r.2.1)), rs.foldl (fun fl r => fl ||| r.2.2) 0, [])

/-- The elements that a line's data are made of. -/
def XferOp.lineElems (x : XferOp) (u : Nat) : List Nat :=
  ((if x.conv then streamBytes ((x.lineBlocks u).flatMap x.blockBytes) else streamBytes (x.lineOffs u)).map (· / x.outBytes)).eraseDups

/-- Consecutive bytes written together. -/
def runsOf : List (Nat × Byte) → List (Nat × List Byte)
  | [] => []
  | (k, b) :: r =>
    match runsOf r with
    | (k', bs) :: rest => if k' = k + 1 then (k, b :: bs) :: rest else (k, [b]) :: (k', bs) :: rest
    | [] => [(k, [b])]

/-! ### Steps of the engine (R215, R225, R226) -/

def chanKey (core chan : Nat) : Nat := core * 16 + chan

/-- Replace the running operation of a channel. -/
def State.setRun (s : State) (core chan : Nat) (x : XferOp) : State :=
  { s with xfer := s.xfer.update (chanKey core chan) (fun q => q.map (fun y => if y.op = x.op then x else y)) }

/-- The running operation of a channel: the oldest. -/
def running (s : State) (core chan : Nat) : Option XferOp := (s.xfer.get (chanKey core chan)).head?

/-- Write the tags of destination blocks, each at its place in the plane (R222). -/
def XferOp.writeTags (s : State) (x : XferOp) (core : Nat) : List (Int × Tag) → Eng Unit
  | [] => .ok s ()
  | (b, t) :: r =>
    if !x.dtagen then .ok s ()
    else
      (engWrite s (x.req core .write) x.op (x.tagAt (x.dtag + 2 * b).toNat) [(0, leBytes 2 t.code)]).bind (fun s _ =>
        XferOp.writeTags s x core r)

/-- Land one line of the running part: its bytes in one write, its tags, its flags; then it is present (R23, R226). -/
def XferOp.landLine (s : State) (x : XferOp) (core u : Nat) : Eng Unit :=
  (x.sources s core (x.lineElems u)).bind (fun s srcs =>
    let d := x.lineData srcs u
    let p := x.at_ s core x.dsp (u * x.lineBytes)
    (engWrite s (x.req core .write) x.op p (runsOf d.1)).bind (fun s _ =>
      (x.writeTags s core d.2.2).bind (fun s _ =>
        .ok ((s.engFlags core x.vgid x.warp d.2.1).setPresence p 1 true) ())))

/-- The lines of an operation that have still to land. -/
def XferOp.toLand (x : XferOp) : List Nat :=
  (x.partLines x.parts).drop x.landed ++ (x.lines.filter (fun u => match x.linePart u with
    | some k => decide (x.parts < k)
    | none => false))

/-- The lines that an operation still holds absent become present, and its locks go (R25, R226). -/
def XferOp.giveUp (s : State) (x : XferOp) (core : Nat) : State :=
  (x.toLand.foldl (fun s u => s.setPresence (x.at_ s core x.dsp (u * x.lineBytes)) 1 true) s).unlockAll x.op (dieOfCore core)

/-- A part fails: its status, and the causes to record (R226). A credit of it that still travels is withdrawn. -/
def XferOp.fail (s : State) (x : XferOp) (core chan bit : Nat) (race : Bool) : State :=
  let s := (x.giveUp s core).dropCredit ((x.sent.map (·.1)).getD 0)
  s.setRun core chan { x with sent := none, refused := false, ended := some (bit, race, x.baren && bit != stCancelled) }

/-- The operation leaves its channel, and a thread may take the place (R160, R215). -/
def State.endRun (s : State) (core chan op : Nat) : State :=
  let s := { s with xfer := s.xfer.update (chanKey core chan) (fun q => q.filter (fun y => y.op != op)) }
  ((s.dropReqs (· == .engine op)).post (.engineResourceFreed (dieOfCore core))).opEnded op

/-- Finish a failed operation: the status bit, then its causes (R226). It waits for the counter's translation; where that is
refused the status cannot be set, and the operation ends. (DESIGN CHOICE, log 92) -/
def XferOp.settle (s : State) (x : XferOp) (core chan bit : Nat) (race engine : Bool) : State :=
  let fin := fun (s : State) =>
    let s := if race then s.engCause core x.vgid x.warp causeMemrace else s
    let s := if engine then s.engCause core x.vgid x.warp causeEngine else s
    s.endRun core chan x.op
  if x.ctr = 0 ∨ x.refused then fin s
  else
    match engCounterStatus s (x.req core .atomic) x.ctr bit with
    | .ok s _ => fin s
    | .fail s _ _ => fin s
    | .wait s => s

/-- Whether an owner is frozen on a die (R365). -/
def isFrozen (s : State) (owner die : Nat) : Bool := (s.owners.get owner).frozen.contains die

/-- The running part takes a step: the next of its lines lands. -/
def XferOp.step (s : State) (x : XferOp) (core chan : Nat) : State :=
  match (x.partLines x.parts)[x.landed]? with
  | none => s
  | some u =>
    match x.landLine s core u with
    | .wait s' => s'
    | .fail s' bit race => match running s' core chan with
      | some y => y.fail s' core chan bit race
      | none => s'
    | .ok s' _ => s'.onOp x.op (fun y => { y with landed := y.landed + 1 })

/-- TRANSFER_LINE_LANDED: the next line of the running part lands (R23, R222). -/
def execTransferLineLanded (core chan : Nat) (s : State) : Host.Outcome State Fault Refusal :=
  match running s core chan with
  | none => .next s
  | some x =>
    match x.ended with
    | some (bit, race, engine) => finish (x.settle s core chan bit race engine)
    | none =>
      if x.refused then .next (x.fail s core chan stFault false)
      else if x.paused ∨ (x.landed = 0 ∧ isFrozen s x.owner (dieOfCore core)) then .next s
      else finish (x.step s core chan)

/-- The source lines that lines of later parts are made of, by number in their space. -/
def XferOp.laterSources (s : State) (x : XferOp) (core : Nat) : List Nat :=
  let later := x.lines.filter (fun u => match x.linePart u with
    | some k => decide (x.parts < k)
    | none => false)
  let js := (later.flatMap x.lineElems).eraseDups
  (js.flatMap (fun j => match x.position j with
    | none => []
    | some is =>
      let p := x.at_ s core x.ssp (x.srcAddr is (is.getD 1 0)).toNat
      [p.num / p.lineSize, (p.num + x.srcBytes - 1) / p.lineSize])).eraseDups

/-- Of one of an operation's ranges, keep only the lines listed. -/
def State.keepLines (s : State) (op rid z : Nat) (ls : List Nat) : State :=
  { s with locks := s.locks.flatMap (fun k =>
      if k.op = op ∧ k.rid = rid then
        (ls.filter (fun l => decide (k.lo ≤ l * z) && decide (l * z + z ≤ k.hi))).map (fun l => { k with lo := l * z, hi := l * z + z })
      else [k]) }

/-- Release a part's share of the locks (R224): the destination lines that have landed in it, and every source line that no
later part reads. -/
def XferOp.releaseShare (s : State) (x : XferOp) (core : Nat) : State :=
  let s := (x.partLines x.parts).foldl (fun s u =>
    let k := (x.at_ s core x.dsp (u * x.lineBytes)).num
    s.unlock x.op 0 k (k + x.lineBytes)) s
  if x.gather then s else s.keepLines x.op 1 (x.at_ s core x.ssp 0).lineSize (x.laterSources s core)

/-- The counter addition of a completed part (R225). -/
def XferOp.amount (x : XferOp) : Nat :=
  if x.ctr = 0 then 0 else if x.cadd = 0 then x.partCredit x.parts else if x.parts + 1 = x.partCount then x.cadd else 0

/-- The running part is complete: a dropped credit is counted at the counter (R19), the addition is made, and the next part or
the end follows (R225). The addition closes what the operation has opened since the last one, or since a credit (R27, R189). -/
def XferOp.finishPart (s : State) (x : XferOp) (core chan : Nat) (l : Loc) (dropped : Bool) : State :=
  let die := dieOfCore core
  let s := if dropped ∧ x.ctr ≠ 0 then s.engDrop die x.owner l 0 else s
  let s := if x.amount = 0 then s else (s.closeLines x.vgid x.wrote).engAdd die x.owner l x.amount
  if x.parts + 1 = x.partCount then s.endRun core chan x.op
  else
    let wrote := if x.amount = 0 then x.wrote else []
    s.setRun core chan { x with parts := x.parts + 1, landed := 0, used := [], pages := [], wrote := wrote, sent := none }

/-- Every line of the running part has landed: its share is released, its writes are shown, and its barrier is credited;
without a credit on its way the addition follows (R27, R225). While the credit travels, the part has translated its counter's
page (R226). -/
def XferOp.completePart (s : State) (x : XferOp) (core chan : Nat) (l : Loc) : State :=
  let final := x.parts + 1 == x.partCount
  let n := x.partCredit x.parts
  let arr := b2n (final && x.b 57)
  let s1 := (if final then s.unlockAll x.op (dieOfCore core) else x.releaseShare s core).showWrites x.owner x.wrote
  if !x.baren || (n == 0 && arr == 0) then x.finishPart s1 core chan l false
  else
    match engCredit s1 core x.owner x.vgid x.warp x.op x.barsel x.baridx arr n with
    | .overflow => x.fail s core chan stFault false
    | .dropped t => x.finishPart t core chan l true
    | .done t => XferOp.finishPart (t.closeLines x.vgid x.wrote) { x with wrote := [] } core chan l false
    | .sent t id => t.setRun core chan { x with
        sent := some (id, l), used := (if x.ctr = 0 then x.used else x.ctr / 2 ^ 16 :: x.used), pages := l.hostPage ++ x.pages }

/-- The answer to the credit of the running part has come (R19, R225). -/
def XferOp.takeAnswer (s : State) (x : XferOp) (core chan : Nat) (r : Nat × Loc) : State :=
  match creditAnswer s r.1 with
  | none => s
  | some 0 => XferOp.finishPart (s.dropCredit r.1) { x with wrote := [] } core chan r.2 false
  | some 1 => x.finishPart (s.dropCredit r.1) core chan r.2 true
  | some _ => x.fail s core chan stFault false

/-- TRANSFER_PART_COMPLETE: every line of the running part has landed (R225). Share released, credit, addition. -/
def execTransferPartComplete (core chan : Nat) (s : State) : Host.Outcome State Fault Refusal :=
  match running s core chan with
  | none => .next s
  | some x =>
    if x.ended.isSome then .next s
    else
      match x.sent with
      | some r => if showFits s x.owner [] r.2 then finish (x.takeAnswer s core chan r) else .next s
      | none =>
        if x.paused ∨ x.landed < (x.partLines x.parts).length then .next s
        else
          -- the counter must be reachable before the part is made complete
          match (if x.ctr = 0 then Eng.ok s (Loc.bench 0) else engLoc s (x.req core .atomic) (.glob x.ctr)) with
          | .wait s' => .next s'
          | .fail s' bit race => .next (x.fail s' core chan bit race)
          | .ok s' l => if showFits s' x.owner x.wrote l then finish (x.completePart s' core chan l) else .next s'

/-- A part whose credit has been answered is complete, and what comes after it fails (R225, R226). -/
def State.takeCredit (s : State) (core chan : Nat) (x : XferOp) : State :=
  match x.sent with
  | some r => match creditAnswer s r.1 with
    | some 0 | some 1 => x.takeAnswer s core chan r
    | _ => s
  | none => s

/-- Fail an operation of a channel: a part that is complete but for its addition is completed first (R226). -/
def State.failOp (s : State) (core chan : Nat) (x : XferOp) (bit : Nat) : State :=
  let s := s.takeCredit core chan x
  match (s.xfer.get (chanKey core chan)).find? (fun y => y.op == x.op && y.ended.isNone) with
  | some y => y.fail s core chan bit false
  | none => s

/-- TRANSFER_OP_FAIL: the running part and all later ones fail with a status bit of R14 (R226). (DEDUCED, log 67) -/
def execTransferOpFail (core chan bit : Nat) (s : State) : Host.Outcome State Fault Refusal :=
  match running s core chan with
  | none => .next s
  | some x => if x.ended.isSome then .next s else finish (s.failOp core chan x (2 ^ (bit % 6)))

/-- Cancel the operations of a channel that a condition names (R226, R231). One that has not begun ends as the running
one does. -/
def State.cancelChan (s : State) (core chan : Nat) (c : XferOp → Bool) : State :=
  (s.xfer.get (chanKey core chan)).foldl (fun s x =>
    if c x ∧ x.ended.isNone then s.failOp core chan x stCancelled else s) s

/-! ### The hand-off (R160, R216, R218) -/

/-- Read the template that a data word names (R217, R219). -/
def readTemplate (s : State) (owner table data : Nat) : List Word :=
  (List.range 16).map (fun k => BitVec.ofNat 64 (resWord s owner (table + 128 * (data % 4096) + 8 * k)))

/-- The engine's read of a template follows what its die's path holds for the template's lines (R178, R217). -/
def State.drainTemplate (s : State) (die owner table data : Nat) : State :=
  (cut64 3 (table + 128 * (data % 4096)) 128).foldl (fun s p => match resAddr s owner p.1 with
    | some pa => s.drainCross die (.dev pa)
    | none => s) s

/-- The operation that one lane hands over: its template, and OFF as ADJ selects (R216). -/
def handOff (s : State) (w : Nat) (tmpl : List Word) (data : Nat) : XferOp :=
  let x := s.warp w
  let off := sextInt 32 (data / 2 ^ 32)
  { op := s.serial, vgid := x.vgid, owner := x.owner, warp := x.index, tmplIx := data % 4096, tmpl := tmpl,
    soff := if bitOf data 14 then off else 0, doff := if bitOf data 15 then off else 0,
    parts := 0, landed := 0, used := [], pages := [], wrote := [], sent := none, paused := false, refused := false, ended := none }

/-- The cause of one lane's hand-off (R160, R218): BOUNDS for the channel, then the engine's checks. -/
def handOffCause (s : State) (w chan data : Nat) : Option Nat :=
  if 16 ≤ chan then some causeBounds
  else if data / 2 ^ 16 % 2 ^ 16 ≠ 0 ∨ data / 2 ^ 12 % 4 ≠ 0 then some causeEngine
  else
    match templateTable s (s.warp w).owner with
    | none => some causeEngine
    | some t => (handOff s w (readTemplate s (s.warp w).owner t data) data).refusal s

/-- Operations that a channel holds, with those that workgroups being restored to the core will put back in it (R215, R228). -/
def chanLoad (s : State) (core chan : Nat) : Nat :=
  (s.xfer.get (chanKey core chan)).length +
  ((s.wgs.filter (fun e => e.2.phase == .restoring && e.2.core == core)).flatMap (fun e =>
    e.2.savedX.filter (fun x => x.1 == chan && x.2.ended.isNone))).length

/-- Accept one operation: a place, its locks, its absent lines; none while there is no place or no entry (R218). -/
def accept (s : State) (w : Nat) (a : Asked) (data : Nat) : Option State :=
  let core := coreOf w
  let x := handOff s w a.words data
  let ks := x.locks s core
  if 4 ≤ chanLoad s core a.chan ∨ !locksFit s (dieOfCore core) x.owner ks then none
  else
    let s := { s with serial := s.serial + 1, locks := s.locks ++ ks,
                      xfer := s.xfer.update (chanKey core a.chan) (fun q => q ++ [x]) }
    some (x.toLand.foldl (fun s u => s.setPresence (x.at_ s core x.dsp (u * x.lineBytes)) 1 false) (chargeAccess s w x.total))

/-- Accept lanes in increasing order until one must wait: the state and the lanes that wait. -/
def acceptLanes (s : State) (w : Nat) : List (Asked × Nat) → State × List Nat
  | [] => (s, [])
  | x :: r =>
    match accept s w x.1 x.2 with
    | none => (s, (x :: r).map (·.1.lane))
    | some s' => acceptLanes s' w r

/-- `st.a`: the templates are read and checked for every lane before any is accepted, and a lane that waits keeps what it has
read (R218). ADDR of its causes is 0, as the thread makes no access. (DESIGN CHOICE, log 98) -/
def stABody (f : F64) (s : State) (gl : List Nat) : Res :=
  let w := s.cur.warp
  let old := askedLanes s w
  let ls := inOrder old gl
  let xs := ls.map (fun l => (l, memAddr s w f l, (opnd s w l f.lit f.b.toNat).toNat))
  let owner := (s.warp w).owner
  let table := (templateTable s owner).getD 0
  let s := xs.foldl (fun s x => s.drainTemplate (dieOf w) owner table x.2.2) (s.release w scopeDie)
  let rs := xs.filterMap (fun x => if (askedBy s w x.1).isSome then none
    else (handOffCause s w x.2.1 x.2.2).map (fun b => ({ lane := x.1, bit := b } : Raise)))
  if rs ≠ [] then .trap rs
  else
    let asks := xs.map (fun x => ((askedBy s w x.1).getD
      { warp := w, lane := x.1, chan := x.2.1, words := readTemplate s owner table x.2.2 }, x.2.2))
    let r := acceptLanes s w asks
    let done := ls.filter (fun l => !r.2.contains l)
    let rest := stillAsking old ls done
    let s := ((r.1.handSlot w f.set.toNat ls done rest).keepAsked w (asks.map (·.1)) r.2).nudge w done rest
    .split (s.enterAll w (gl.filter rest.contains) .resource) (gl.filter (fun l => !done.contains l))

def execStA (f : F64) (s : State) : Host.Outcome State Fault Refusal :=
  finish (issue { memHdr (.stA f) f 0 with rel := some scopeDie } (stABody f) s)

/-! ### `xquery` and `xcancel` (R230, R231) -/

/-- Whether an operation is the issuing warp's own (R231). -/
def isMine (s : State) (w : Nat) (vgid owner : Nat) : Bool :=
  if isSup w then owner == (s.warp w).owner else vgid == (s.warp w).vgid

/-- The status word of a channel (R231). -/
def xqueryWord (s : State) (w chan : Nat) : Nat :=
  let q := s.xfer.get (chanKey (coreOf w) chan)
  let mine := q.filter (fun x => isMine s w x.vgid x.owner)
  let run := match q.head? with
    | some x => if isMine s w x.vgid x.owner then some x else none
    | none => none
  (4 - q.length) * 2 ^ 52 + b2n run.isSome * 2 ^ 51 + mine.length * 2 ^ 48 +
    ((run.map (fun x => x.tmplIx)).getD 0) * 2 ^ 32 + ((run.map (fun x => x.parts)).getD 0) % 2 ^ 32

def xqueryBody (f : F64) (chan : State → Nat → Nat) (s : State) (gl : List Nat) : Res :=
  let w := s.cur.warp
  let bad := gl.filter (fun l => decide (16 ≤ chan s l))
  if bad ≠ [] then .trap (raiseAll causeBounds bad)
  else .next (writeLanes s w f.d.toNat (gl.map (fun l => (l, BitVec.ofNat 64 (xqueryWord s w (chan s l))))))

def regChan (f : F64) (s : State) (l : Nat) : Nat := (opnd s s.cur.warp l f.lit f.a.toNat).toNat

def execXqueryReg (f : F64) (s : State) : Host.Outcome State Fault Refusal :=
  .next (issue (hdrOf (.xqueryReg f) f) (xqueryBody f (regChan f)) s)
def execXqueryImm (f : F64) (s : State) : Host.Outcome State Fault Refusal :=
  .next (issue (hdrOf (.xqueryImm f) f) (xqueryBody f (fun _ _ => f.c.toNat)) s)

/-- Finish an operation of a channel that has ended early, as far as its counter's translation lets it. -/
def State.settleEnded (s : State) (core chan op : Nat) : State :=
  match (s.xfer.get (chanKey core chan)).find? (fun x => x.op == op) with
  | some x => match x.ended with
    | some (bit, race, eng) => x.settle s core chan bit race eng
    | none => s
  | none => s

/-- Each lane ends its channel's operations as cancelled and takes the number that had not ended; the thread issues nothing
further until all have ended, and that end is an acquire (R231). -/
def xcancelBody (f : F64) (chan : State → Nat → Nat) (s : State) (gl : List Nat) : Res :=
  let w := s.cur.warp
  let core := coreOf w
  let bad := gl.filter (fun l => decide (16 ≤ chan s l))
  if bad ≠ [] then .trap (raiseAll causeBounds bad)
  else
    let mine := fun (t : State) (c : Nat) => (t.xfer.get (chanKey core c)).filter (fun x => isMine t w x.vgid x.owner)
    let r := gl.foldl (fun (r : State × List (Nat × Nat × Word)) l =>
      let c := chan s l
      let ops := mine r.1 c
      let t := r.1.cancelChan core c (fun x => ops.any (fun y => y.op == x.op))
      (ops.foldl (fun t x => t.settleEnded core c x.op) t, r.2 ++ [(l, f.d.toNat, BitVec.ofNat 64 ops.length)]))
      (s.release w scopeWg, [])
    let left := ((gl.map (chan s)).eraseDups.flatMap (mine r.1)).map (·.op)
    if left = [] then .next (r.1.awaitOps w [] r.2)
    else .split ((r.1.advance w gl s.cur.pc (if f.lit.isSome then 12 else 8)).awaitOps w left r.2) gl

def execXcancelReg (f : F64) (s : State) : Host.Outcome State Fault Refusal :=
  finish (issue { hdrOf (.xcancelReg f) f with rel := some scopeWg } (xcancelBody f (regChan f)) s)
def execXcancelImm (f : F64) (s : State) : Host.Outcome State Fault Refusal :=
  finish (issue { hdrOf (.xcancelImm f) f with rel := some scopeWg } (xcancelBody f (fun _ _ => f.c.toNat)) s)

end Sys2Proof.Machine
end

