-- ==== Sys2Proof/Machine/Cube.lean ====
section
/-! DEFINITION. The cube array (R237–R277): the parameter block and its checks, acceptance, one pass with its rounding,
checking and replay, the write-out, completion and failure, and the accumulator and B-hold instructions. -/

namespace Sys2Proof.Machine

/-! ### The parameter block (R258, R259, R262) -/

def CubeOp.f (x : CubeOp) (hi lo : Nat) : Nat := bitsOf (bigOf x.block) hi lo
def CubeOp.b (x : CubeOp) (i : Nat) : Bool := bitOf (bigOf x.block) i

def CubeOp.isOut (x : CubeOp) : Bool := x.f 63 60 == 1
def CubeOp.gate (x : CubeOp) : Nat := x.f 55 53
def CubeOp.rk (x : CubeOp) : Nat := if x.gate = 4 then 2 ^ (x.f 52 51 + 1) else 1
def CubeOp.conj (x : CubeOp) : Bool := x.b 50
def CubeOp.sat (x : CubeOp) : Bool := x.b 49
def CubeOp.init (x : CubeOp) : Bool := x.b 48
def CubeOp.mt (x : CubeOp) : Nat := x.f 47 42 + 1
def CubeOp.nt (x : CubeOp) : Nat := x.f 41 38 + 1
def CubeOp.kc (x : CubeOp) : Nat := x.f 37 26
def CubeOp.abase (x : CubeOp) : Nat := x.f 81 64
def CubeOp.accoff (x : CubeOp) : Nat := x.f 110 96
def CubeOp.gbase (x : CubeOp) : Nat := x.f 145 128
def CubeOp.bw (x : CubeOp) (i : Nat) : Nat := x.f (163 + 4 * i) (160 + 4 * i)
def CubeOp.breg (x : CubeOp) : Nat := x.f 191 183
def CubeOp.atag (x : CubeOp) : Nat := x.f 247 192
def CubeOp.btag (x : CubeOp) : Nat := x.f 311 256
def CubeOp.gtag (x : CubeOp) : Nat := x.f 375 320
def CubeOp.baren (x : CubeOp) : Bool := x.b 399
def CubeOp.barsel (x : CubeOp) : Nat := x.f 398 396
def CubeOp.baridx (x : CubeOp) : Nat := x.f 395 390
def CubeOp.cra (x : CubeOp) : Nat := x.f 415 404
def CubeOp.crb (x : CubeOp) : Nat := x.f 447 416
-- the write-out block
def CubeOp.dbase (x : CubeOp) : Nat := x.f 183 128
def CubeOp.dtag (x : CubeOp) : Nat := x.f 311 256
def CubeOp.dfmt (x : CubeOp) : Nat := x.f 37 32
def CubeOp.rmode (x : CubeOp) : RMode := .ofBits (x.f 31 30)
def CubeOp.scalem (x : CubeOp) : Bool := x.b 29
def CubeOp.dtagen (x : CubeOp) : Bool := x.b 28
def CubeOp.cbl (x : CubeOp) : Bool := x.b 27
def CubeOp.dsp (x : CubeOp) : Nat := x.f 26 25
def CubeOp.dscale (x : CubeOp) : Nat := x.f 24 17

/-- The accumulator of a mode (R240). -/
inductive AccKind | f32 | i32 | ci32
deriving DecidableEq, Repr

/-- A row of R241: element bits and accepted formats of A, B, a real gate and a GKN or GKR gate. -/
structure CubeMode where
  abits  : Nat
  bbits  : Nat
  gbits  : Nat
  gnbits : Nat
  afmts  : List Nat
  bfmts  : List Nat
  gfmts  : List Nat
  gnfmts : List Nat
  acc    : AccKind
  scaled : Bool
deriving DecidableEq, Repr

def cubeMode (code : Nat) : Option CubeMode :=
  match code with
  | 0 => some ⟨8, 8, 8, 8, [4, 5], [4, 5], [4, 5], [4, 5], .f32, false⟩
  | 1 => some ⟨16, 16, 16, 16, [2], [2], [2], [2], .f32, false⟩
  | 2 => some ⟨16, 16, 16, 16, [3], [3], [3], [3], .f32, false⟩
  | 3 => some ⟨8, 8, 8, 8, [8], [8], [8], [8], .i32, false⟩
  | 4 => some ⟨8, 8, 8, 8, [8], [8], [8], [8], .f32, true⟩
  | 5 => some ⟨4, 4, 4, 4, [9], [9], [9], [9], .i32, false⟩
  | 6 => some ⟨4, 4, 4, 4, [9], [9], [9], [9], .f32, true⟩
  | 7 => some ⟨8, 2, 8, 8, [8], [0x0A], [8], [8], .i32, false⟩
  | 8 => some ⟨16, 16, 8, 16, [0x0C], [0x0C], [8], [0x0C], .ci32, false⟩
  | 9 => some ⟨8, 8, 8, 8, [0x0D], [0x0D], [8], [0x0D], .ci32, false⟩
  | _ => none

/-- The mode of an operation; acceptance has refused the reserved codes. -/
def CubeOp.mode (x : CubeOp) : CubeMode := (cubeMode (x.f 59 56)).getD ⟨8, 8, 8, 8, [], [], [], [], .f32, false⟩

/-- Gate element bits and formats of an operation. -/
def CubeOp.gateBits (x : CubeOp) : Nat := if 3 ≤ x.gate then x.mode.gnbits else x.mode.gbits
def CubeOp.gateFmts (x : CubeOp) : List Nat := if 3 ≤ x.gate then x.mode.gnfmts else x.mode.gfmts

/-- Bytes of an accumulator element (R240). -/
def CubeOp.accBytes (x : CubeOp) : Nat :=
  match x.mode.acc with
  | .f32 => 4
  | .i32 => if x.sat then 8 else 4
  | .ci32 => if x.sat then 16 else 8

def CubeOp.k (x : CubeOp) : Nat := 32 * x.kc
/-- Rows of B (R242). -/
def CubeOp.kb (x : CubeOp) : Nat := x.k / x.rk
/-- Blocks of a column of B (R260). -/
def CubeOp.beta (x : CubeOp) : Nat := ceilDiv (x.kb * x.mode.bbits) 512
/-- Registers of the B-hold span. -/
def CubeOp.span (x : CubeOp) : Nat := x.nt * x.beta
/-- Bytes of an A row and of a CBL gate row. -/
def CubeOp.arow (x : CubeOp) : Nat := x.k * x.mode.abits / 8
def CubeOp.grow (x : CubeOp) : Nat := x.k * x.gateBits / 8
/-- Bytes of the A plane and of the gate plane (R239). -/
def CubeOp.aBytes (x : CubeOp) : Nat := 16 * x.mt * x.arow
def CubeOp.gBytes (x : CubeOp) : Nat :=
  match x.gate with
  | 0 => 0
  | 1 => x.grow
  | 2 => 16 * x.mt * x.grow
  | 3 => 16 * x.nt * x.grow
  | _ => 16 * x.nt * 64
/-- Bytes of the accumulator region in each quad's share. -/
def CubeOp.accLen (x : CubeOp) : Nat := 64 * x.mt * x.nt * x.accBytes
/-- Bytes of the tag ranges. -/
def tagBytes (n : Nat) : Nat := 2 * ceilDiv n 64
def CubeOp.btagBytes (x : CubeOp) : Nat := 2 * (16 * x.nt * x.beta)

/-- Bits of a destination element, and the bytes of its unit of alignment (R269). -/
def CubeOp.wd (x : CubeOp) : Nat :=
  if x.dfmt = 0 then (if x.mode.acc = .ci32 then 64 else 32) else ((tagFmt x.dfmt).map TagFmt.elemBits).getD 32
def CubeOp.orow (x : CubeOp) : Nat := 16 * x.nt * x.wd / 8
def CubeOp.opitch (x : CubeOp) : Nat := if x.f 223 192 = 0 then x.orow else x.f 223 192
/-- Bytes from DBASE to the last byte of the last row, and to the end of the destination's range: the final destination block
is written to its end (R222, R269). -/
def CubeOp.oLast (x : CubeOp) : Nat := if x.cbl then 16 * x.mt * x.orow else (16 * x.mt - 1) * x.opitch + x.orow
def CubeOp.oBytes (x : CubeOp) : Nat := if x.dfmt = 0 then x.oLast else ceilDiv x.oLast 64 * 64

/-- Passes of a product, or blocks of a write-out. -/
def CubeOp.total (x : CubeOp) : Nat := if x.isOut then x.mt * x.nt else x.mt * x.nt * x.kc

/-! ### The checks of acceptance (R244, R265) -/

def anyNonzero (x : CubeOp) (rs : List (Nat × Nat)) : Bool := rs.any (fun r => x.f r.1 r.2 != 0)

/-- The completion fields under BAREN. -/
def CubeOp.badCredit (s : State) (x : CubeOp) : Bool :=
  x.baren && ((x.cra == 0 && x.crb == 0) || decide (5 ≤ x.barsel) ||
    (x.barsel != 0 && x.barsel < 5 && (creditEntry s x.vgid x.barsel 0).isNone) || (x.barsel != 0 && x.baridx != 0))

/-- Whether a plane's format field is one that R259 allows. -/
def fmtAllowed (tagged : Bool) (fmt : Nat) (fmts : List Nat) : Bool := if tagged then fmt == 0 else fmts.contains fmt

/-- The B-hold warps: their slots by quad. -/
def CubeOp.holders (s : State) (x : CubeOp) : List (Option Nat) :=
  (List.range 4).map (fun i => (s.wgs.get x.vgid).warps[x.bw i]?)

/-- B-hold warps missing, ended, or two on one quad. -/
def CubeOp.badHolders (s : State) (x : CubeOp) : Bool :=
  let ws := (x.holders s).filterMap id
  ws.length != 4 || ws.any (fun w => s.liveLanes w == []) || !decide ((ws.map (fun w => quadOf w % 4)).Nodup)

def CubeOp.badProduct (s : State) (x : CubeOp) : Bool :=
  let m := x.mode
  x.f 63 60 != 0 || x.vgid == 0 || (cubeMode (x.f 59 56)).isNone || decide (5 ≤ x.gate) ||
  (x.f 52 51 != 0 && x.gate != 4) || (x.conj && m.acc != .ci32) || (x.sat && m.acc == .f32) ||
  anyNonzero x [(511, 448), (403, 400), (389, 376), (319, 312), (255, 248), (182, 176), (159, 146), (127, 111), (95, 82), (7, 0)] ||
  x.kc == 0 || decide (2048 < x.kc) || x.k * m.abits % 512 != 0 ||
  ((x.gate == 2 || x.gate == 3) && x.k * x.gateBits % 512 != 0) || (x.gate == 4 && decide (512 < x.rk * x.gateBits)) ||
  decide (256 < x.span) || !fmtAllowed (x.atag != 0) (x.f 25 20) m.afmts || !fmtAllowed (x.btag != 0) (x.f 19 14) m.bfmts ||
  (x.gate == 0 && (x.f 13 8 != 0 || x.gbase != 0 || x.gtag != 0)) ||
  (x.gate != 0 && !fmtAllowed (x.gtag != 0) (x.f 13 8) x.gateFmts) ||
  (x.gate != 0 && x.gtag == 0 && x.atag == 0 && x.f 59 56 == 0 && x.f 13 8 != x.f 25 20) ||
  x.badHolders s || decide (384 ≤ x.breg) || x.badCredit s

/-- The destination formats each accumulator allows (R269). -/
def outFmts (a : AccKind) : List Nat :=
  match a with
  | .f32 => [0, 1, 2, 3, 4, 5, 8]
  | .i32 => [0, 1, 8, 9]
  | .ci32 => [0, 0x0C, 0x0D]

def CubeOp.badOut (s : State) (x : CubeOp) : Bool :=
  let m := x.mode
  x.f 63 60 != 1 || x.vgid == 0 || (cubeMode (x.f 59 56)).isNone || (x.sat && m.acc == .f32) ||
  anyNonzero x [(511, 448), (403, 400), (389, 376), (383, 320), (319, 312), (255, 224), (191, 184), (127, 111), (95, 64), (55, 50),
    (48, 48), (16, 0)] ||
  x.dsp == 3 || !(outFmts m.acc).contains x.dfmt || (x.scalem && (!x.dtagen || !fmtScales x.dfmt)) ||
  (x.dscale != 127 && !fmtScales x.dfmt) || (x.dtagen && x.dsp != 0) ||
  (x.cbl && (x.f 223 192 != 0 || x.orow % 64 != 0)) ||
  ((x.scalem || x.dtagen) && (x.orow % 64 != 0 || x.f 223 192 % 64 != 0)) ||
  (x.f 223 192 != 0 && decide (x.f 223 192 < x.orow)) || x.badCredit s

def CubeOp.misaligned (x : CubeOp) : Bool :=
  if x.isOut then
    x.accoff % 64 != 0 || x.dbase % (max 1 (x.wd / 8)) != 0 || (x.cbl && x.dbase % 1024 != 0) ||
    (x.dtagen && (x.dbase % 64 != 0 || x.dtag % 2 != 0))
  else
    x.abase % 1024 != 0 || ((x.gate == 2 || x.gate == 3) && x.gbase % 1024 != 0) ||
    ((x.gate == 1 || x.gate == 4) && x.gbase % 64 != 0) || x.accoff % 64 != 0 ||
    x.atag % 2 != 0 || x.btag % 2 != 0 || x.gtag % 2 != 0

/-- Each quad's share of a workgroup's accumulator allotment, in bytes (R58). -/
def Workgroup.accShare (g : Workgroup) : Nat := 256 * g.accKiB

def CubeOp.outOfBounds (s : State) (x : CubeOp) : Bool :=
  let g := s.wgs.get x.vgid
  let accBad := decide (g.accShare < x.accoff + x.accLen)
  let barBad := x.baren && x.barsel == 0 && decide (g.bars.length ≤ x.baridx)
  let past := fun base n => base != 0 && decide (2 ^ 56 < base + n)
  if x.isOut then
    let lim := match x.dsp with
      | 0 => 2 ^ 56
      | 1 => g.benchLen
      | _ => (s.owners.get x.owner).marvBytes
    accBad || barBad || decide (lim < x.dbase + x.oBytes) || (x.dtagen && decide (2 ^ 56 < x.dtag + tagBytes x.oBytes))
  else
    accBad || barBad || decide (g.benchLen < x.abase + x.aBytes) || decide (g.benchLen < x.gbase + x.gBytes) ||
    ((x.holders s).filterMap id).any (fun w => decide (32 * (s.warp w).units.length < x.breg + x.span)) ||
    past x.atag (tagBytes x.aBytes) || past x.btag x.btagBytes || past x.gtag (tagBytes x.gBytes)

/-- The first cause of R265; `odd` says that the block lies in bench at an offset that is no multiple of 64. -/
def CubeOp.refusal (s : State) (x : CubeOp) (out odd : Bool) : Option Nat :=
  if (if out then x.badOut s else x.badProduct s) then some causeEngine
  else if odd || x.misaligned then some causeAlign
  else if x.outOfBounds s then some causeBounds
  else none

/-! ### Locks (R266) -/

/-- A bench place of the operation's workgroup. -/
def CubeOp.bench (s : State) (x : CubeOp) (core off : Nat) : Nat := benchKey core ((s.wgs.get x.vgid).benchBase + off)

/-- A byte of a quad's share, as a key of accumulator memory. -/
def accKey (s : State) (core vgid quad off : Nat) : Nat :=
  core * 2 ^ 22 + quad * 2 ^ 20 + (s.wgs.get vgid).accBase + off

/-- A place of the write-out's destination. (DESIGN CHOICE, log 106) -/
def CubeOp.dest (s : State) (x : CubeOp) (core a : Nat) : EP :=
  match x.dsp with
  | 0 => .glob a
  | 1 => .bench (x.bench s core a)
  | _ => .marver (marverKey (dieOfCore core) ((s.owners.get x.owner).marvBase.getD (dieOfCore core) 0 + a))

/-- The accumulator region in the four shares, as locks of a kind. -/
def CubeOp.accLocks (s : State) (x : CubeOp) (core : Nat) (k : LockKind) : List RLock :=
  (List.range 4).map (fun q =>
    let lo := accKey s core x.vgid q x.accoff
    { op := x.op, rid := 5, die := 4, owner := x.owner, space := .acc core, kind := k, lo := lo, hi := lo + x.accLen })

/-- The B-hold spans (R267). -/
def CubeOp.holdLocks (s : State) (x : CubeOp) : List RLock :=
  if x.isOut then []
  else
    ((x.holders s).filterMap id).map (fun w =>
      { op := x.op, rid := 6, die := 4, owner := x.owner, space := .bhold w, kind := .write, lo := x.breg,
        hi := x.breg + x.span })

/-- The other locks of an operation. -/
def CubeOp.locks (s : State) (x : CubeOp) (core : Nat) : List RLock :=
  let die := dieOfCore core
  let rd := fun rid (p : EP) n => if n = 0 then [] else [mkLock x.op rid die x.owner .read p n]
  if x.isOut then
    [mkLock x.op 0 die x.owner .write (x.dest s core x.dbase) x.oBytes] ++
    (if x.dtagen then [mkLock x.op 1 die x.owner .write (.glob x.dtag) (tagBytes x.oBytes)] else []) ++
    x.accLocks s core .read
  else
    rd 0 (.bench (x.bench s core x.abase)) x.aBytes ++ rd 1 (.bench (x.bench s core x.gbase)) x.gBytes ++
    (if x.atag = 0 then [] else rd 2 (.glob x.atag) (tagBytes x.aBytes)) ++
    (if x.gtag = 0 then [] else rd 3 (.glob x.gtag) (tagBytes x.gBytes)) ++
    (if x.btag = 0 then [] else rd 4 (.glob x.btag) x.btagBytes) ++ x.accLocks s core .write

/-! ### The lines of a write-out (R266, R269) -/

/-- The byte of the output at a distance from DBASE: row and byte of the row. -/
def CubeOp.outAt (x : CubeOp) (off : Nat) : Option (Nat × Nat) :=
  let l := x.orow
  let rb := if x.cbl then
      let k := off / 1024
      (k / (l / 64) * 16 + off % 1024 / 64, k % (l / 64) * 64 + off % 64)
    else (off / x.opitch, off % x.opitch)
  if rb.1 < 16 * x.mt ∧ rb.2 < l then some rb else none

/-- The block of 16 × 16 elements that a byte of a row comes from, in the order of R242. -/
def CubeOp.blockOf (x : CubeOp) (m b : Nat) : Nat := b / (2 * x.wd) * x.mt + m / 16

/-- A destination line: 64 bytes in global memory, 128 elsewhere. -/
def CubeOp.lineSize (x : CubeOp) : Nat := if x.dsp = 0 then 64 else 128

/-- The bytes of a destination line that the operation writes: offset in it, and row and byte of the row unless it is one of
the bytes after the last, which the final destination block receives as +0 (R222). -/
def CubeOp.lineBytes (x : CubeOp) (u : Nat) : List (Nat × Option (Nat × Nat)) :=
  (List.range x.lineSize).filterMap (fun k =>
    let a := u * x.lineSize + k
    if a < x.dbase then none
    else match x.outAt (a - x.dbase) with
      | some rb => some (k, some rb)
      | none => if x.oLast ≤ a - x.dbase ∧ a - x.dbase < x.oBytes then some (k, none) else none)

/-- The block that brings the last byte of a line. -/
def CubeOp.lineDue (x : CubeOp) (u : Nat) : Nat :=
  (x.lineBytes u).foldl (fun m b => Nat.max m (match b.2 with
    | some rb => x.blockOf rb.1 rb.2
    | none => x.total - 1)) 0

/-- The destination lines that the operation has still to write. -/
def CubeOp.linesLeft (x : CubeOp) : List Nat :=
  if !x.isOut then []
  else
    let z := x.lineSize
    ((List.range ((x.dbase + x.oBytes - 1) / z + 1 - x.dbase / z)).map (x.dbase / z + ·)).filter (fun u =>
      (x.lineBytes u) != [] && decide (x.pass ≤ x.lineDue u))

/-! ### The end of an operation (R268, R270) -/

/-- Clear the slot of the starting instruction once no operation of it is left (R264). -/
def State.endPid (s : State) (pid : Nat) : State :=
  let busy := s.cores.any (fun c => c.2.cube.any (fun x => x.pid == pid)) ||
    s.wgs.any (fun g => g.2.savedC.any (fun x => x.pid == pid))
  if pid = 0 ∨ busy then s
  else
    match s.pending.find? (fun p => p.pid == pid && p.more == []) with
    | some p => s.completePending p
    | none => s

/-- Change the queue of a core. -/
def State.setQueue (s : State) (core : Nat) (f : List CubeOp → List CubeOp) : State :=
  s.setCore core (fun c => { c with cube := f c.cube })

/-- The operation leaves the queue and its locks go. -/
def State.endCube (s : State) (core : Nat) (x : CubeOp) : State :=
  let s := (s.dropReqs (· == .engine x.op)).setQueue core (fun q => q.filter (fun y => y.op != x.op))
  (s.unlockAll x.op (dieOfCore core)).opEnded x.op

/-- The presence bits of the lines that are still to be written: cleared at acceptance, set when the operation ends early
(R23, R25). -/
def CubeOp.showLines (s : State) (x : CubeOp) (core : Nat) (present : Bool) : State :=
  x.linesLeft.foldl (fun s u => s.setPresence (x.dest s core (u * x.lineSize)) 1 present) s

/-- A failed or cancelled operation: its ERR, and the causes it records (R270). A credit of it that still travels is
withdrawn. -/
def CubeOp.failed (s : State) (x : CubeOp) (core err : Nat) (race : Bool) : State :=
  let s := ((x.showLines s core true).endCube core x).dropCredit (x.sent.getD 0)
  let s := if race then s.engCause core x.vgid x.warp causeMemrace else s
  let s := if err = 5 then s else s.engCause core x.vgid x.warp causeEngine
  (s.setWg x.vgid (fun g => { g with cubeErr := err })).endPid x.pid

/-- Remove the operations of a warp that have not passed acceptance, and forget what its waiting lanes have read, when its
threads are withdrawn (R218, R264). Lanes that wait for a place or an entry try again. -/
def State.dropUnready (s : State) (w : Nat) : State :=
  let core := coreOf w
  let mine := fun (x : CubeOp) => !x.ready && x.vgid == (s.warp w).vgid && x.warp == (s.warp w).index
  let gone := (s.cores.get core).cube.filter mine
  let pids := (s.pending.filter (fun p => p.warp == w && p.more != [])).map (·.pid)
  let s := { s with asked := s.asked.filter (fun a => a.warp != w) }
  if gone = [] ∧ pids = [] then s
  else
    let s := s.setQueue core (fun q => q.filter (fun x => !mine x))
    let s : State := { s with
      locks := s.locks.filter (fun k => !gone.any (fun x => x.op == k.op)),
      pending := s.pending.map (fun (p : Pending) => if p.warp = w then { p with more := [] } else p) }
    (pids.foldl (fun s p => s.endPid p) s).post (.engineResourceFreed (dieOf w))

/-! ### Acceptance (R264) -/

/-- Whether a pending instruction of a B-hold warp still writes a register of a span. -/
def writesSpan (p : Pending) (lo hi : Nat) : Bool :=
  let hit := fun n => decide (lo ≤ n) && decide (n < hi)
  match p.work with
  | .writeRegs ws => ws.any (fun x => hit x.2.1)
  | .load _ t d _ => hit d || (t == .b128 && hit (d + 1))
  | .atomic _ _ _ d _ _ => hit d
  | _ => false

/-- Step 5: earlier writes into the spans that have not landed. A mailbox reply is such a write. -/
def CubeOp.spanBusy (s : State) (x : CubeOp) (core : Nat) : Bool :=
  ((x.holders s).filterMap id).any (fun w =>
    s.pending.any (fun p => p.warp == w && writesSpan p x.breg (x.breg + x.span)) ||
    (s.cores.get core).mailbox.any (fun e => match e.2 with
      | some r => r.warp == w && decide (x.breg ≤ r.dest) && decide (r.dest < x.breg + x.span)
      | none => false))

/-- The operation that a lane has placed in the queue without passing acceptance. -/
def unready (s : State) (w lane : Nat) : Option CubeOp :=
  (s.cores.get (coreOf w)).cube.find? (fun x =>
    !x.ready && x.vgid == (s.warp w).vgid && x.warp == (s.warp w).index && x.lane == lane)

/-- An operation as it enters the queue. -/
def newCube (s : State) (w lane : Nat) (block : List Word) (pid : Nat) : CubeOp :=
  { op := s.serial, vgid := (s.warp w).vgid, owner := (s.warp w).owner, warp := (s.warp w).index, lane := lane,
    pid := pid, ready := false, block := block, tags := none, pass := 0, badCols := [], replay := false, wrote := [], sent := none,
    refused := false }

/-- Operations in the queue of a core, with those that workgroups being restored to it will put back (R264, R271). -/
def cubeLoad (s : State) (core : Nat) : Nat :=
  (s.cores.get core).cube.length +
  ((s.wgs.filter (fun e => e.2.phase == .restoring && e.2.core == core)).flatMap (fun e => e.2.savedC)).length

/-- Steps 4 to 6 for one lane: whether it must wait, and the state. An operation is numbered when it takes its locks, so that
engines take effect in that order (R21). -/
def acceptCube (s : State) (w lane : Nat) (block : List Word) (pid : Nat) : Bool × State :=
  let core := coreOf w
  let old := unready s w lane
  if old.isNone ∧ 4 ≤ cubeLoad s core then (true, s)
  else
    let x := old.getD (newCube s w lane block pid)
    let s := if old.isSome then s
      else
        let s := { s with serial := s.serial + 1, locks := s.locks ++ x.holdLocks s }
        s.setQueue core (fun q => q ++ [x])
    if (!x.isOut && x.spanBusy s core) || !locksFit s (dieOfCore core) x.owner (x.locks s core) then (true, s)
    else
      let y := { x with op := s.serial, ready := true }
      let ks := s.locks.map (fun (k : RLock) => if k.op = x.op then { k with op := y.op } else k)
      let s := { s with serial := s.serial + 1, locks := ks ++ y.locks s core }
      let s := s.setQueue core (fun q => q.map (fun z => if z.op = x.op then y else z))
      (false, y.showLines s core false)

/-- Lanes in increasing order until one must wait: the state, and the lanes that wait. -/
def acceptCubes (s : State) (w pid : Nat) : List (Nat × List Word) → State × List Nat
  | [] => (s, [])
  | x :: r =>
    match acceptCube s w x.1 x.2 pid with
    | (false, s') => acceptCubes s' w pid r
    | (true, s') => (s', (x :: r).map (·.1))

/-- Whether a lane has its block already: it waits in the queue, or for a place in it. -/
def hasBlock (s : State) (w lane : Nat) : Bool := (unready s w lane).isSome || (askedBy s w lane).isSome

/-- The lanes of the issuing instruction that wait with their blocks. -/
def blockLanes (s : State) (w : Nat) : List Nat := lanesHere s w (hasBlock s w)

/-- The lanes that go on: those of the instruction that wait, in order, before others that come to it; where none waits, all. -/
def cubeLanes (s : State) (w : Nat) (gl : List Nat) : List Nat := inOrder (blockLanes s w) gl

/-- Accept the blocks of lanes, holding one slot for all operations of the instruction. A lane that waits keeps its block; it
waits as for an engine resource (R264). -/
def startCubes (s : State) (f : F64) (gl : List Nat) (xs : List (Nat × List Word)) : Res :=
  let w := s.cur.warp
  let slot := f.set.toNat
  let ls := xs.map (·.1)
  let olds := blockLanes s w
  let s := s.release w scopeDie
  let old := joinPid s w slot ls
  let pid := if slot = 0 then 0 else (old.map (·.pid)).getD s.serial
  let s := if slot ≠ 0 ∧ old.isNone then { s with serial := s.serial + 1 } else s
  let r := acceptCubes s w pid xs
  let done := ls.filter (fun l => !r.2.contains l)
  let asks := xs.map (fun x => ({ warp := w, lane := x.1, chan := 0, words := x.2 } : Asked))
  let rest := stillAsking olds ls done
  let s := ((r.1.holdSlot w slot pid old done rest).keepAsked w asks (r.2.filter (fun l => (unready r.1 w l).isNone))).nudge w done rest
  .split (s.enterAll w (gl.filter rest.contains) .resource) (gl.filter (fun l => !done.contains l))

/-- Steps 2 and 3: the causes of the blocks that lanes have just read; each comes with its bench offset, when it has one. -/
def cubeStart (out : Bool) (f : F64) (s : State) (gl : List Nat) (xs : List (Nat × List Word × Option Nat)) : Res :=
  let w := s.cur.warp
  let rs := xs.filterMap (fun x =>
    let odd := (x.2.2.getD 0) % 64 != 0
    if hasBlock s w x.1 then none
    else ((newCube s w x.1 x.2.1 0).refusal s out odd).map (fun b =>
      ({ lane := x.1, bit := b, addr := if b = causeAlign && odd then x.2.2.getD 0 else 0 } : Raise)))
  if rs ≠ [] then .trap rs
  else startCubes s f gl (xs.map (fun x => (x.1, ((askedBy s w x.1).map (·.words)).getD x.2.1)))

/-- The words of 64 bytes. -/
def blockWords (bs : List Byte) : List Word :=
  (List.range 8).map (fun k => BitVec.ofNat 64 (leNat ((bs.drop (8 * k)).take 8)))

/-- The block in bench: a load of 64 bytes (R26, R264). Where a lane's leaves the allotment, no block is read, and each lane records
its own cause of the addressing step; else the alignment is checked with the block (R265). The supervisor warp, which has no
bench, raises ENGINE. (DEDUCED, log 21) -/
def cubeBenchBody (out : Bool) (f : F64) (s : State) (gl : List Nat) : Res :=
  let w := s.cur.warp
  let ls := cubeLanes s w gl
  let xs := (ls.filter (fun l => !hasBlock s w l)).map (fun l => (l, (opnd s w l f.lit f.a.toNat).toNat))
  let z := if xs.any (fun x => x.2 % 64 != 0) then 1 else 64
  let beyond := fun (x : Nat × Nat) => decide (allotment s w .bench < x.2 + 64)
  if isSup w then .trap (raiseAll causeEngine gl)
  else if xs.any beyond then
    .trap (xs.flatMap (fun x => if x.2 % 64 ≠ 0 then [{ lane := x.1, bit := causeAlign, addr := x.2 }]
      else if beyond x then [{ lane := x.1, bit := causeBounds, addr := x.2 }] else []))
  else
    afterChecks (checkAccess s w .bench .read z 1 false (xs.flatMap (fun x =>
        (List.range (64 / z)).map (fun i => (x.1, x.2 + z * i))))) (fun s gs =>
      cubeStart out f s gl (ls.map (fun l =>
        (l, blockWords ((gs.filter (fun g => g.lane == l)).flatMap (fun g => (s.readLoc (s.warp w).owner g.loc z).1)),
          (xs.find? (fun x => x.1 == l)).map (·.2)))))

/-- The block in eight registers of the issuing thread. -/
def cubeRegBody (out : Bool) (f : F64) (s : State) (gl : List Nat) : Res :=
  let w := s.cur.warp
  cubeStart out f s gl ((cubeLanes s w gl).map (fun l => (l, (List.range 8).map (fun k => s.v w l (f.a.toNat + k)), none)))

def cubeHdr (i : Instr) (f : F64) : Hdr := { hdrOf i f with rel := some scopeDie }

def execCubeMmaBench (f : F64) (s : State) : Host.Outcome State Fault Refusal :=
  finish (issue (cubeHdr (.cubeMmaBench f) f) (cubeBenchBody false f) s)
def execCubeMmaReg (f : F64) (s : State) : Host.Outcome State Fault Refusal :=
  finish (issue (cubeHdr (.cubeMmaReg f) f) (cubeRegBody false f) s)
def execCubeOutBench (f : F64) (s : State) : Host.Outcome State Fault Refusal :=
  finish (issue (cubeHdr (.cubeOutBench f) f) (cubeBenchBody true f) s)
def execCubeOutReg (f : F64) (s : State) : Host.Outcome State Fault Refusal :=
  finish (issue (cubeHdr (.cubeOutReg f) f) (cubeRegBody true f) s)

/-! ### Operand chunks (R238, R239, R243, R260) -/

/-- 32 elements of an operand: components, scale, the FORMAT that reading its tag and codes always raises, whether it
holds a non-finite value that its tag denies (R107), Z and NF. -/
structure Chunk where
  comps  : List Comp
  scale  : Nat
  flags  : BitVec 9
  denied : Bool
  z      : Bool
  nf     : Bool
deriving DecidableEq, Repr, Inhabited

/-- Read `n` elements from element `first` of a 64-byte block. Integer modes read every scale as 127. -/
def readChunk (fmts : List Nat) (unscaled : Bool) (cplx : Bool) (t : Tag) (block first n : Nat) : Chunk :=
  let k := if cplx then 2 else 1
  let zero := List.replicate (n * k) (Comp.int 0)
  match (if fmts.contains t.fmt then tagFmt t.fmt else none) with
  | none => { comps := zero, scale := 127, flags := flagFormat, denied := false, z := t.z, nf := t.nf }
  | some f =>
    let sc := if unscaled then (127, if t.scale = 127 then 0 else flagFormat) else tagScale f t
    if t.z then { comps := zero, scale := sc.1, flags := sc.2, denied := false, z := true, nf := t.nf }
    else
      let cs := (List.range (n * k)).map (fun j => readComp f.kind block (first * k + j))
      { comps := cs.map (·.1), scale := sc.1, flags := cs.foldl (fun fl c => fl ||| c.2) sc.2,
        denied := !t.nf && cs.any (fun c => c.1.nonFinite), z := false, nf := t.nf }

/-- Whether a mode's elements are read without a scale. -/
def CubeMode.unscaled (m : CubeMode) : Bool := m.acc != .f32
def CubeMode.cplx (m : CubeMode) : Bool := m.acc == .ci32

/-- The tag an untagged operand reads as. -/
def plainTag (fmt : Nat) : Tag := { scale := 127, nf := true, z := false, fmt := fmt }

/-- The byte offset of byte `b` of row `r` in the canonical blocked layout of rows of `l` bytes (R239). -/
def cblOff (l r b : Nat) : Nat := (r / 16 * (l / 64) + b / 64) * 1024 + r % 16 * 64 + b % 64

/-- Where the chunk of row `r` lies in its plane: the 64-byte block's offset, and the element it starts at. -/
def cblChunk (l bits r c : Nat) : Nat × Nat :=
  let b := 4 * bits * c
  (cblOff l r (b / 64 * 64), b % 64 * 8 / bits)

/-- Where the gate's chunk for row or column `r` lies. -/
def CubeOp.gateChunk (x : CubeOp) (r c : Nat) : Nat × Nat :=
  let b := 4 * x.gateBits * c
  match x.gate with
  | 1 => (b / 64 * 64, b % 64 * 8 / x.gateBits)
  | 4 => (64 * r, 0)
  | _ => cblChunk x.grow x.gateBits r c

/-- The gate rows that a pass reads. -/
def CubeOp.gateRows (x : CubeOp) (nb mb : Nat) : List Nat :=
  match x.gate with
  | 0 => []
  | 1 => [0]
  | 2 => (List.range 16).map (16 * mb + ·)
  | _ => (List.range 16).map (16 * nb + ·)

/-- A tag of a plane, or the plain tag of an untagged one. -/
def CubeOp.readTag (s : State) (x : CubeOp) (core base off fmt : Nat) : Eng Tag :=
  if base = 0 then .ok s (plainTag fmt)
  else
    (engRead s (coreReq core x.owner x.vgid 2 x.op .read) x.op (.glob (base + 2 * (off / 64))) 2).bind (fun s bs =>
      .ok s (tagOf (leNat bs)))

/-- Chunks of a plane in bench: for each row and its place, the tag and then the block (R108). A pass waits for a line that an
earlier operation holds, or that is absent, unless a later operation has cleared it, which itself waits for the product's locks
(R21, R257); one open under another VGID is a race (R190). (DEDUCED, log 110) -/
def CubeOp.planeChunks (x : CubeOp) (core base tagBase fmt n : Nat) (fmts : List Nat) (cplx : Bool) :
    State → List (Nat × Nat × Nat) → Eng (List (Nat × Chunk))
  | s, [] => .ok s []
  | s, (r, off, first) :: rest =>
    let key := x.bench s core (base + off)
    if earlierLock s x.op x.owner (.bench key) 64 false ||
       (s.benchAbs.get (key / 128) && !laterWrite s x.op x.owner (.bench key) 64) then .wait s
    else if (raceAt s x.vgid (.bench key) 64).isSome then .fail s stFault true
    else
      (x.readTag s core tagBase off fmt).bind (fun s t =>
        let ch := readChunk fmts x.mode.unscaled cplx t (leNat (s.bench.getRange key 64)) first n
        (CubeOp.planeChunks x core base tagBase fmt n fmts cplx s rest).bind (fun s cs => .ok s ((r, ch) :: cs)))

/-- Read the tags of B once (R261). -/
def CubeOp.readBTags (s : State) (x : CubeOp) (core : Nat) : Eng (List Nat) :=
  if x.btag = 0 then .ok s []
  else
    (List.range (16 * x.nt * x.beta)).foldl (fun (e : Eng (List Nat)) i =>
      e.bind (fun s ts =>
        (engRead s (coreReq core x.owner x.vgid 2 x.op .read) x.op (.glob (x.btag + 2 * i)) 2).bind (fun s bs =>
          .ok s (ts ++ [leNat bs])))) (.ok s [])

/-- The B-hold warp of a quad. -/
def CubeOp.holder (s : State) (x : CubeOp) (quad : Nat) : Nat :=
  (((x.holders s).filterMap id).find? (fun w => quadOf w % 4 == quad)).getD 0

/-- The chunk of B for column `n` of block column `nb` (R260): `32 / Rk` rows. -/
def CubeOp.bChunk (s : State) (x : CubeOp) (tags : List Nat) (nb n c : Nat) : Chunk :=
  let m := x.mode
  let quad := n / 4
  let w := x.holder s quad
  let row := 32 * c / x.rk
  let i := row * m.bbits / 512
  let blk := i * 4 * x.nt + 4 * nb + n % 4
  let bytes := (List.range 8).map (fun j => (s.v w (8 * (blk % 4) + j) (x.breg + blk / 4)).toNat)
  let block := bytes.foldr (fun v acc => v + 2 ^ 64 * acc) 0
  let t := if x.btag = 0 then plainTag (x.f 19 14) else tagOf (tags.getD (quad * 4 * x.nt * x.beta + blk) 0)
  readChunk m.bfmts m.unscaled m.cplx t block (row * m.bbits % 512 / m.bbits) (32 / x.rk)

/-! ### One output position (R242–R250) -/

/-- A factor of a product: a component and its block's scale. -/
structure Factor where
  comp  : Comp
  scale : Nat
deriving DecidableEq, Repr

def Comp.isNan (c : Comp) : Bool :=
  match c with
  | .flt t x => isNanF t x
  | .int _ => false
def Comp.isSnan (c : Comp) : Bool :=
  match c with
  | .flt t x => Sys2Proof.Machine.isSnan t x
  | .int _ => false
/-- The binary32 NaN of a NaN operand, quieted (R94, R247). -/
def Comp.nanF32 (c : Comp) : Nat :=
  match c with
  | .flt t x => quietF .f32 (convNan t .f32 x)
  | .int _ => Fmt.f32.defNan
def Comp.toInt (c : Comp) : Int :=
  match c with
  | .int x => x
  | .flt _ _ => 0

/-- The exact product of factors that are no NaN: a value, or none when it is invalid. -/
def exactProduct (fs : List Factor) : Option FNum :=
  let vs := fs.map (fun f => f.comp.val ((f.scale : Int) - 127))
  let neg := vs.foldl (fun n v => match v with
    | .fin g _ _ => xor n g
    | .inf g => xor n g
    | .nan _ _ => n) false
  let isInf := vs.any (fun v => match v with
    | .inf _ => true
    | _ => false)
  let isZero := vs.any (fun v => match v with
    | .fin _ m _ => m == 0
    | _ => false)
  if isInf then (if isZero then none else some (.inf neg))
  else
    let me := vs.foldl (fun (a : Nat × Int) v => match v with
      | .fin _ m e => (a.1 * m, a.2 + e)
      | _ => a) (1, 0)
    some (.fin neg me.1 me.2)

/-- Stage one on finite products (R245): the sum in units of 2^u, u, and whether a term lost a bit. -/
def stageOne (ps : List FNum) : Int × Int × Bool :=
  let fs := ps.filterMap (fun p => match p with
    | .fin n m e => if m = 0 then none else some (n, m, e)
    | _ => none)
  match (fs.map (fun x => (Nat.log2 x.2.1 : Int) + x.2.2)).max? with
  | none => (0, 0, false)
  | some top =>
    let u := top - 48
    fs.foldl (fun (a : Int × Int × Bool) x =>
      let d := (x.2.2 - u).toNat
      let back := (u - x.2.2).toNat
      let t : Nat := x.2.1 * 2 ^ d / 2 ^ back
      let lost := x.2.1 * 2 ^ d % 2 ^ back != 0
      (a.1 + (if x.1 then -(t : Int) else t), u, a.2.2 || lost)) (0, u, false)

/-- Round an exact chunk sum and add it to a binary32 accumulator (R246). -/
def addChunk (old : Nat) (sum e : Int) : Nat × BitVec 9 :=
  if sum = 0 then (old, 0)
  else
    let c := roundF .f32 .rne (decide (sum < 0)) sum.natAbs e false
    let d := addF .f32 .rne false old c.1
    (d.1, c.2 ||| d.2)

/-- The floating-point modes (R245–R247): the factors of each k in the order A, B, gate. -/
def floatPosition (old : Nat) (ks : List (List Factor)) : Nat × BitVec 9 :=
  let all := ks.flatten
  let prods := (ks.filter (fun fs => !fs.any (fun f => f.comp.isNan))).map exactProduct
  let infs := prods.filterMap (fun p => match p with
    | some (.inf n) => some n
    | _ => none)
  let invalid := prods.any (·.isNone) || (infs.contains true && infs.contains false)
  let fl := if invalid || all.any (fun f => f.comp.isSnan) then flagInvalid else 0
  let special := fun c => let d := addF .f32 .rne false old c; (d.1, d.2 ||| fl)
  match all.find? (fun f => f.comp.isNan) with
  | some f => special f.comp.nanF32
  | none =>
    if invalid then special Fmt.f32.defNan
    else
      match infs with
      | n :: _ => special (infF .f32 n)
      | [] =>
        let r := stageOne (prods.filterMap id)
        let d := addChunk old r.1 r.2.1
        (d.1, d.2 ||| (if r.2.2 then flagInexact else 0))

/-- The exact complex product of factors given as pairs; a real factor has imaginary part 0. -/
def cplxProduct (fs : List (Int × Int)) : Int × Int :=
  fs.foldl (fun a b => (a.1 * b.1 - a.2 * b.2, a.1 * b.2 + a.2 * b.1)) (1, 0)

/-- The chunks that one output position reads: A, B and perhaps the gate. -/
structure PosChunks where
  a : Chunk
  b : Chunk
  g : Option Chunk
deriving DecidableEq, Repr

/-- The factors of element `j` of the chunk. -/
def PosChunks.factors (p : PosChunks) (rk j : Nat) : List Factor :=
  [{ comp := p.a.comps.getD j (.int 0), scale := p.a.scale }, { comp := p.b.comps.getD (j / rk) (.int 0), scale := p.b.scale }] ++
  (match p.g with
   | none => []
   | some g => [{ comp := g.comps.getD (if rk = 1 then j else j % rk) (.int 0), scale := g.scale }])

def pairAt (cs : List Comp) (j : Nat) : Int × Int := ((cs.getD (2 * j) (.int 0)).toInt, (cs.getD (2 * j + 1) (.int 0)).toInt)

/-- The complex factors of element `j`; `real` says that the gate is real. -/
def PosChunks.cplxFactors (p : PosChunks) (rk : Nat) (conj real : Bool) (j : Nat) : List (Int × Int) :=
  let b := pairAt p.b.comps (j / rk)
  [pairAt p.a.comps j, if conj then (b.1, -b.2) else b] ++
  (match p.g with
   | none => []
   | some g =>
     let k := if rk = 1 then j else j % rk
     [if real then ((g.comps.getD k (.int 0)).toInt, 0) else pairAt g.comps k])

def sumInts (xs : List Int) : Int := xs.foldl (· + ·) 0

/-- The new accumulator element, as a number of its bytes, and the flags of its arithmetic. -/
def CubeOp.position (x : CubeOp) (p : PosChunks) (old : Nat) : Nat × BitVec 9 :=
  let m := x.mode
  let js := List.range 32
  let w := 8 * x.accBytes
  match m.acc with
  | .f32 =>
    if m.scaled then
      let sum := sumInts (js.map (fun j => ((p.factors x.rk j).map (fun f => f.comp.toInt)).foldl (· * ·) 1))
      let sg : Int := ((p.g.map (·.scale)).getD 127 : Nat)
      addChunk old sum ((p.a.scale : Int) + p.b.scale + sg - 381)
    else floatPosition old (js.map (p.factors x.rk))
  | .i32 =>
    let sum := sumInts (js.map (fun j => ((p.factors x.rk j).map (fun f => f.comp.toInt)).foldl (· * ·) 1))
    (wrapInt w ((old : Int) + sum), 0)
  | .ci32 =>
    let h := w / 2
    let ps := js.map (fun j => cplxProduct (p.cplxFactors x.rk x.conj (x.gate ≤ 2) j))
    (wrapInt h (((old % 2 ^ h : Nat) : Int) + sumInts (ps.map (·.1))) +
        2 ^ h * wrapInt h (((old / 2 ^ h : Nat) : Int) + sumInts (ps.map (·.2))), 0)

/-- Whether some block of the position is zero beside partners without non-finite values (R251). (DESIGN CHOICE, log 22) -/
def PosChunks.skippable (p : PosChunks) : Bool :=
  let cs := [p.a, p.b] ++ p.g.toList
  (List.range cs.length).any (fun i => (cs.getD i default).z && (cs.eraseIdx i).all (fun c => !c.nf))

/-- FORMAT of the position's operands, with what a malformed block adds when it is read. -/
def PosChunks.flags (p : PosChunks) (skip : Bool) : BitVec 9 :=
  let cs := [p.a, p.b] ++ p.g.toList
  cs.foldl (fun fl c => fl ||| c.flags ||| (if !skip && c.denied then flagFormat else 0)) 0

/-! ### One pass (R242, R251–R255) -/

/-- The key of accumulator element (m, n) (R240). -/
def CubeOp.elemKey (s : State) (x : CubeOp) (core m n : Nat) : Nat :=
  let off := (m / 16 * x.nt + n / 16) * 64 + m % 4 * 16 + n % 16
  accKey s core x.vgid (m % 16 / 4) (x.accoff + off * x.accBytes)

/-- Apply a pass to its 256 positions: the accumulator, and the flags. (DESIGN CHOICE, log 22) -/
def CubeOp.applyPass (s : State) (x : CubeOp) (core nb mb : Nat) (first : Bool) (as bs gs : List (Nat × Chunk)) :
    State × BitVec 9 :=
  let choice := Config.skipChoice s.fresh
  let find := fun (cs : List (Nat × Chunk)) r => ((cs.find? (fun e => e.1 == r)).map (·.2)).getD default
  let gate := fun m n => match x.gate with
    | 0 => none
    | 1 => some (find gs 0)
    | 2 => some (find gs m)
    | _ => some (find gs n)
  (List.range 256).foldl (fun (r : State × BitVec 9) i =>
    let m := 16 * mb + i / 16
    let n := 16 * nb + i % 16
    let p : PosChunks := { a := find as m, b := find bs n, g := gate m n }
    let key := x.elemKey s core m n
    let old := if first && x.init then 0 else leNat (s.acc.getRange key x.accBytes)
    let skip := p.skippable && choice
    let d := if skip then (old, 0) else x.position p old
    ({ r.1 with acc := r.1.acc.setRange key (leBytes x.accBytes d.1) }, r.2 ||| d.2 ||| p.flags skip)) (s, 0)

/-- Read a pass's operands and apply it. -/
def CubeOp.runPass (s : State) (x : CubeOp) (core : Nat) : Eng CubeOp :=
  let m := x.mode
  let c := x.pass % x.kc
  let mb := x.pass / x.kc % x.mt
  let nb := x.pass / x.kc / x.mt
  let tags := match x.tags with
    | some ts => Eng.ok s ts
    | none => x.readBTags s core
  tags.bind (fun s ts =>
    let rows := (List.range 16).map (fun i =>
      let p := cblChunk x.arow m.abits (16 * mb + i) c
      (16 * mb + i, p.1, p.2))
    (x.planeChunks core x.abase x.atag (x.f 25 20) 32 m.afmts m.cplx s rows).bind (fun s as =>
      let grows := (x.gateRows nb mb).map (fun r => let p := x.gateChunk r c; (r, p.1, p.2))
      (x.planeChunks core x.gbase x.gtag (x.f 13 8) (if x.gate = 4 then x.rk else 32) x.gateFmts (m.cplx && decide (3 ≤ x.gate)) s
        grows).bind (fun s gs =>
        let bs := (List.range 16).map (fun n => (16 * nb + n, x.bChunk s ts nb n c))
        let r := x.applyPass s core nb mb (c == 0) as bs gs
        let s := { r.1 with fresh := r.1.fresh + 1 }
        .ok (s.engFlags core x.vgid x.warp r.2) { x with tags := some ts, pass := x.pass + 1, badCols := [], replay := false })))

/-! ### The write-out (R269) -/

/-- Where byte `b` of row `m` goes, from DBASE. -/
def CubeOp.outPlace (x : CubeOp) (m b : Nat) : Nat := if x.cbl then cblOff x.orow m b else m * x.opitch + b

/-- The lines whose last byte the running block brings. -/
def CubeOp.dueLines (x : CubeOp) : List Nat :=
  let mb := x.pass % x.mt
  let nb := x.pass / x.mt
  let z := x.lineSize
  let us := (List.range 16).flatMap (fun i => (List.range (2 * x.wd)).map (fun b =>
    (x.dbase + x.outPlace (16 * mb + i) (2 * x.wd * nb + b)) / z))
  let pads := (List.range (x.oBytes - x.oLast)).map (fun k => (x.dbase + x.oLast + k) / z)
  ((us ++ pads).eraseDups).filter (fun u => x.lineDue u == x.pass)

/-- A component of row `m` as the accumulator holds it, clamped where it saturates (R240): component `ci` counts the two
parts of a complex element. -/
def CubeOp.outComp (s : State) (x : CubeOp) (core m ci : Nat) : Comp × BitVec 9 :=
  let parts := if x.mode.acc = .ci32 then 2 else 1
  let old := leNat (s.acc.getRange (x.elemKey s core m (ci / parts)) x.accBytes)
  let w := 8 * x.accBytes / parts
  let v := old / 2 ^ (w * (ci % parts)) % 2 ^ w
  match x.mode.acc with
  | .f32 => (.flt .f32 v, 0)
  | _ =>
    let r := satInt true 32 (sextInt w v)
    if x.sat then (.int r.1, if r.2 then flagSat else 0) else (.int (sextInt w v), 0)

/-- The components that byte `b` of a row belongs to, each with the place of its bits in the byte and the byte of it. -/
def outParts (w b : Nat) : List (Nat × Nat × Nat) :=
  if 8 ≤ w then [(8 * b / w, 0, b % (w / 8))] else (List.range (8 / w)).map (fun i => (8 / w * b + i, w * i, 0))

/-- The coding of the destination's components: raw writes binary32 or 32-bit integers. -/
def CubeOp.outKind (x : CubeOp) : CompKind :=
  match tagFmt x.dfmt with
  | some f => f.kind
  | none => if x.mode.acc = .f32 then .flt .f32 else .int 32

/-- What a line receives: bytes by offset, flags, tag. With DFMT 0x00 and DTAGEN the tag has FMT 0, SCALE the field DSCALE, and Z and NF
of the raw values. (DESIGN CHOICE, log 109) -/
def CubeOp.lineData (s : State) (x : CubeOp) (core : Nat) (bs : List (Nat × Option (Nat × Nat))) :
    List (Nat × Byte) × BitVec 9 × Tag :=
  let kind := x.outKind
  let w := kind.width
  let keys := ((bs.filterMap (·.2)).flatMap (fun t => (outParts w t.2).map (fun p => (t.1, p.1)))).eraseDups
  let comps := keys.map (fun k => (k, x.outComp s core k.1 k.2))
  let ed := if x.scalem then chooseScale kind (comps.map (fun c => c.2.1.val 0)) else x.dscale
  let codes := comps.map (fun c =>
    if x.dfmt = 0 then
      (c.1, (match c.2.1 with
        | .flt _ v => v
        | .int v => wrapInt 32 v), c.2.2)
    else
      let r := c.2.1.put (127 - (ed : Int)) kind x.rmode
      (c.1, r.1, r.2 ||| c.2.2))
  let code := fun k => ((codes.find? (fun e => e.1 == k)).map (fun e => e.2.1)).getD 0
  let out := bs.map (fun t => (t.1, match t.2 with
    | some rb => BitVec.ofNat 8 ((outParts w rb.2).foldl (fun acc p =>
        acc + code (rb.1, p.1) / 2 ^ (8 * p.2.2) % 2 ^ (min 8 w) * 2 ^ p.2.1) 0)
    | none => (0 : Byte)))
  (out, codes.foldl (fun fl e => fl ||| e.2.2) 0,
    { scale := ed, fmt := x.dfmt, z := codes.all (fun e => codeZero kind e.2.1), nf := codes.any (fun e => codeNonFinite kind e.2.1) })

/-- The place of a line's tag. -/
def CubeOp.tagPlace (x : CubeOp) (u : Nat) : EP := .glob (x.dtag + 2 * ((u * x.lineSize - x.dbase) / 64))

/-- What the write of a line needs is there: its places are translated and no earlier operation holds them. -/
def CubeOp.probeLine (s : State) (x : CubeOp) (core u : Nat) : Eng Unit :=
  let q := coreReq core x.owner x.vgid 2 x.op .write
  (engProbe s q x.op (x.dest s core (u * x.lineSize)) (runsOf ((x.lineBytes u).map (fun b => (b.1, (0 : Byte)))))).bind
    (fun s _ => if x.dtagen then engProbe s q x.op (x.tagPlace u) [(0, [0, 0])] else .ok s ())

/-- Write one line, its tag, and make it present. -/
def CubeOp.writeLine (s : State) (x : CubeOp) (core u : Nat) : Eng CubeOp :=
  let q := coreReq core x.owner x.vgid 2 x.op .write
  let d := x.lineData s core (x.lineBytes u)
  let p := x.dest s core (u * x.lineSize)
  (engWrite s q x.op p (runsOf d.1)).bind (fun s lns =>
    (if x.dtagen then engWrite s q x.op (x.tagPlace u) [(0, leBytes 2 d.2.2.code)] else .ok s []).bind (fun s tl =>
      .ok ((s.setPresence p 1 true).engFlags core x.vgid x.warp d.2.1) { x with wrote := lns ++ tl ++ x.wrote }))

/-- One block of a write-out: every line whose last byte it brings. Nothing is written until all of it can be, so that a
cancel discards a block in progress (R270). -/
def CubeOp.runBlock (s : State) (x : CubeOp) (core : Nat) : Eng CubeOp :=
  let us := x.dueLines
  (us.foldl (fun (e : Eng Unit) u => e.bind (fun s _ => x.probeLine s core u)) (.ok s ())).bind (fun s _ =>
    (us.foldl (fun (e : Eng CubeOp) u => e.bind (fun s x => x.writeLine s core u)) (.ok s x)).bind (fun s x =>
      .ok s { x with pass := x.pass + 1 }))

/-! ### Steps of the array -/

/-- Put an operation back in its queue. -/
def State.putCube (s : State) (core : Nat) (x : CubeOp) : State :=
  s.setQueue core (fun q => q.map (fun y => if y.op = x.op then x else y))

/-- Spares of a quad that columns have been mapped to (R254). -/
def sparesUsed (sp : List Nat) (p : Nat) : Nat := (sp.filter (fun q => q / 64 == p / 64)).length

/-- Map columns to free spares of their quads, each to one of its own: the spares then in use, and the columns that find none
(R254, R255). -/
def takeSpares (sp : List Nat) : List Nat → List Nat × List Nat
  | [] => (sp, [])
  | p :: r =>
    if sparesUsed sp p < 4 then takeSpares (sp ++ [p]) r
    else let y := takeSpares sp r; (y.1, p :: y.2)

/-- A pass whose checks mismatch in the listed columns (R254): replayed, with a column retired that mismatches twice; the
operation fails when its quad has no spare left (R255). Counts and retirements go to the error log. -/
def CubeOp.mismatch (s : State) (x : CubeOp) (core : Nat) (cols : List Nat) : State :=
  let twice := (cols.filter x.badCols.contains).eraseDups
  let c := s.cores.get core
  let r := takeSpares c.spares twice
  let mapped := twice.filter (fun p => !r.2.contains p)
  let retires := c.retires + mapped.length
  let replays := if r.2 = [] then c.replays + 1 else c.replays
  let log := mapped.map (fun p => [1, core, p / 64, p % 64]) ++ [[2, core, replays], [3, core, retires]]
  let here := ((s.wgs.filter (fun e => e.2.core == core && (e.2.phase == .resident || e.2.phase == .stopping))).map (·.2.launch)).eraseDups
  let s := s.setCore core (fun c => { c with
    replays := replays, retires := retires, spares := r.1, spent := if r.2 = [] ∨ c.spent.isSome then c.spent else some here })
  let s := { s with crucible := { s.crucible with errorLog := s.crucible.errorLog ++ log } }
  if r.2 ≠ [] then x.failed s core 1 false
  else s.putCube core { x with badCols := cols.filter (fun p => !twice.contains p), replay := true }

/-- CUBE_PASS: the running operation of a core's queue does its next pass or block. `mismatch` names the output positions
whose residue checks fail; `ecc` says that an operand or accumulator read meets an uncorrectable error (R255). (DEDUCED, log 67) -/
def execCubePass (core : Nat) (mismatch : List Nat) (ecc : Bool) (s : State) : Host.Outcome State Fault Refusal :=
  match (s.cores.get core).cube with
  | [] => .next s
  | x :: _ =>
    if !x.ready || x.total ≤ x.pass || ((s.wgs.get x.vgid).phase == .stopping && !x.replay) then .next s
    else if x.refused then .next (x.failed s core (if x.isOut then 3 else 7) false)
    else if x.pass = 0 ∧ isFrozen s x.owner (dieOfCore core) then .next s
    else if ecc then .next (x.failed s core 2 false)
    else if x.isOut then
      match x.runBlock s core with
      | .ok s' x' => finish (s'.putCube core x')
      | .wait s' => finish s'
      | .fail s' _ race => finish (x.failed s' core (if race then 4 else 3) race)
    else
      match x.runPass s core with
      | .ok s' x' => if mismatch = [] then finish (s'.putCube core x') else finish (x.mismatch s core (mismatch.map (· % 256)))
      | .wait s' => finish s'
      | .fail s' _ race => finish (x.failed s' core 7 race)

/-- The operation is complete: its slot clears once no other operation of its instruction is left (R268). -/
def CubeOp.done (s : State) (x : CubeOp) (core : Nat) : State :=
  let s := (s.endCube core x).dropCredit (x.sent.getD 0)
  (s.setWg x.vgid (fun g => { g with cubeDone := (g.cubeDone + 1) % 256 })).endPid x.pid

/-- Every pass is written: the locks go, and the barrier is credited, which closes the lines (R27, R189, R268). A credit to another
core travels, and the operation waits for its answer. -/
def CubeOp.complete (s : State) (x : CubeOp) (core : Nat) : State :=
  let t := (s.unlockAll x.op (dieOfCore core)).showWrites x.owner x.wrote
  if !x.baren then x.done t core
  else
    match engCredit t core x.owner x.vgid x.warp x.op x.barsel x.baridx x.cra x.crb with
    | .overflow => x.failed s core 6 false
    | .dropped t => x.done t core
    | .done t => x.done (t.closeLines x.vgid x.wrote) core
    | .sent t id => t.putCube core { x with sent := some id }

/-- The answer to an operation's credit: one that would pass a field fails it (R268, R270). -/
def CubeOp.takeAnswer (s : State) (x : CubeOp) (core id : Nat) : State :=
  match creditAnswer s id with
  | none => s
  | some 2 => x.failed s core 6 false
  | some _ => x.done s core

/-- CUBE_OP_COMPLETE: every pass is written; locks, credit, slot (R268). -/
def execCubeOpComplete (core : Nat) (s : State) : Host.Outcome State Fault Refusal :=
  match (s.cores.get core).cube with
  | [] => .next s
  | x :: _ =>
    match x.sent with
    | some id => .next (x.takeAnswer s core id)
    | none =>
      if !x.ready || x.pass < x.total || !showFits s x.owner x.wrote (.bench 0) then .next s else .next (x.complete s core)

/-- Cancel operations of a core's queue that a condition names (R270). One whose credit has been answered is complete. -/
def State.cancelCubes (s : State) (core : Nat) (c : CubeOp → Bool) : State :=
  ((s.cores.get core).cube.filter c).foldl (fun s x =>
    match x.sent.bind (creditAnswer s) with
    | some _ => x.takeAnswer s core (x.sent.getD 0)
    | none => x.failed s core 5 false) s

/-! ### Accumulator access by threads (R272–R274) -/

/-- opnd(A) + off, modulo 2^64; a base `%lit` reads the literal that is also the offset. (DEDUCED, log 21) -/
def accAddr (s : State) (w : Nat) (f : F64) (lane : Nat) : Nat :=
  let off := if f.md.getLsbD 0 then f.c.toNat else (f.lit.getD 0).toNat
  ((opnd s w lane f.lit f.a.toNat).toNat + off) % 2 ^ 64

/-- Step 1 of R26 for an accumulator address. -/
def accCheck (s : State) (w n : Nat) (x : Nat × Nat) : List Raise :=
  let share := if isSup w then 0 else (s.wg w).accShare
  if x.2 % n ≠ 0 then [{ lane := x.1, bit := causeAlign, addr := x.2 }]
  else if x.2 / 2 ^ 17 ≠ 0 ∨ share < x.2 % 2 ^ 15 + n then [{ lane := x.1, bit := causeBounds, addr := x.2 }]
  else []

def accPlace (s : State) (w a : Nat) : Nat := accKey s (coreOf w) (s.warp w).vgid (a / 2 ^ 15) (a % 2 ^ 15)

/-- Whether accumulator bytes are locked: for a read, against reads. -/
def accLocked (s : State) (w key n : Nat) (writes : Bool) : Bool :=
  s.locks.any (fun k => k.space == .acc (coreOf w) && (writes || k.kind == .write) && decide (k.lo < key + n) && decide (key < k.hi))

/-- The checks of R272: causes, or none. -/
def accCauses (s : State) (w n : Nat) (writes : Bool) (xs : List (Nat × Nat)) : List Raise :=
  let bad := xs.flatMap (accCheck s w n)
  if bad ≠ [] then bad
  else xs.filterMap (fun x => if accLocked s w (accPlace s w x.2) n writes then
    some { lane := x.1, bit := causeRangelock, addr := x.2 } else none)

/-- What `cube.ard` reads in one lane. -/
def ardValue (sat : Bool) (s : State) (key : Nat) : Word × BitVec 9 :=
  let x0 := leNat (s.acc.getRange key 8)
  if !sat then (BitVec.ofNat 64 x0, 0)
  else
    let r0 := satInt true 32 (sextInt 64 x0)
    let r1 := satInt true 32 (sextInt 64 (leNat (s.acc.getRange (key + 8) 8)))
    (BitVec.ofNat 64 (wrapInt 32 r1.1 * 2 ^ 32 + wrapInt 32 r0.1), if r0.2 || r1.2 then flagSat else 0)

def cubeArdBody (f : F64) (s : State) (gl : List Nat) : Res :=
  let w := s.cur.warp
  let sat := f.md.getLsbD 1
  let n := if sat then 16 else 8
  let xs := gl.map (fun l => (l, accAddr s w f l))
  let rs := accCauses s w n false xs
  if rs ≠ [] then .trap rs
  else slottedBody .memory f (fun s l =>
    let v := ardValue sat s (accPlace s w (accAddr s w f l))
    ([(f.d.toNat, v.1)], v.2)) s gl

def execCubeArd (f : F64) (s : State) : Host.Outcome State Fault Refusal :=
  .next (issue { hdrOf (.cubeArd f) f with mem := true } (cubeArdBody f) s)

/-- The writes of `cube.awr` happen at issue, in increasing lane order; a slot clears when the bank has accepted them. -/
def cubeAwrBody (f : F64) (s : State) (gl : List Nat) : Res :=
  let w := s.cur.warp
  let xs := gl.map (fun l => (l, accAddr s w f l))
  let rs := accCauses s w 8 true xs
  if rs ≠ [] then .trap rs
  else
    let s' := xs.foldl (fun t x =>
      { t with acc := t.acc.setRange (accPlace s w x.2) (leBytes 8 (opnd s w x.1 f.lit f.b.toNat).toNat) }) s
    if f.set = 0 then .next s' else .next (startPending s' .memory f.set.toNat gl 0 .slotOnly)

def execCubeAwr (f : F64) (s : State) : Host.Outcome State Fault Refusal :=
  .next (issue { hdrOf (.cubeAwr f) f with mem := true } (cubeAwrBody f) s)

/-- The causes of `cube.azero` in one lane (R273). -/
def azeroCauses (s : State) (w : Nat) (x : Nat × Nat × Nat) : List Raise :=
  let share := if isSup w then 0 else (s.wg w).accShare
  if x.2.1 % 64 ≠ 0 ∨ x.2.2 % 64 ≠ 0 then [{ lane := x.1, bit := causeAlign, addr := x.2.1 }]
  else if x.2.1 / 2 ^ 15 ≠ 0 ∨ share < x.2.1 + x.2.2 then [{ lane := x.1, bit := causeBounds, addr := x.2.1 }]
  else []

/-- The first byte of a lane's range that is locked in some quad's share (R198). -/
def azeroLocked (s : State) (w : Nat) (x : Nat × Nat × Nat) : Option Nat :=
  ((List.range 4).flatMap (fun q =>
    let key := accKey s (coreOf w) (s.warp w).vgid q x.2.1
    (s.locks.filter (fun k => x.2.2 != 0 && k.space == .acc (coreOf w) && decide (k.lo < key + x.2.2) && decide (key < k.hi))).map (fun k =>
      x.2.1 + (k.lo - key)))).min?

def cubeAzeroBody (f : F64) (s : State) (gl : List Nat) : Res :=
  let w := s.cur.warp
  let xs := gl.map (fun l => (l, (opnd s w l f.lit f.a.toNat).toNat, (opnd s w l f.lit f.b.toNat).toNat))
  let bad := xs.flatMap (azeroCauses s w)
  let locked := xs.filterMap (fun x => (azeroLocked s w x).map (fun a => ({ lane := x.1, bit := causeRangelock, addr := a } : Raise)))
  if bad ≠ [] then .trap bad
  else if locked ≠ [] then .trap locked
  else
    .next (xs.foldl (fun t x => (List.range 4).foldl (fun t q =>
      { t with acc := t.acc.fill (accKey s (coreOf w) (s.warp w).vgid q x.2.1) x.2.2 0 }) t) s)

def execCubeAzero (f : F64) (s : State) : Host.Outcome State Fault Refusal :=
  .next (issue { hdrOf (.cubeAzero f) f with mem := true } (cubeAzeroBody f) s)

/-! ### `cube.bld` and `cube.query` (R275, R276) -/

/-- Each lane loads `n` registers: 8 bytes at opnd(A) + 256·r + 8·lane. -/
def cubeBldBody (f : F64) (s : State) (gl : List Nat) : Res :=
  let w := s.cur.warp
  let n := f.c.toNat
  let xs := gl.flatMap (fun l => (List.range n).map (fun r =>
    ((l, ((opnd s w l f.lit f.a.toNat).toNat + 256 * r + 8 * l) % 2 ^ 64), f.d.toNat + r)))
  afterChecks (checkAccess s w .bench .read 8 8 false (xs.map (·.1))) (fun s gs =>
    let ws := (gs.zip (xs.map (·.2))).map (fun x =>
      (x.1.lane, x.2, BitVec.ofNat 64 (leNat (readAt s w x.1.loc 8).1)))
    if f.set = 0 then .next (ws.foldl (fun s x => s.writeD w x.1 x.2.1 x.2.2) s)
    else .next (startPending s .memory f.set.toNat gl 0 (.writeRegs ws)))

def execCubeBld (f : F64) (s : State) : Host.Outcome State Fault Refusal :=
  .next (issue { hdrOf (.cubeBld f) f with mem := true } (cubeBldBody f) s)

/-- The status word of R276. -/
def cubeQueryWord (s : State) (w : Nat) : Nat :=
  let q := (s.cores.get (coreOf w)).cube
  let g := s.wg w
  let mine := fun (x : CubeOp) => !isSup w && x.vgid == (s.warp w).vgid
  g.cubeErr * 2 ^ 16 + g.cubeDone * 2 ^ 8 + b2n ((q.head?.map (fun x => mine x && x.ready)).getD false) * 2 ^ 7 + (q.filter mine).length * 2 ^ 4 +
    (4 - q.length)

def cubeQueryBody (f : F64) (s : State) (gl : List Nat) : Res :=
  .next (writeLanes s s.cur.warp f.d.toNat (gl.map (fun l => (l, BitVec.ofNat 64 (cubeQueryWord s s.cur.warp)))))

def execCubeQuery (f : F64) (s : State) : Host.Outcome State Fault Refusal :=
  .next (issue (hdrOf (.cubeQuery f) f) (cubeQueryBody f) s)

end Sys2Proof.Machine
end

