-- ==== Sys2Proof/Machine/Collective.lean ====
section
/-! DEFINITION. Collective operations (R300–R308, R310, R312): the descriptor and its checks, matching ranks, the sums,
completion and failure. Ranks on this device meet on the I/O die; other ranks' contributions come through KDT. -/

namespace Sys2Proof.Machine

/-! ### The descriptor (R300, R301) -/

/-- A field of a descriptor. -/
def dfield (d : List Word) (hi lo : Nat) : Nat := bitsOf (bigOf d) hi lo

def CollOp.f (x : CollOp) (hi lo : Nat) : Nat := dfield x.desc hi lo
def CollOp.dtag (x : CollOp) : Nat := x.f 567 512
def CollOp.stag (x : CollOp) : Nat := x.f 503 448
def CollOp.ctr (x : CollOp) : Nat := x.f 439 384
def CollOp.tmo (x : CollOp) : Nat := x.f 383 368
def CollOp.group (x : CollOp) : Nat := x.f 367 336
def CollOp.nrank (x : CollOp) : Nat := x.f 335 320
def CollOp.rtab (x : CollOp) : Nat := x.f 311 256
def CollOp.count (x : CollOp) : Nat := x.f 231 192
def CollOp.dst (x : CollOp) : Nat := x.f 183 128
def CollOp.src (x : CollOp) : Nat := x.f 119 64
def CollOp.valid (x : CollOp) : Bool := x.f 63 63 == 1
def CollOp.kind (x : CollOp) : Nat := x.f 62 60
def CollOp.etype (x : CollOp) : Nat := x.f 59 56
def CollOp.dfmt (x : CollOp) : Nat := x.f 55 50
def CollOp.rmode (x : CollOp) : RMode := .ofBits (x.f 49 48)
def CollOp.baren (x : CollOp) : Bool := x.f 46 46 == 1
def CollOp.barsel (x : CollOp) : Nat := x.f 45 43
def CollOp.baridx (x : CollOp) : Nat := x.f 42 37
def CollOp.root (x : CollOp) : Nat := x.f 31 16
def CollOp.rank (x : CollOp) : Nat := x.f 15 0

def kSum : Nat := 0
def kBsum : Nat := 1
def kBcast : Nat := 2
def kGather : Nat := 3
def kRsum : Nat := 4

/-- Bytes of an element: a block or line for `bsum`, `bcast` and `gather`. -/
def CollOp.esz (x : CollOp) : Nat :=
  if x.kind = kSum ∨ x.kind = kRsum then (if x.etype = 2 then 8 else 4) else 64

/-- Source bytes that this rank brings. -/
def CollOp.srcBytes (x : CollOp) : Nat :=
  if x.kind = kBcast then (if x.rank = x.root then x.count else 0)
  else if x.kind = kGather then x.count else x.count * x.esz
def CollOp.stagBytes (x : CollOp) : Nat := if x.kind = kBsum then 2 * x.count else 0

/-- Destination bytes (R301). -/
def CollOp.dstBytes (x : CollOp) : Nat :=
  match x.kind with
  | 1 => if x.dfmt = 1 then 256 * x.count else 64 * x.count
  | 2 => x.count
  | 3 => x.nrank * x.count
  | 4 => x.count / x.nrank * x.esz
  | _ => x.count * x.esz
def CollOp.dtagBytes (x : CollOp) : Nat := if x.dtag = 0 then 0 else tagBytes x.dstBytes

/-! ### Checks (R306, R307) -/

def CollOp.srcR (x : CollOp) : Int × Int := (x.src, x.src + x.srcBytes)
def CollOp.stagR (x : CollOp) : Int × Int := (x.stag, x.stag + x.stagBytes)
def CollOp.dstR (x : CollOp) : Int × Int := (x.dst, x.dst + x.dstBytes)
def CollOp.dtagR (x : CollOp) : Int × Int := (x.dtag, x.dtag + x.dtagBytes)

/-- Whether the operation runs in place (R307). -/
def CollOp.inPlace (x : CollOp) : Bool :=
  match x.kind with
  | 0 | 2 | 4 => x.dst == x.src
  | 1 => x.dst == x.src && x.dfmt != 1 && (x.dtag == 0 || x.dtag == x.stag)
  | 3 => x.src == x.dst + x.rank * x.count
  | _ => false

/-- Whether the source ranges meet the destination ranges other than as R307 allows. -/
def CollOp.overlaps (x : CollOp) : Bool :=
  let sd := rangesMeet x.srcR x.dstR && x.srcBytes != 0
  let tt := rangesMeet x.stagR x.dtagR && x.stagBytes != 0 && x.dtagBytes != 0
  let cross := (rangesMeet x.srcR x.dtagR && x.dtagBytes != 0) || (rangesMeet x.stagR x.dstR && x.stagBytes != 0)
  cross || (sd && !x.inPlace) || (tt && !(x.inPlace && x.dtag == x.stag))

def CollOp.reserved (x : CollOp) : Bool :=
  [(1023, 568), (511, 504), (447, 440), (319, 312), (255, 232), (191, 184), (127, 120), (47, 47), (36, 32)].any (fun r =>
    x.f r.1 r.2 != 0)

/-- ETYPE, DFMT, RMODE, STAG, DTAG and ROOT values that the operation does not allow. -/
def CollOp.badKind (x : CollOp) : Bool :=
  let sum := x.kind == kSum || x.kind == kRsum
  decide (4 < x.kind) || (if sum then decide (2 < x.etype) else x.etype != 0) ||
  (if x.kind == kBsum then !([1, 4, 5, 8].contains x.dfmt) || (x.dtag == 0 && x.dfmt != 1)
   else x.dfmt != 0 || x.f 49 48 != 0 || x.stag != 0 || x.dtag != 0) ||
  (x.kind != kBcast && x.root != 0)

def CollOp.refused? (s : State) (x : CollOp) : Bool :=
  !x.valid || x.reserved || x.badKind || x.count == 0 || x.nrank == 0 ||
  ((x.kind == kBcast || x.kind == kGather) && x.count % 64 != 0) || (x.kind == kRsum && x.count % x.nrank != 0) ||
  decide (x.nrank ≤ x.rank) || decide (x.nrank ≤ x.root) || x.vgid == 0 ||
  (x.baren && (decide (5 ≤ x.barsel) ||
    (x.barsel != 0 && x.barsel < 5 && (creditEntry s x.vgid x.barsel 0).isNone) || (x.barsel != 0 && x.baridx != 0))) ||
  meetsZone s x.owner x.dst x.dstBytes || (x.dtagBytes != 0 && meetsZone s x.owner x.dtag x.dtagBytes) || x.overlaps

def CollOp.misaligned (x : CollOp) (at_ : Nat) : Bool :=
  at_ % 64 != 0 || x.src % x.esz != 0 || x.dst % x.esz != 0 || x.rtab % 32 != 0 || x.stag % 2 != 0 || x.dtag % 2 != 0 ||
  x.ctr % 16 != 0

def CollOp.outOfBounds (s : State) (x : CollOp) : Bool :=
  let past := fun a n => decide (2 ^ 56 < a + n)
  past x.src x.srcBytes || past x.dst x.dstBytes || past x.stag x.stagBytes || past x.dtag x.dtagBytes ||
  past x.rtab (32 * x.nrank) || past x.ctr 16 ||
  (x.baren && x.barsel == 0 && decide ((s.wgs.get x.vgid).bars.length ≤ x.baridx))

/-- The first cause of R306. -/
def CollOp.refusal (s : State) (x : CollOp) (at_ : Nat) : Option Nat :=
  if x.refused? s then some causeEngine
  else if x.misaligned at_ then some causeAlign
  else if x.outOfBounds s then some causeBounds
  else none

/-! ### Acceptance (R306, R310) -/

/-- The locks of an operation: SRC 0, DST 1, STAG 2, DTAG 3, RTAB 4, CTR 5; a range run in place is locked for writing only. -/
def CollOp.locks (x : CollOp) : List RLock :=
  let mk := fun rid kind a n => if n = 0 then [] else [mkLock x.op rid x.die x.owner kind (.glob a) n]
  let inSrc := x.inPlace && x.kind != kRsum && x.kind != kGather
  (if x.inPlace && x.kind == kRsum then mk 0 .read (x.src + x.dstBytes) (x.srcBytes - x.dstBytes)
   else if inSrc || (x.inPlace && x.kind == kGather) then [] else mk 0 .read x.src x.srcBytes) ++
  mk 1 .write x.dst x.dstBytes ++
  (if x.inPlace && x.dtag == x.stag then [] else mk 2 .read x.stag x.stagBytes) ++
  mk 3 .write x.dtag x.dtagBytes ++ mk 4 .read x.rtab (32 * x.nrank) ++ (if x.ctr = 0 then [] else mk 5 .counter x.ctr 16)

/-- The operation that a descriptor starts. -/
def newColl (s : State) (w : Nat) (desc : List Word) : CollOp :=
  { op := s.serial, die := dieOf w, vgid := (s.warp w).vgid, owner := (s.warp w).owner, warp := (s.warp w).index, desc := desc,
    ranks := [], seq := 0, mine := false, used := [], pages := [], wrote := [], sent := none, refused := false, told := false,
    ended := none }

/-- The key by which an owner numbers the operations that a die issues on a GROUP and rank (R303). -/
def CollOp.seqKey (x : CollOp) : Nat := x.die * 2 ^ 48 + x.group * 2 ^ 16 + x.rank

/-- Take a place and the locks, or none while there is no place or entry. -/
def acceptColl (s : State) (w : Nat) (desc : List Word) : Option State :=
  let x := newColl s w desc
  let mine := s.colls.filter (fun y => y.die == x.die)
  if 256 ≤ mine.length ∨ 64 ≤ (mine.filter (fun y => y.owner == x.owner)).length ∨ !locksFit s x.die x.owner x.locks then none
  else
    let n := (s.owners.get x.owner).collSeq.get x.seqKey
    let s := s.setOwner x.owner (fun o => { o with collSeq := o.collSeq.set x.seqKey (n + 1) })
    some { s with serial := s.serial + 1, locks := s.locks ++ x.locks, colls := s.colls ++ [{ x with seq := n }] }

def acceptColls (s : State) (w : Nat) : List (Nat × List Word) → State × List Nat
  | [] => (s, [])
  | x :: r =>
    match acceptColl s w x.2 with
    | none => (s, (x :: r).map (·.1))
    | some s' => acceptColls s' w r

/-- Read the descriptors of the lanes as the threads' accesses (R26). Where a lane's leaves the address space none is read, and each
lane records its own cause of the addressing step. -/
def readDescs (s : State) (w n : Nat) (xs : List (Nat × Nat)) (k : State → List (Nat × Nat × List Word) → Res) : Res :=
  let odd := xs.any (fun x => x.2 % 64 != 0)
  let z := if odd then 1 else 64
  let reads := xs.flatMap (fun x => (List.range (n / z)).map (fun i => (x.1, x.2 + z * i)))
  let beyond := fun (x : Nat × Nat) => decide (2 ^ 56 < x.2 + n)
  if xs.any beyond then
    .trap (xs.flatMap (fun x => if x.2 % 64 ≠ 0 then [{ lane := x.1, bit := causeAlign, addr := x.2 }]
      else if beyond x then [{ lane := x.1, bit := causeBounds, addr := x.2 }] else []))
  else afterChecks (checkAccess s w .global .read z 1 false reads) (fun s gs =>
    k s (xs.map (fun x =>
      let bs := (gs.filter (fun g => g.lane == x.1)).flatMap (fun g => (readAt s w g.loc z).1)
      (x.1, x.2, (List.range (n / 8)).map (fun j => BitVec.ofNat 64 (leNat ((bs.drop (8 * j)).take 8)))))))

/-- `coll.run`: descriptors are read and checked for every lane before any is accepted, and a lane that waits keeps its own.
ADDR of a misaligned descriptor is its address (R198). -/
def collRunBody (f : F64) (s : State) (gl : List Nat) : Res :=
  let w := s.cur.warp
  let old := askedLanes s w
  let ls := inOrder old gl
  let fresh := (ls.filter (fun l => (askedBy s w l).isNone)).map (fun l => (l, (opnd s w l f.lit f.a.toNat).toNat))
  readDescs s w 128 fresh (fun s xs =>
    let rs := xs.filterMap (fun x => ((newColl s w x.2.2).refusal s x.2.1).map (fun b =>
      ({ lane := x.1, bit := b, addr := if b = causeAlign ∧ x.2.1 % 64 ≠ 0 then x.2.1 else 0 } : Raise)))
    if rs ≠ [] then .trap rs
    else
      let ds := ls.map (fun l => (l, match askedBy s w l with
        | some a => a.words
        | none => ((xs.find? (fun x => x.1 == l)).map (·.2.2)).getD []))
      let r := acceptColls (s.release w scopePkg) w ds
      let done := ls.filter (fun l => !r.2.contains l)
      let asks := ds.map (fun d => ({ warp := w, lane := d.1, chan := 0, words := d.2 } : Asked))
      let rest := stillAsking old ls done
      let s := ((r.1.handSlot w f.set.toNat ls done rest).keepAsked w asks r.2).nudge w done rest
      .split (s.enterAll w (gl.filter rest.contains) .resource) (gl.filter (fun l => !done.contains l)))

def execCollRun (f : F64) (s : State) : Host.Outcome State Fault Refusal :=
  finish (issue { hdrOf (.collRun f) f with rel := some scopePkg } (collRunBody f) s)

/-! ### Reading and writing memory -/

def CollOp.req (s : State) (x : CollOp) (a : Acc) : XReq := dieReq s x.die x.owner x.vgid 3 (.engine x.op) a

/-- Cut `n` bytes at an address into runs that stay in their 64-byte lines. -/
def lineRuns (a n : Nat) : List (Nat × Nat) :=
  (List.range ((a + n + 63) / 64 - a / 64)).map (fun i =>
    let lo := max a ((a / 64 + i) * 64)
    (lo, min (a + n) ((a / 64 + i + 1) * 64) - lo))

/-- Read `n` bytes for the operation. -/
def CollOp.read (s : State) (x : CollOp) (a n : Nat) : Eng (List Byte) :=
  if n = 0 then .ok s []
  else
    (lineRuns a n).foldl (fun (e : Eng (List Byte)) r =>
      e.bind (fun s bs => (engRead s (x.req s .read) x.op (.glob r.1) r.2).bind (fun s cs => .ok s (bs ++ cs)))) (.ok s [])

/-- Write bytes for the operation, line by line. -/
def CollOp.write (s : State) (x : CollOp) (a : Nat) (bs : List Byte) : Eng Unit :=
  if bs = [] then .ok s ()
  else
    (lineRuns a bs.length).foldl (fun (e : Eng Unit) r =>
      e.bind (fun s _ => (engWrite s (x.req s .write) x.op (.glob r.1) [(0, (bs.drop (r.1 - a)).take r.2)]).bind (fun s _ =>
        .ok s ()))) (.ok s ())

/-- Whether an entry of the rank table is as R302 wants it: no reserved bit set, a die of 0 to 3, and for a rank on this device
no address. (DEDUCED, log 93) -/
def rankOk (e : Nat) : Bool :=
  bitsOf e 191 136 == 0 && decide (bitsOf e 135 128 < 4) && (bitsOf e 255 192 != 0 || bitsOf e 127 0 == 0)

/-- Read the rank table once (R302). An entry that R302 does not allow fails the operation. (DEDUCED, log 93) -/
def CollOp.readRanks (s : State) (x : CollOp) : Eng (List (Nat × Nat × Nat)) :=
  if x.ranks ≠ [] then .ok s x.ranks
  else
    (x.read s x.rtab (32 * x.nrank)).bind (fun s bs =>
      let es := (List.range x.nrank).map (fun i => leNat ((bs.drop (32 * i)).take 32))
      let rs := es.map (fun e => (bitsOf e 255 192, bitsOf e 135 128, bitsOf e 127 0))
      let s := s.onColl x.op (fun y => { y with ranks := rs })
      if es.all rankOk then .ok s rs else .fail s stFault false)

/-- Whether entry MYRANK names the issuing die of this device (R302). -/
def CollOp.atHome (x : CollOp) : Bool :=
  match x.ranks[x.rank]? with
  | some e => e.1 == 0 && e.2.1 == x.die
  | none => false

/-! ### KDT streams (R292, R293). What a stream carries is the engines' own: here the descriptor, the operation's number on
its rank, the source bytes and the source tags. A failed operation sends a descriptor with V clear. -/

def wordBytes (ws : List Word) : List Byte := ws.flatMap (fun w => leBytes 8 w.toNat)

def streamOf (c : Contrib) : List Byte :=
  let head := if c.failed then (match c.desc with
      | [] => []
      | w :: r => BitVec.ofNat 64 (w.toNat % 2 ^ 63) :: r) else c.desc
  wordBytes head ++ leBytes 8 c.seq ++ c.src ++ c.tags

/-- The contribution that a whole stream of a flow brings. -/
def contribOf (owner key : Nat) (bs : List Byte) : Contrib :=
  let desc := (List.range 16).map (fun k => BitVec.ofNat 64 (leNat ((bs.drop (8 * k)).take 8)))
  let tags := if dfield desc 62 60 = kBsum then 2 * dfield desc 231 192 else 0
  let body := bs.drop 136
  { owner := owner, group := dfield desc 367 336, rank := dfield desc 15 0, die := none, via := key, seq := leNat ((bs.drop 128).take 8), desc := desc,
    src := body.take (body.length - tags), tags := body.drop (body.length - tags), failed := dfield desc 63 63 == 0, taken := [] }

/-- Queue a stream's datagrams on a flow (R292, R293). -/
def Flow.sendStream (f : Flow) (opid : Nat) (bs : List Byte) : Flow :=
  let n := max 1 (ceilDiv bs.length 8960)
  let ds := (List.range n).map (fun i =>
    ({ type := 1, psn := 0, opid := opid % 2 ^ 32, offset := 8960 * i, last := i + 1 == n,
       bytes := (bs.drop (8960 * i)).take 8960, wire := [] } : Datagram))
  { f with queue := f.queue ++ ds }

/-- Whether a flow of an owner serves a flow-key handle. -/
def Flow.serves (f : Flow) (owner key : Nat) : Bool := f.live && f.owner == owner && f.key == key

def flowOf (s : State) (owner key : Nat) : Option (Nat × Flow) := s.flows.find? (fun e => e.2.serves owner key)

/-- Send a contribution to every rank that is on another device, each at the address of its entry. -/
def State.sendContrib (s : State) (x : CollOp) (c : Contrib) : State :=
  ((x.ranks.filter (fun e => e.1 != 0)).map (fun e => (e.1, e.2.2))).eraseDups.foldl (fun s k =>
    { s with flows := s.flows.map (fun e =>
        if e.2.serves x.owner k.1 then (e.1, { e.2 with addr := k.2 }.sendStream x.op (streamOf c)) else e) }) s

/-! ### Matching (R303) -/

/-- Whether a contribution is brought under rank `r` of an operation's match. -/
def Contrib.claims (c : Contrib) (x : CollOp) (r : Nat) : Bool :=
  c.owner == x.owner && c.group == x.group && c.rank == r && c.seq == x.seq

/-- Whether it comes from where the rank table says that the rank is: a die of this device, or another device (R302). -/
def Contrib.meets (c : Contrib) (x : CollOp) (r : Nat) : Bool :=
  c.claims x r && (match x.ranks[r]? with
    | some e => c.die == (if e.1 = 0 then some e.2.1 else none) && c.via == e.1
    | none => false)

/-- Whether an operation sees a contribution to its match: one of this device, or one that a flow of its rank table has brought.
A rank of another device sends one stream on each of its flows to this device (R302, R303). -/
def CollOp.sees (x : CollOp) (c : Contrib) : Bool :=
  c.owner == x.owner && c.group == x.group && c.seq == x.seq && (c.die.isSome || x.ranks.any (fun e => e.1 == c.via))

/-- Put a contribution on the board; a second one of the same rank from the same place makes both fail. -/
def State.board (s : State) (c : Contrib) : State :=
  let same := fun (d : Contrib) => d.owner == c.owner && d.group == c.group && d.rank == c.rank && d.seq == c.seq &&
    d.die == c.die && d.via == c.via
  if s.contribs.any same then
    { s with contribs := s.contribs.map (fun d => if same d then { d with failed := true } else d) }
  else { s with contribs := s.contribs ++ [c] }

/-- What the operation brings to its match. -/
def CollOp.contrib (x : CollOp) (src tags : List Byte) (failed : Bool) : Contrib :=
  { owner := x.owner, group := x.group, rank := x.rank, die := some x.die, via := 0, seq := x.seq, desc := x.desc, src := src, tags := tags,
    failed := failed, taken := [] }

/-- Read this rank's tags and then its source, and send them (R108, R303). -/
def CollOp.contribute (s : State) (x : CollOp) : Eng Unit :=
  if x.mine then .ok s ()
  else
    (x.read s x.stag x.stagBytes).bind (fun s tags =>
      (x.read s x.src x.srcBytes).bind (fun s src =>
        let c := x.contrib src tags false
        .ok (((s.board c).sendContrib x c).onColl x.op (fun y => { y with mine := true })) ()))

/-- Whether a matched operation agrees with this one in what R303 lists. -/
def CollOp.agrees (x : CollOp) (c : Contrib) : Bool :=
  [(62, 60), (59, 56), (231, 192), (335, 320), (31, 16), (55, 50), (49, 48)].all (fun r =>
    dfield c.desc r.1 r.2 == x.f r.1 r.2)

/-- The contributions in rank order, as far as they have come. -/
def CollOp.gathered (s : State) (x : CollOp) : List (Option Contrib) :=
  (List.range x.nrank).map (fun r => s.contribs.find? (fun c => c.meets x r))

/-- Whether some contribution or flow makes the operation fail: one that failed, one that does not agree, two of one rank, or a flow
that failed (R303). -/
def CollOp.broken (s : State) (x : CollOp) : Bool :=
  let cs := s.contribs.filter x.sees
  cs.any (fun c => c.failed || !x.agrees c || cs.any (fun d => d.rank == c.rank && (d.die != c.die || d.via != c.via))) ||
  x.ranks.any (fun e => e.1 != 0 && (match flowOf s x.owner e.1 with
    | some f => f.2.failed
    | none => true))

/-! ### Results (R301, R304, R305) -/

/-- Element `i` of `n` bytes. -/
def elemAt (bs : List Byte) (i n : Nat) : Nat := leNat ((bs.drop (n * i)).take n)

/-- The exponent of the least power of two that is at least `n`. -/
def log2Up (n : Nat) : Nat := if n ≤ 1 then 0 else Nat.log2 (n - 1) + 1

/-- The sum of one element over the ranks in rank order (R304). -/
def sumTerms (etype : Nat) (xs : List Nat) : Nat × BitVec 9 :=
  match etype with
  | 0 =>
    let n := 2 ^ log2Up xs.length
    treeF (addF .f32 .rne false) (log2Up xs.length) (xs ++ List.replicate (n - xs.length) (zeroF .f32 true))
  | 1 => (xs.foldl (· + ·) 0 % 2 ^ 32, 0)
  | _ => (xs.foldl (· + ·) 0 % 2 ^ 64, 0)

/-- `sum` and `rsum`: elements from `first` on. -/
def CollOp.sums (x : CollOp) (cs : List Contrib) (first n : Nat) : List Byte × BitVec 9 :=
  (List.range n).foldl (fun (acc : List Byte × BitVec 9) i =>
    let r := sumTerms x.etype (cs.map (fun c => elemAt c.src (first + i) x.esz))
    (acc.1 ++ leBytes x.esz r.1, acc.2 ||| r.2)) ([], 0)

/-- A rank's source block: its key, its exact elements without the scale, FORMAT (R305). -/
structure SumBlock where
  key   : Option Nat
  scale : Nat
  elems : List FNum
  flags : BitVec 9
deriving DecidableEq, Repr

/-- The range exponents T. -/
def rangeExp (fmt : Nat) : Nat := if fmt = 5 then 16 else if fmt = 4 then 9 else 8

def sumBlock (c : Contrib) (b : Nat) : SumBlock :=
  let t := tagOf (elemAt c.tags b 2)
  let none_ := fun fl => ({ key := none, scale := 127, elems := [], flags := fl } : SumBlock)
  if t.z then none_ 0
  else if t.fmt ≠ 4 ∧ t.fmt ≠ 5 ∧ t.fmt ≠ 8 then none_ flagFormat
  else
    let bytes := (c.src.drop (64 * b)).take 64
    let es := bytes.map (fun x => match t.fmt with
      | 4 => unpackF .e4m3 x.toNat
      | 5 => unpackF .e5m2 x.toNat
      | _ => intF (sextInt 8 x.toNat))
    let odd := es.any (fun e => match e with
      | .fin _ _ _ => false
      | _ => true)
    { key := some (t.scale + rangeExp t.fmt), scale := t.scale, elems := es, flags := if odd && !t.nf then flagFormat else 0 }

/-- The class code of an element. -/
def classCode (x : FNum) : Nat :=
  match x with
  | .fin _ _ _ => 0
  | .inf false => 1
  | .inf true => 2
  | .nan _ _ => 3

/-- A rank's integer on the grid of K. -/
def gridInt (scale key : Nat) (x : FNum) : Int :=
  match x with
  | .fin n m e =>
    let r := roundAt .rne n m (e + ((scale : Int) - key + 23)) false 0
    if n then -(r.1 : Int) else r.1
  | _ => 0

/-- Element `i` of the sum of the ranks' blocks, as an exact value. -/
def bsumElem (bs : List SumBlock) (key i : Nat) : FNum :=
  let xs := (bs.filter (fun b => b.key.isSome)).map (fun b => (b, b.elems.getD i (.fin false 0 0)))
  let code := xs.foldl (fun c x => c ||| classCode x.2) 0
  match code with
  | 0 =>
    let sum := sumInts (xs.map (fun x => gridInt x.1.scale key x.2))
    .fin (decide (sum < 0)) sum.natAbs ((key : Int) - 150)
  | 1 => .inf false
  | 2 => .inf true
  | _ => .nan false 0

/-- A value into the destination format at a scale; a NaN becomes the default NaN with INVALID (R94, R100). -/
def putSum (dfmt : Nat) (mode : RMode) (ed : Nat) (v : FNum) : Nat × BitVec 9 :=
  let scaled := match v with
    | .fin n m e => .fin n m (e + 127 - ed)
    | x => x
  let flt := fun (t : Fmt) => match v with
    | .nan _ _ => (t.defNan, flagInvalid)
    | _ => packF t mode scaled
  match dfmt with
  | 1 => flt .f32
  | 4 => flt .e4m3
  | 5 => flt .e5m2
  | _ => toIntF true 8 mode scaled

/-- One block of `bsum`: its bytes, its tags and its flags. -/
def bsumBlock (dfmt : Nat) (mode : RMode) (bs : List SumBlock) : List Byte × List Byte × BitVec 9 :=
  let keys := bs.filterMap (·.key)
  let vals := match keys.max? with
    | none => List.replicate 64 (FNum.fin false 0 0)
    | some k => (List.range 64).map (bsumElem bs k)
  let kind := match tagFmt dfmt with
    | some f => f.kind
    | none => .flt .f32
  let ed := if dfmt = 1 then 127 else chooseScale kind vals
  let codes := vals.map (putSum dfmt mode ed)
  let n := if dfmt = 1 then 4 else 1
  let tag := fun (cs : List (Nat × BitVec 9)) =>
    ({ scale := ed, fmt := dfmt, z := cs.all (fun c => codeZero kind c.1), nf := cs.any (fun c => codeNonFinite kind c.1) } : Tag)
  let tags := (List.range n).flatMap (fun j => leBytes 2 (tag ((codes.drop (64 / n * j)).take (64 / n))).code)
  (codes.flatMap (fun c => leBytes n c.1), tags, codes.foldl (fun fl c => fl ||| c.2) 0)

/-- What the rank writes: destination bytes, tag bytes, flags for its issuing warp. -/
def CollOp.result (x : CollOp) (cs : List Contrib) : List Byte × List Byte × BitVec 9 :=
  match x.kind with
  | 1 =>
    (List.range x.count).foldl (fun (acc : List Byte × List Byte × BitVec 9) b =>
      let r := bsumBlock x.dfmt x.rmode (cs.map (fun c => sumBlock c b))
      let own := (cs.filter (fun c => c.rank == x.rank)).foldl (fun fl c => fl ||| (sumBlock c b).flags) 0
      (acc.1 ++ r.1, acc.2.1 ++ r.2.1, acc.2.2 ||| r.2.2 ||| own)) ([], [], 0)
  | 2 => ((cs.filter (fun c => c.rank == x.root)).flatMap (·.src), [], 0)
  | 3 => (cs.flatMap (·.src), [], 0)
  | 4 =>
    let n := x.count / x.nrank
    let r := x.sums cs (x.rank * n) n
    (r.1, [], r.2)
  | _ =>
    let r := x.sums cs 0 x.count
    (r.1, [], r.2)

/-! ### Completion and failure (R308) -/

/-- The ranks of an operation that are on this device. -/
def CollOp.locals (x : CollOp) : List Nat := (List.range x.ranks.length).filter (fun r => ((x.ranks.getD r default).1) == 0)

/-- An operation leaves the engine; contributions that every rank here has taken go. -/
def State.endColl (s : State) (x : CollOp) : State :=
  let mine := fun (c : Contrib) => c.owner == x.owner && c.group == x.group && c.seq == x.seq
  let cs := s.contribs.map (fun c => if mine c then { c with taken := x.rank :: c.taken } else c)
  let cs := cs.filter (fun c => !(mine c && x.ranks != [] && x.locals.all c.taken.contains))
  let s := { s with contribs := cs, colls := s.colls.filter (fun y => y.op != x.op) }
  ((s.dropReqs (· == .engine x.op)).post (.engineResourceFreed x.die)).opEnded x.op

/-- A failure: its status, and its peers fail (R303, R308). A credit that still travels is withdrawn. -/
def CollOp.fail (s : State) (x : CollOp) (bit : Nat) (race : Bool) : State :=
  let c := x.contrib [] [] true
  let mine := fun (d : Contrib) => d.claims x x.rank && d.die == c.die
  let s := if s.contribs.any mine then { s with contribs := s.contribs.map (fun d => if mine d then { d with failed := true } else d) }
    else s.board c
  let s := ((s.sendContrib x c).unlockAll x.op x.die).dropCredit ((x.sent.map (·.1)).getD 0)
  s.onColl x.op (fun y => { y with
    mine := true, sent := none, refused := false, told := !x.ranks.isEmpty, ended := some (bit, race, x.baren && bit != stCancelled) })

/-- Finish a failed operation: the peers of one that failed before it had read its rank table are told, unless the table cannot be
read. Then the status bit is set, unless the counter's translation is refused, and the causes are recorded. -/
def CollOp.settle (s : State) (x : CollOp) (bit : Nat) (race engine : Bool) : State :=
  let core := (s.wgs.get x.vgid).core
  let fin := fun (s : State) (x : CollOp) =>
    let s := if race then s.engCause core x.vgid x.warp causeMemrace else s
    (if engine then s.engCause core x.vgid x.warp causeEngine else s).endColl x
  let status := fun (s : State) (x : CollOp) (refused : Bool) =>
    if x.ctr = 0 ∨ refused then fin s x
    else
      match engCounterStatus s (x.req s .atomic) x.ctr bit with
      | .ok s _ => fin s x
      | .fail s _ _ => fin s x
      | .wait s => s
  let told := fun (s : State) => s.onColl x.op (fun y => { y with told := true, refused := false })
  if x.told then status s x x.refused
  else if x.refused then status (told s) x false
  else
    match x.readRanks s with
    | .wait s => s
    | .fail s _ _ => status (told s) x false
    | .ok s rs => let y := { x with ranks := rs }; status (told (s.sendContrib y (y.contrib [] [] true))) y false

/-- The operation is complete but for its addition, which follows and closes the lines that it opened (R189, R308). -/
def CollOp.finish (s : State) (x : CollOp) (l : Loc) (dropped : Bool) : State :=
  let s := if x.ctr = 0 then s
    else ((if dropped then s.engDrop x.die x.owner l 0 else s).closeLines x.vgid x.wrote).engAdd x.die x.owner l x.dstBytes
  s.endColl x

/-- The result has landed: the locks go, and the barrier is credited (R308). While the credit travels, the operation has translated
its counter's page (R226). -/
def CollOp.complete (s : State) (x : CollOp) (l : Loc) : State :=
  let core := (s.wgs.get x.vgid).core
  let t := (s.unlockAll x.op x.die).showWrites x.owner x.wrote
  if !x.baren then x.finish t l false
  else
    match engCredit t core x.owner x.vgid x.warp x.op x.barsel x.baridx 1 0 with
    | .overflow => x.fail s stFault false
    | .dropped t => x.finish t l true
    | .done t => x.finish (t.closeLines x.vgid x.wrote) l false
    | .sent t id => t.onColl x.op (fun y => { y with sent := some (id, l) })

/-- The answer to the credit has come (R19, R308). -/
def CollOp.takeAnswer (s : State) (x : CollOp) (r : Nat × Loc) : State :=
  match creditAnswer s r.1 with
  | none => s
  | some 0 => x.finish (s.dropCredit r.1) r.2 false
  | some 1 => x.finish (s.dropCredit r.1) r.2 true
  | some _ => x.fail s stFault false

/-- An operation where it stands. -/
def collOf (s : State) (op : Nat) : Option CollOp := s.colls.find? (fun x => x.op == op)

/-- Land the result: the counter must be reachable before anything is written. -/
def CollOp.land (s : State) (x : CollOp) (cs : List Contrib) : Eng Loc :=
  let r := x.result cs
  (if x.ctr = 0 then Eng.ok s (Loc.bench 0) else engLoc s (x.req s .atomic) (.glob x.ctr)).bind (fun s l =>
    let s := if x.ctr = 0 then s else s.noteUse x.op (.glob x.ctr) l
    (x.write s x.dst r.1).bind (fun s _ =>
      (x.write s x.dtag (if x.dtag = 0 then [] else r.2.1)).bind (fun s _ =>
        .ok (s.engFlags (s.wgs.get x.vgid).core x.vgid x.warp r.2.2) l)))

/-- The rank table and the operation's own contribution. -/
def CollOp.prepare (s : State) (x : CollOp) : Eng Unit :=
  (x.readRanks s).bind (fun s rs =>
    let x := { x with ranks := rs }
    if x.atHome then x.contribute s else .fail s stFault false)

/-- Fail an operation as it stands now. -/
def State.failColl (s : State) (op bit : Nat) (race : Bool) : State :=
  match collOf s op with
  | some x => x.fail s bit race
  | none => s

/-- One step of an operation: the rank table, its own contribution, then the result once every rank has contributed. A full parking
buffer holds back a result that it would have to take (R404). -/
def CollOp.advance (s : State) (x : CollOp) : State :=
  match x.prepare s with
  | .wait s' => s'
  | .fail s' bit race => s'.failColl x.op bit race
  | .ok s1 _ =>
    match collOf s1 x.op with
    | none => s1
    | some x1 =>
      let cs := x1.gathered s1
      if x1.broken s1 then x1.fail s1 stFault false
      else if cs.any (·.isNone) then s1
      else
        match x1.land s1 (cs.filterMap id) with
        | .wait s' => s'
        | .fail s' bit race => s'.failColl x.op bit race
        | .ok s' l => match collOf s' x.op with
          | some y => if showFits s' y.owner y.wrote l then y.complete s' l else s1
          | none => s'

/-- COLL_OP_COMPLETE: the operation goes on as far as it can, and lands its destination once its ranks have met; `ecc`
says that an access of it meets an uncorrectable error, which fails it (R226, R308). (DEDUCED, log 67) -/
def execCollOpComplete (op : Nat) (ecc : Bool) (s : State) : Host.Outcome State Fault Refusal :=
  match collOf s op with
  | none => .next s
  | some x =>
    match x.ended, x.sent with
    | some (bit, race, engine), _ => finish (x.settle s bit race engine)
    | none, some r => if showFits s x.owner [] r.2 then finish (x.takeAnswer s r) else .next s
    | none, none =>
      if x.refused then .next (x.fail s stFault false)
      else if !x.mine && isFrozen s x.owner x.die then .next s
      else if ecc then .next (x.fail s stEcc false)
      else finish (x.advance s)

/-- Fail an operation: one that is complete but for its addition is completed (R226, R308). -/
def State.stopColl (s : State) (x : CollOp) (bit : Nat) : State :=
  match x.sent.bind (fun r => creditAnswer s r.1) with
  | some 0 | some 1 => match x.sent with
    | some r => x.takeAnswer s r
    | none => s
  | _ => if x.ended.isSome then s else x.fail s bit false

/-- COLL_TIMEOUT: TMO × 2^20 core cycles have passed since acceptance (R303). (DEDUCED, log 5) -/
def execCollTimeout (op : Nat) (s : State) : Host.Outcome State Fault Refusal :=
  match collOf s op with
  | none => .next s
  | some x => if x.tmo = 0 ∨ x.ended.isSome then .next s else .next (s.stopColl x stFault)

/-- Cancel the operations that a condition names, and finish those that have ended early as far as their counters' translations
let them (R308, R312). -/
def State.cancelColls (s : State) (c : CollOp → Bool) : State :=
  (s.colls.filter c).foldl (fun s x =>
    let s := s.stopColl x stCancelled
    match collOf s x.op with
    | some y => match y.ended with
      | some (bit, race, eng) => y.settle s bit race eng
      | none => s
    | none => s) s

/-- `coll.cancel`: the threads wait until every operation has ended; each lane takes the number of those that had not when its
turn came (R312). -/
def collCancelBody (f : F64) (s : State) (gl : List Nat) : Res :=
  let w := s.cur.warp
  let mine := fun (t : State) => t.colls.filter (fun x => x.die == dieOf w &&
    (if isSup w then x.owner == (s.warp w).owner else x.vgid == (s.warp w).vgid))
  let ops := (mine s).map (·.op)
  let s' := (s.release w scopeWg).cancelColls (fun x => ops.contains x.op)
  let left := (mine s').map (·.op)
  let vs := (gl.zip (List.range gl.length)).map (fun x =>
    (x.1, f.d.toNat, BitVec.ofNat 64 (if x.2 = 0 then ops.length else left.length)))
  if left = [] then .next (s'.awaitOps w [] vs)
  else .split ((s'.advance w gl s.cur.pc (if f.lit.isSome then 12 else 8)).awaitOps w left vs) gl

def execCollCancel (f : F64) (s : State) : Host.Outcome State Fault Refusal :=
  finish (issue { hdrOf (.collCancel f) f with rel := some scopeWg } (collCancelBody f) s)

end Sys2Proof.Machine
end

