-- ==== Sys2Proof/Machine/Network.lean ====
section
/-! DEFINITION. The network (R290–R299, R311): KDT flows, landing zones and their instructions, ingest and priority flow
control. Frames are Ethernet frames with their FCS; the layouts of Ethernet, IPv6 and UDP are the public ones. -/

namespace Sys2Proof.Machine

/-- A field of an owner's policy (R380). -/
def Owner.pol (o : Owner) (hi lo : Nat) : Nat := bitsOf (leNat o.policy) hi lo

def State.setPort (s : State) (p : Nat) (f : Port → Port) : State := { s with ports := s.ports.update p f }
def State.setFlow (s : State) (k : Nat) (f : Flow → Flow) : State := { s with flows := s.flows.update k f }
def State.setZone (s : State) (owner z : Nat) (f : Zone → Zone) : State :=
  s.setOwner owner (fun o => { o with zones := o.zones.update z f })
def zoneOf (s : State) (owner z : Nat) : Zone := (s.owners.get owner).zones.get z

/-! ### AES-256-GCM (R293, R379) -/

/-- Bytes under the key stream of a key and a nonce: encryption, and decryption. -/
def aesXor (key nonce : Nat) (bs : List Byte) : List Byte :=
  (bs.zip (List.range bs.length)).map (fun x => x.1 ^^^ Config.aesStream key nonce x.2)

/-- Ciphertext and 16-byte tag of a plaintext, under a header that is authenticated only. -/
def gcmSeal (key nonce : Nat) (header plain : List Byte) : List Byte :=
  let c := aesXor key nonce plain
  c ++ leBytes 16 (Config.gcmTag key nonce header c).toNat

/-- The plaintext of ciphertext and tag, if the tag holds. -/
def gcmOpen (key nonce : Nat) (header sealed_ : List Byte) : Option (List Byte) :=
  let c := sealed_.take (sealed_.length - 16)
  if sealed_.drop (sealed_.length - 16) = leBytes 16 (Config.gcmTag key nonce header c).toNat then some (aesXor key nonce c) else none

/-! ### KDT (R292, R293) -/

/-- A header field of a datagram. -/
def kdtField (d : List Byte) (hi lo : Nat) : Nat := bitsOf (leNat (d.take 32)) hi lo

/-- The nonce of a datagram: FLOW, PSN and a direction bit (R293). (DESIGN CHOICE, log 99) -/
def kdtNonce (flow psn : Nat) (side : Bool) : Nat := flow % 2 ^ 32 + psn % 2 ^ 32 * 2 ^ 32 + b2n side * 2 ^ 64

/-- The payload of a datagram that a flow receives, if its tag holds (R293). -/
def kdtOpen (f : Flow) (d : List Byte) : Option (List Byte) :=
  gcmOpen f.secret (kdtNonce (kdtField d 95 64) (kdtField d 127 96) (!f.side)) (d.take 32) (d.drop 32)

/-- Whether a datagram of a type is well-formed and its tag holds (R292, R293). -/
def kdtOk (f : Flow) (d : List Byte) (type : Nat) : Bool :=
  kdtField d 7 0 == 1 && kdtField d 15 8 == type && kdtField d 47 19 == 0 && kdtField d 63 48 + 48 == d.length &&
  decide (d.length ≤ 9008) && (kdtOpen f d).isSome

/-- The distance of a PSN from another, modulo 2^32. -/
def psnAfter (a b : Nat) : Nat := (a + 2 ^ 32 - b) % 2 ^ 32

/-- Whether a datagram's PSN lies at or after another of the flow. -/
def Flow.pends (f : Flow) (psn : Nat) (d : Datagram) : Bool := decide (psnAfter psn f.ackedPsn ≤ psnAfter d.psn f.ackedPsn)

/-- Every PSN below `psn` is acknowledged (R293). -/
def Flow.ack (f : Flow) (psn : Nat) : Flow :=
  if psnAfter psn f.ackedPsn ≤ psnAfter f.sendPsn f.ackedPsn then
    { f with ackedPsn := psn, unacked := f.unacked.filter (f.pends psn),
             queue := f.queue.filter (fun d => d.wire.isEmpty || f.pends psn d),
             retries := if psn = f.ackedPsn then f.retries else 0 }
  else f

/-- Queue an answer to what the flow has received: at a first gap a negative acknowledgement, else an acknowledgement, unless one
waits already, which will say the same (R293). Answers leave before data. (DESIGN CHOICE, log 99) -/
def Flow.answer (f : Flow) : Flow :=
  let gap := f.recvGot != [] && f.nacked != some f.recvNext
  let d : Datagram := { type := if gap then 3 else 2, psn := 0, opid := 0, offset := 0, last := false, bytes := [], wire := [] }
  if !gap && f.queue.any (fun e => e.type == 2 && e.wire.isEmpty) then f
  else { f with queue := d :: f.queue, nacked := if gap then some f.recvNext else f.nacked }

/-- A datagram as it first leaves: the header of R292, the payload under the flow's key, the tag (R293). It acknowledges what has
been received, and echoes a congestion mark. -/
def Flow.seal (f : Flow) (k : Nat) (d : Datagram) : List Byte :=
  let header := leBytes 32 (1 + d.type * 2 ^ 8 + 2 ^ 16 + b2n d.last * 2 ^ 17 + b2n f.ece * 2 ^ 18 + d.bytes.length * 2 ^ 48 +
    Config.peerFlow k % 2 ^ 32 * 2 ^ 64 + d.psn * 2 ^ 96 + f.recvNext * 2 ^ 128 + d.opid * 2 ^ 160 + d.offset % 2 ^ 64 * 2 ^ 192)
  header ++ gcmSeal f.secret (kdtNonce (Config.peerFlow k) d.psn f.side) header d.bytes

/-- The datagram that leaves a flow next: the first that has left before, or whose PSN lies in the receiver's window of 256, of which
data leave the last place to an answer (R293). (DESIGN CHOICE, log 99) -/
def Flow.leaves (f : Flow) : Option Datagram :=
  f.queue.find? (fun d => !d.wire.isEmpty || decide (psnAfter f.sendPsn f.ackedPsn < if d.type = 1 then 255 else 256))

/-- The port that carries a flow. -/
def flowPortOf (s : State) (k : Nat) : Port := s.ports.get (Config.flowPort k % 8)

/-- Whether the link partner holds a class of a port paused (R291). -/
def heldByPeer (s : State) (p : Port) (cls : Nat) : Bool := decide (nsAt s.tick < p.peerUntil.getD cls 0)

/-- The time in nanoseconds that `n` bytes take at a flow's rate on its port. -/
def sendTime (p : Port) (f : Flow) (n : Nat) : Nat := ceilDiv (8 * n * 2 ^ 20) (max 1 (p.speed * f.rate))

/-- Whether a flow may send: its rate has let the time pass, the peer does not pause the KDT class of the port, and a datagram may
leave (R291, R293). -/
def maySend (s : State) (k : Nat) (f : Flow) : Bool :=
  let p := flowPortOf s k
  f.live && !f.failed && decide (f.nextNs ≤ nsAt s.tick) && !heldByPeer s p p.kdtClass && f.leaves.isSome

/-- A datagram that leaves for the first time takes the next PSN, so that no nonce comes twice; it is kept until it is acknowledged,
and sent again as it was (R293). -/
def Flow.first (f : Flow) (k : Nat) (d : Datagram) : Datagram :=
  let d := { d with psn := f.sendPsn }
  { d with wire := f.seal k d }

/-- A flow sends its next datagram. -/
def State.sendOne (s : State) (k : Nat) : State :=
  let f := s.flows.get k
  match f.leaves with
  | none => s
  | some d =>
    let new := d.wire.isEmpty
    let d' := if new then f.first k d else d
    let s := s.setPort (Config.flowPort k % 8) (fun p => { p with out := p.out ++ [(f.addr, d'.wire)] })
    let s := s.setFlow k (fun f => { f with
      queue := f.queue.erase d, nextNs := nsAt s.tick + sendTime (flowPortOf s k) f d'.wire.length })
    if new then s.setFlow k (fun f => { f with ece := false, sendPsn := (f.sendPsn + 1) % 2 ^ 32, unacked := f.unacked ++ [d'] }) else s

/-- Every flow that may send does. -/
def State.sendFlows (s : State) : State :=
  s.flows.foldl (fun s e => if e.2.queue ≠ [] ∧ maySend s e.1 e.2 then s.sendOne e.1 else s) s

/-- What any header brings: an acknowledgement, an echoed congestion mark. -/
def Flow.header (f : Flow) (d : List Byte) : Flow :=
  let f := if kdtField d 16 16 = 1 then f.ack (kdtField d 159 128) else f
  if kdtField d 18 18 = 1 then { f with rate := f.rate / 2 } else f

/-- Advance the lowest PSN not received past those received beyond it. (DEDUCED, log 83) -/
def Flow.slide (f : Flow) : Nat → Flow
  | 0 => f
  | n + 1 =>
    if f.recvGot.contains f.recvNext then
      Flow.slide { f with recvGot := f.recvGot.filter (fun p => p != f.recvNext), recvNext := (f.recvNext + 1) % 2 ^ 32 } n
    else f

/-- The bytes of a whole stream, when its payloads cover it to the last. -/
def wholeStream (ps : List (Nat × Bool × List Byte)) : Nat → List Byte → Option (List Byte)
  | 0, _ => none
  | n + 1, acc =>
    match ps.find? (fun p => p.1 == acc.length) with
    | none => none
    | some (_, last, bs) => if last then some (acc ++ bs) else if bs = [] then none else wholeStream ps n (acc ++ bs)

/-- Place a payload; a stream that is whole becomes a contribution (R293, R303). -/
def State.placePayload (s : State) (k : Nat) (d payload : List Byte) : State :=
  let opid := kdtField d 191 160
  let p := (opid, kdtField d 255 192, kdtField d 17 17 == 1, payload)
  let s := s.setFlow k (fun f => { f with inbox := f.inbox ++ [p] })
  let f := s.flows.get k
  let mine := (f.inbox.filter (fun x => x.1 == opid)).map (fun x => (x.2.1, x.2.2.1, x.2.2.2))
  match wholeStream mine (mine.length + 1) [] with
  | none => s
  | some bs => (s.setFlow k (fun f => { f with inbox := f.inbox.filter (fun x => x.1 != opid) })).board (contribOf f.owner f.key bs)

/-- Whether a datagram's PSN lies in the receive window of 256 and has not been received (R293). -/
def Flow.expects (f : Flow) (d : List Byte) : Bool :=
  decide (psnAfter (kdtField d 127 96) f.recvNext < 256) && !f.recvGot.contains (kdtField d 127 96)

/-- A datagram's header has its effect and its PSN has come. -/
def Flow.take (f : Flow) (d : List Byte) (ecn : Bool) : Flow :=
  let f := f.header d
  { f with recvGot := kdtField d 127 96 :: f.recvGot, ece := f.ece || ecn }.slide 257

/-- A datagram of a type arrives for a flow: one whose tag fails, or whose PSN lies outside the receive window, is dropped and counted
(R293). Else it is taken, and `k` follows. -/
def State.receive (s : State) (type : Nat) (ecn : Bool) (d : List Byte) (k : State → Nat → State) : State :=
  let n := kdtField d 95 64
  let f := s.flows.get n
  if !f.live || f.failed then s
  else if !kdtOk f d type || !f.expects d then s.setFlow n (fun f => { f with dropped := f.dropped + 1 })
  else k (s.setFlow n (fun f => f.take d ecn)) n

/-- KDT_DATA: a data datagram, its header and the sealed rest; `ecn` says that it bears a congestion mark. (DEDUCED, log 83) -/
def execKdtData (head : List Byte) (ecn : Bool) (body : List Byte) (s : State) : Host.Outcome State Fault Refusal :=
  let datagram := head ++ body
  .next (s.receive 1 ecn datagram (fun s k =>
    (s.setFlow k Flow.answer).placePayload k datagram ((kdtOpen (s.flows.get k) datagram).getD [])))

/-- KDT_ACK (R293). -/
def execKdtAck (head body : List Byte) (s : State) : Host.Outcome State Fault Refusal :=
  .next (s.receive 2 false (head ++ body) (fun s _ => s))

/-- Operations that use a failed flow fail with FAULT; one that is complete but for its addition is completed (R226, R293, R303). -/
def State.failFlow (s : State) (k : Nat) : State :=
  let f := s.flows.get k
  let s := s.setFlow k (fun f => { f with failed := true, unacked := [], queue := [] })
  (s.colls.filter (fun x => x.owner == f.owner && x.ended.isNone && x.ranks.any (fun e => e.1 == f.key))).foldl (fun s x =>
    s.stopColl x stFault) s

/-- Send the oldest unacknowledged datagram that a condition names again, before what waits; after 16 retransmissions of it the flow
fails. (DEDUCED, log 83) -/
def State.retransmit (s : State) (k : Nat) (c : Datagram → Bool) : State :=
  let f := s.flows.get k
  match f.unacked.find? c with
  | none => s
  | some d =>
    if 16 ≤ f.retries then s.failFlow k
    else s.setFlow k (fun f => { f with retries := f.retries + 1, queue := d :: f.queue.filter (fun e => e != d) })

/-- KDT_NACK: all below ACKPSN have come, and the datagram at the gap is sent again. (DEDUCED, log 83) -/
def execKdtNack (head body : List Byte) (s : State) : Host.Outcome State Fault Refusal :=
  .next (s.receive 3 false (head ++ body) (fun s k => s.retransmit k (fun _ => true)))

/-- KDT_RETRANSMIT_TIMEOUT: 80,000 core cycles without an acknowledgement of data. (DEDUCED, log 5) -/
def execKdtRetransmitTimeout (flow : Nat) (s : State) : Host.Outcome State Fault Refusal :=
  if (s.flows.get flow).live && !(s.flows.get flow).failed then .next (s.retransmit flow (fun d => d.type == 1)) else .next s

/-- KDT_RATE_RECOVERY: the rate regains 1/64 of the port rate. -/
def execKdtRateRecovery (flow : Nat) (s : State) : Host.Outcome State Fault Refusal :=
  if (s.flows.get flow).live then .next (s.setFlow flow (fun f => { f with rate := min (2 ^ 20) (f.rate + 2 ^ 14) })) else .next s

/-! ### Priority flow control (R291, R297) -/

def Zone.holds (z : Zone) (port cls : Nat) : Bool :=
  z.armed && !z.revoked && z.paused && z.port == port && z.cls == cls

/-- Whether some zone holds a class of a port paused. -/
def classPaused (s : State) (port cls : Nat) : Bool := s.owners.any (fun o => o.2.zones.any (fun z => z.2.holds port cls))

/-- Bring the port's mask up to date, sending the frame of a change (R297). -/
def State.updateClass (s : State) (port cls : Nat) : State :=
  let now := classPaused s port cls
  if bitOf (s.ports.get port).paused cls = now then s
  else
    s.setPort port (fun p => { p with
      paused := if now then p.paused + 2 ^ cls else p.paused - 2 ^ cls, sent := p.sent ++ [(cls, if now then 0xFFFF else 0)] })

/-- PFC_PAUSE_REPEAT: a class still paused sends its frame again (R297). -/
def execPfcPauseRepeat (port cls : Nat) (s : State) : Host.Outcome State Fault Refusal :=
  if bitOf (s.ports.get port).paused cls then .next (s.setPort port (fun p => { p with sent := p.sent ++ [(cls, 0xFFFF)] }))
  else .next s

/-- PFC_FRAME_RECEIVED: the link partner's pause times for the classes that the frame enables (R291), each in quanta of 512 bit
times of the port. -/
def execPfcFrameReceived (port classes : Nat) (times : List Nat) (s : State) : Host.Outcome State Fault Refusal :=
  .next (s.setPort port (fun p =>
    let q := fun (i : Nat) => times.getD i 0 % 2 ^ 16
    { p with
      peerPause := (p.peerPause.zip (List.range 8)).map (fun x => if bitOf classes x.2 then q x.2 else x.1)
      peerUntil := (p.peerUntil.zip (List.range 8)).map (fun x =>
        if bitOf classes x.2 then nsAt s.tick + ceilDiv (512 * q x.2) (max 1 p.speed) else x.1) }))

/-! ### Landing (R296) -/

/-- Bytes of records that wait to land. -/
def Zone.waiting (z : Zone) : Nat := z.queue.foldl (fun n r => n + r.length) 0
/-- Free space of the ring, counting records that wait. -/
def Zone.free (z : Zone) : Nat := z.z - (z.w + z.waiting - z.rd)

def zoneReq (s : State) (owner : Nat) (z : Zone) (a : Acc) : XReq := dieReq s z.die owner 0 3 (.engine z.op) a

/-- Re-evaluate R297 for a zone. -/
def State.pauseZone (s : State) (owner zn : Nat) : State :=
  let z := zoneOf s owner zn
  let s := s.setZone owner zn (fun z => { z with
    paused := if z.free < z.xoff then true else if z.xon ≤ z.free then false else z.paused })
  s.updateClass z.port z.cls

/-- A zone becomes REVOKED (R299): nothing lands any more, and status bits go to its counter. -/
def State.revokeZone (s : State) (owner zn bits : Nat) : State :=
  let z := zoneOf s owner zn
  let s := s.setZone owner zn (fun z => { z with revoked := true, queue := [], status := z.status ||| bits })
  s.updateClass z.port z.cls

/-- The ring addresses of a record at stream position `w`, cut into lines. -/
def Zone.runs (z : Zone) (n : Nat) : List (Nat × Nat × Nat) :=
  let at_ := z.w % z.z
  let head := min n (z.z - at_)
  (lineRuns (z.base + at_) head).map (fun r => (r.1 - (z.base + at_), r.1, r.2)) ++
  (if head < n then (lineRuns z.base (n - head)).map (fun r => (head + (r.1 - z.base), r.1, r.2)) else [])

/-- Write a record's bytes; landing writes carry no VGID (R298). (DEDUCED, log 82) -/
def landRecord (s : State) (owner : Nat) (z : Zone) (bs : List Byte) : Eng Unit :=
  (z.runs bs.length).foldl (fun (e : Eng Unit) r =>
    e.bind (fun s _ =>
      if earlierLock s z.op owner (.glob r.2.1) r.2.2 true then .wait s
      else
        (engLoc s (zoneReq s owner z .write) (.glob r.2.1)).bind (fun s l =>
          .ok (s.perform owner 0 l ((bs.drop r.1).take r.2.2)) ()))) (.ok s ())

/-- Land the waiting records of a zone in order, as far as their pages are translated. (DEDUCED, log 82) -/
def State.landZone (s : State) (owner zn : Nat) : Nat → State
  | 0 => s
  | n + 1 =>
    let z := zoneOf s owner zn
    match z.queue with
    | [] => s
    | bs :: rest =>
      match landRecord s owner z bs with
      | .wait s' => s'
      | .fail s' _ _ => s'.revokeZone owner zn stFault
      | .ok s' _ =>
        let s' := s'.setZone owner zn (fun z =>
          { z with queue := rest, w := z.w + bs.length, uncounted := z.uncounted + bs.length })
        State.landZone s' owner zn n

/-- Add the landed bytes to the zone's counter and set its status bits (R296, R299). The addition covers records that are visible
across the link too (R27, R180, R185); a full parking buffer holds it back (R404). -/
def State.countZone (s : State) (owner zn : Nat) : State :=
  let z := zoneOf s owner zn
  if z.uncounted = 0 ∧ z.status = 0 then s
  else
    match engLoc s (zoneReq s owner z .atomic) (.glob z.ctr) with
    | .wait s' => s'
    | .fail s' _ _ => s'.setZone owner zn (fun z => { z with uncounted := 0, status := 0 })
    | .ok s' l =>
      let dirty := dirtyOf s' owner
      if (dirty ≠ 0 ∨ l.hostPage ≠ []) ∧ !parkFits s' (dirty + 128) then s'
      else
        let s' := if z.uncounted = 0 then s' else (s'.flushHost owner).engAdd z.die owner l z.uncounted
        let s' := if z.status = 0 then s' else ((s'.drainCross z.die l).counterStatus owner l z.status).flushAt l
        s'.setZone owner zn (fun z => { z with uncounted := 0, status := 0 })

/-- ZONE_COUNTER_ADDITION: records that wait land, and what has landed is counted (R296). `ecc` says that the landing write
of the oldest waiting record meets an uncorrectable error, which revokes the zone (R299). -/
def execZoneCounterAddition (owner zone : Nat) (ecc : Bool) (s : State) : Host.Outcome State Fault Refusal :=
  let z := zoneOf s owner zone
  if !z.armed then .next s
  else if z.refused then .next ((s.setZone owner zone (fun z => { z with refused := false })).revokeZone owner zone stRevoked)
  else if ecc ∧ z.queue ≠ [] then finish ((s.revokeZone owner zone stEcc).countZone owner zone)
  else finish ((s.landZone owner zone z.queue.length).countZone owner zone)

/-! ### Ingest (R291, R296) -/

/-- A big-endian field of a frame. -/
def beNat (bs : List Byte) : Nat := bs.foldl (fun n b => 256 * n + b.toNat) 0

/-- The class, addresses and payload of an IPv6 UDP frame. -/
structure UdpFrame where
  cls   : Nat
  daddr : Nat
  dport : Nat
  data  : List Byte
deriving DecidableEq, Repr

/-- Parse a frame with its FCS; none for a frame that is no UDP over IPv6. (DEDUCED, log 76) -/
def parseFrame (frame : List Byte) : Option UdpFrame :=
  let tagged := beNat ((frame.drop 12).take 2) == 0x8100
  let off := if tagged then 18 else 14
  let cls := if tagged then beNat ((frame.drop 14).take 1) / 32 else 0
  let ip := frame.drop off
  let udp := ip.drop 40
  let len := beNat ((udp.drop 4).take 2)
  if beNat ((frame.drop (off - 2)).take 2) ≠ 0x86DD ∨ beNat (ip.take 1) / 16 ≠ 6 ∨ beNat ((ip.drop 6).take 1) ≠ 17 ∨
      len < 8 ∨ udp.length < len + 4 then none
  else
    some { cls := cls, daddr := leNat ((ip.drop 24).take 16), dport := beNat ((udp.drop 2).take 2),
           data := (udp.drop 8).take (len - 8) }

/-- The zone that a frame matches: owner and number. -/
def matchZone (s : State) (port : Nat) (u : UdpFrame) : Option (Nat × Nat) :=
  s.owners.findSome? (fun o =>
    (o.2.zones.find? (fun z => z.2.armed && !z.2.closing && z.2.port == port && z.2.cls == u.cls && z.2.daddr == u.daddr &&
      z.2.udpdst == u.dport)).map (fun z => (o.1, z.1)))

/-- A zone drops a frame: DROPS and PEND saturate (R296, R311). -/
def Zone.drop (z : Zone) : Zone := { z with drops := min (z.drops + 1) 0xFFFF, pend := min (z.pend + 1) 0xFFFF }

/-- The sequence field of a payload, most significant byte first. (DESIGN CHOICE, log 68) -/
def seqField (s : State) (z : Zone) (p : List Byte) : Nat :=
  if !z.seqen then 0
  else if z.seqoff + 4 ≤ p.length then beNat ((p.drop z.seqoff).take 4)
  else (Config.shortSeq s.fresh).toNat

/-- A frame for a zone: dropped, or queued as a record and landed (R296). -/
def State.ingest (s : State) (owner zn : Nat) (data : List Byte) : State :=
  let z := zoneOf s owner zn
  if z.revoked ∨ data.length < z.strip then s.setZone owner zn Zone.drop
  else
    let p := data.drop z.strip
    let r := 8 + ceilDiv p.length 8 * 8
    if z.free < r then s.setZone owner zn Zone.drop
    else
      let h := p.length + z.pend * 2 ^ 16 + seqField s z p * 2 ^ 32
      let bytes := leBytes 8 h ++ p ++ List.replicate (r - 8 - p.length) 0
      let s := { s with fresh := s.fresh + 1 }
      let s := s.setZone owner zn (fun z => { z with pend := 0, queue := z.queue ++ [bytes] })
      let s := s.landZone owner zn (z.queue.length + 1)
      let s := if 4096 ≤ (zoneOf s owner zn).uncounted then s.countZone owner zn else s
      s.pauseZone owner zn

/-- Whether a frame's payload becomes a record of a zone (R296). -/
def Zone.takes (z : Zone) (data : List Byte) : Bool :=
  !z.revoked && decide (z.strip ≤ data.length) && decide (8 + ceilDiv (data.length - z.strip) 8 * 8 ≤ z.free)

/-- INGEST_FRAME: a frame arrives on a port (R291, R296). `ecc` says that a landing write of its record meets an
uncorrectable error, which revokes the zone (R299). (DEDUCED, log 76) (DEDUCED, log 67) -/
def execIngestFrame (port : Nat) (frame : List Byte) (fcsOk ecc : Bool) (s : State) : Host.Outcome State Fault Refusal :=
  let drop := s.setPort port (fun p => { p with dropped := p.dropped + 1 })
  if !fcsOk || decide (frame.length < 64) || decide (9216 < frame.length) then .next drop
  else
    match parseFrame frame with
    | none => .next drop
    | some u =>
      match matchZone s port u with
      | none => .next s
      | some (owner, zn) =>
        if ecc && (zoneOf s owner zn).takes u.data then finish ((s.revokeZone owner zn stEcc).countZone owner zn)
        else finish (s.ingest owner zn u.data)

/-! ### Arming a zone (R294, R295) -/

/-- The conditions of ENGINE. -/
def armRefused (s : State) (owner : Nat) (d : List Word) : Bool :=
  let o := s.owners.get owner
  let f := dfield d
  let port := f 62 60
  let p := s.ports.get port
  let same := fun (z : Zone) => z.armed && z.port == port && z.cls == f 59 57 && z.daddr == f 383 256 && z.udpdst == f 431 416
  f 63 63 != 1 ||
  [(511, 504), (447, 432), (415, 384), (191, 168), (127, 120), (50, 48), (15, 0)].any (fun r => f r.1 r.2 != 0) ||
  f 167 128 % 65536 != 0 || decide (f 167 128 < 65536) || decide (2 ^ 39 < f 167 128) ||
  decide (f 223 192 < 3 * 9216 + p.prtb) || decide (f 255 224 ≤ f 223 192) || decide (f 167 128 < f 255 224) ||
  decide (1024 < f 31 16) || (f 51 51 == 0 && f 47 32 != 0) || f 59 57 == p.kdtClass ||
  !bitOf (o.pol 4071 4064) port || f 383 256 != o.pol 4031 3904 ||
  decide (f 431 416 < o.pol 4047 4032) || decide (o.pol 4063 4048 < f 431 416) ||
  (o.zones.get (f 56 52)).armed || o.zones.any (fun e => same e.2)

/-- The first cause of R295 but TRANSLATE. -/
def armCause (s : State) (owner : Nat) (d : List Word) : Option Nat :=
  let f := dfield d
  if f 119 64 % 65536 ≠ 0 ∨ f 503 448 % 16 ≠ 0 then some causeAlign
  else if 2 ^ 56 < f 119 64 + f 167 128 ∨ 2 ^ 56 < f 503 448 + 16 then some causeBounds
  else if armRefused s owner d || f 503 448 == 0 then some causeEngine
  else none

/-- Classifier entries of a port in use (R295). -/
def classifiers (s : State) (port : Nat) : Nat :=
  (s.owners.map (fun o => (o.2.zones.filter (fun z => z.2.armed && z.2.port == port)).length)).foldl (· + ·) 0

/-- The locks of a zone: one entry on each die, and its counter. -/
def zoneLocks (op owner : Nat) (d : List Word) : List RLock :=
  (List.range 4).map (fun die => mkLock op 0 die owner .read (.glob (dfield d 119 64)) (dfield d 167 128)) ++
  [mkLock op 1 4 owner .counter (.glob (dfield d 503 448)) 16]

/-- Arm a zone. -/
def State.armZone (s : State) (w : Nat) (d : List Word) : State :=
  let f := dfield d
  let owner := (s.warp w).owner
  let z : Zone := { armed := true, revoked := false, paused := false, port := f 62 60, cls := f 59 57, daddr := f 383 256,
                    udpdst := f 431 416, base := f 119 64, z := f 167 128, ctr := f 503 448, xoff := f 223 192,
                    xon := f 255 224, seqen := f 51 51 == 1, seqoff := f 47 32, strip := f 31 16, w := 0, rd := 0, drops := 0,
                    pend := 0, uncounted := 0, queue := [], closing := false, refused := false, status := 0, die := dieOf w,
                    op := s.serial }
  let s := { s with serial := s.serial + 1, locks := s.locks ++ zoneLocks s.serial owner d }
  s.setZone owner (f 56 52) (fun _ => z)

/-- Arm for the lanes in order: predicates written, lanes that wait for a lock entry, causes. -/
def armLanes' (s : State) (w p : Nat) : List (Nat × List Word) → State × List Nat × List Raise
  | [] => (s, [], [])
  | (l, d) :: r =>
    let owner := (s.warp w).owner
    match armCause s owner d with
    | some b =>
      let y := armLanes' s w p r
      (y.1, y.2.1, { lane := l, bit := b } :: y.2.2)
    | none =>
      if 32 ≤ classifiers s (dfield d 62 60) then armLanes' (s.setP w l p false) w p r
      else if (List.range 4).all (fun die => locksFit s die owner (zoneLocks 0 owner d)) then
        armLanes' ((s.armZone w d).setP w l p true) w p r
      else (s, l :: r.map (·.1), [])

/-- The pages of a ring and its counter. -/
def zonePages (d : List Word) : List Nat :=
  (List.range (dfield d 167 128 / 2 ^ 16)).map (fun i => dfield d 119 64 + 2 ^ 16 * i) ++ [dfield d 503 448]

def collArmBody (f : F64) (s : State) (gl : List Nat) : Res :=
  let w := s.cur.warp
  let at_ := gl.map (fun l => (l, (opnd s w l f.lit f.a.toNat).toNat))
  let bad := at_.filter (fun x => x.2 % 64 != 0)
  if bad ≠ [] then .trap (bad.map (fun x => { lane := x.1, bit := causeAlign, addr := x.2 }))
  else
    readDescs s w 64 at_ (fun s xs =>
      let ds := xs.map (fun x => (x.1, x.2.2))
      let dry := armLanes' s w f.d.toNat ds
      if dry.2.2 ≠ [] then .trap dry.2.2
      else
        afterChecks (translation s w .global .write (ds.flatMap (fun x => (zonePages x.2).map (fun a => (x.1, a))))) (fun s _ =>
          let r := armLanes' s w f.d.toNat ds
          .split (r.1.enterAll w r.2.1 .resource) r.2.1))

def execCollArm (f : F64) (s : State) : Host.Outcome State Fault Refusal :=
  finish (issue (hdrOf (.collArm f) f) (collArmBody f) s)

/-! ### Releasing, disarming, querying (R311) -/

/-- The lanes whose register names no zone; ADDR is 0, as no access is made. (DESIGN CHOICE, log 98) -/
def badZones (zs : List (Nat × Nat)) : List Raise :=
  (zs.filter (fun x => decide (32 ≤ x.2))).map (fun x => { lane := x.1, bit := causeBounds })

/-- Release bytes lane by lane: the state and the lanes that raise ENGINE. -/
def relLanes (s : State) (owner : Nat) : List (Nat × Nat × Nat) → State × List Nat
  | [] => (s, [])
  | (l, zn, n) :: r =>
    let z := zoneOf s owner zn
    if !z.armed then
      let y := relLanes s owner r
      (y.1, l :: y.2)
    else if z.revoked then relLanes s owner r
    else if z.w < z.rd + n then
      let y := relLanes s owner r
      (y.1, l :: y.2)
    else relLanes ((s.setZone owner zn (fun z => { z with rd := z.rd + n })).pauseZone owner zn) owner r

def collRelBody (f : F64) (zone : State → Nat → Nat) (s : State) (gl : List Nat) : Res :=
  let w := s.cur.warp
  let zs := gl.map (fun l => (l, zone s l))
  if badZones zs ≠ [] then .trap (badZones zs)
  else
    let r := relLanes (s.release w scopePkg) (s.warp w).owner (zs.map (fun x => (x.1, x.2, (opnd s w x.1 f.lit f.b.toNat).toNat)))
    if r.2 ≠ [] then .trap (raiseAll causeEngine r.2) else .next r.1

def immZone (f : F64) (_ : State) (_ : Nat) : Nat := f.c.toNat

def execCollRelReg (f : F64) (s : State) : Host.Outcome State Fault Refusal :=
  finish (issue { hdrOf (.collRelReg f) f with rel := some scopePkg } (collRelBody f (regChan f)) s)
def execCollRelImm (f : F64) (s : State) : Host.Outcome State Fault Refusal :=
  finish (issue { hdrOf (.collRelImm f) f with rel := some scopePkg } (collRelBody f (immZone f)) s)

/-- Free a zone's classifier entry and locks (R299). -/
def State.freeZone (s : State) (owner zn : Nat) : State :=
  let z := zoneOf s owner zn
  let s := { s with locks := s.locks.filter (fun k => k.op != z.op) }
  let s := s.setOwner owner (fun o => { o with zones := o.zones.del zn })
  (List.range 4).foldl (fun s d => s.post (.engineResourceFreed d)) (s.updateClass z.port z.cls)

/-- `coll.disarm`: its end is an acquire (R311). -/
def collDisarmBody (f : F64) (zone : State → Nat → Nat) (s : State) (gl : List Nat) : Res :=
  let w := s.cur.warp
  let owner := (s.warp w).owner
  let zs := gl.map (fun l => (l, zone s l))
  if badZones zs ≠ [] then .trap (badZones zs)
  else
    let s := zs.foldl (fun s x =>
      if (zoneOf s owner x.2).armed then s.setZone owner x.2 (fun z => { z with closing := true }) else s) s
    if zs.any (fun x => let z := zoneOf s owner x.2; z.armed && (z.queue != [] || z.uncounted != 0 || z.status != 0)) then
      .hold (s.enterAll w gl .formation)
    else
      .next ((zs.foldl (fun s x =>
        let z := zoneOf s owner x.2
        if z.armed then (s.writeD w x.1 f.d.toNat (BitVec.ofNat 64 z.w)).freeZone owner x.2
        else s.writeD w x.1 f.d.toNat 0) s).acquireIn w scopePkg gl)

def execCollDisarmReg (f : F64) (s : State) : Host.Outcome State Fault Refusal :=
  finish (issue (hdrOf (.collDisarmReg f) f) (collDisarmBody f (regChan f)) s)
def execCollDisarmImm (f : F64) (s : State) : Host.Outcome State Fault Refusal :=
  finish (issue (hdrOf (.collDisarmImm f) f) (collDisarmBody f (immZone f)) s)

/-- The status word of `coll.query`. -/
def Zone.word (z : Zone) : Nat :=
  if !z.armed then 0
  else 2 ^ 63 + b2n (z.paused && !z.revoked) * 2 ^ 62 + b2n z.revoked * 2 ^ 61 + z.drops * 2 ^ 40 + (z.z - (z.w - z.rd)) % 2 ^ 40

def collQueryBody (f : F64) (zone : State → Nat → Nat) (s : State) (gl : List Nat) : Res :=
  let w := s.cur.warp
  let zs := gl.map (fun l => (l, zone s l))
  if badZones zs ≠ [] then .trap (badZones zs)
  else .next (writeLanes s w f.d.toNat (zs.map (fun x => (x.1, BitVec.ofNat 64 (zoneOf s (s.warp w).owner x.2).word))))

def execCollQueryReg (f : F64) (s : State) : Host.Outcome State Fault Refusal :=
  .next (issue (hdrOf (.collQueryReg f) f) (collQueryBody f (regChan f)) s)
def execCollQueryImm (f : F64) (s : State) : Host.Outcome State Fault Refusal :=
  .next (issue (hdrOf (.collQueryImm f) f) (collQueryBody f (immZone f)) s)

end Sys2Proof.Machine
end

