-- ==== Sys2Proof/Machine/Launch.lean ====
section
/-! DEFINITION. Launches (R49–R62, R314–R333): the interface page, acceptance, the checks of the record, the dependence,
placement, the completion record and the launch instructions. -/

namespace Sys2Proof.Machine

/-! ### Counting -/

/-- Launches accepted and not yet ended that a condition names. -/
def countLaunches (s : State) (c : Launch → Bool) : Nat :=
  (s.launches.filter (fun e => decide (e.2.state ≠ .none) && c e.2)).length

/-- DEV and SRC of a sequence number (R316). -/
def seqDev (q : Word) : Bool := q.getLsbD 63
def seqSrc (q : Word) : Nat := q.toNat / 2 ^ 48 % 2 ^ 12

/-- Numbers of workgroups in the grid. -/
def Launch.grid (l : Launch) : Nat := l.gridX * l.gridY * l.gridZ

/-- Fields of the record (R58). -/
def Launch.entry (l : Launch) : Nat := l.field 63 0
def Launch.prio (l : Launch) : Nat := l.field 143 137
def Launch.regu (l : Launch) : Nat := l.field 147 144
def Launch.spillKiB (l : Launch) : Nat := l.field 155 148
def Launch.benchLines (l : Launch) : Nat := l.field 167 156
def Launch.accKiB (l : Launch) : Nat := l.field 175 168
def Launch.gtn (l : Launch) : Nat := l.field 184 176
def Launch.gtab (l : Launch) : Nat := l.field 255 192
def Launch.barl (l : Launch) : Nat := l.field 319 256
def Launch.depc (l : Launch) : Nat := l.field 383 320
def Launch.dept (l : Launch) : Nat := l.field 447 384
def Launch.done (l : Launch) : Nat := l.field 511 448
def Launch.arg (l : Launch) (k : Nat) : Nat := l.field (575 + 64 * k) (512 + 64 * k)

/-- Whether the scheduler places and restores work of an owner: it runs and no long command is stopping it (R385). -/
def ownerRuns (s : State) (owner : Nat) : Bool :=
  (s.owners.get owner).state == .running && (s.owners.get owner).pending.isNone

/-- Whether the launch unit can reach an owner's memory: an evicted owner has none (R385). -/
def ownerHere (s : State) (owner : Nat) : Bool := (s.owners.get owner).state != .evicted

/-- Whether the launch unit may end a launch of an owner: it reaches the owner's memory, or a RESET of the evicted owner ends it
without a record (R320, R385). -/
def endsHere (s : State) (owner : Nat) : Bool :=
  ownerHere s owner || (match (s.owners.get owner).pending with
    | some (code, _) => code == 10 || code == 11
    | none => false)

/-! ### What a core has free (R41, R324) -/

/-- Workgroups that hold resources of a core. -/
def residents (s : State) (core : Nat) : List (Nat × Workgroup) :=
  s.wgs.filter (fun e => e.2.core == core && (e.2.phase == .resident || e.2.phase == .stopping || e.2.phase == .restoring))

/-- Units in use on a quad of a core: the warps' and those their workgroups keep (R42). -/
def usedUnits (s : State) (core quad : Nat) : List Nat :=
  ((List.range 8).map (fun i => core * 64 + quad * 16 + i)).flatMap (fun w => if (s.warp w).live then (s.warp w).units else []) ++
  (residents s core).flatMap (fun e => (e.2.freeUnits.filter (fun u => u / 16 == quad)).map (· % 16))

/-- Units of a quad's pool: 14 on quad 0, where the supervisor warp has two, and 16 elsewhere (R41, R55). -/
def poolUnits (quad : Nat) : List Nat := if quad = 0 then (List.range 14).map (· + 2) else List.range 16

def freeUnits (s : State) (core quad : Nat) : List Nat :=
  (poolUnits quad).filter (fun u => !(usedUnits s core quad).contains u)

/-- Free warp slots of a quad, lowest first (R41). -/
def freeSlots (s : State) (core quad : Nat) : List Nat :=
  ((List.range 8).map (fun i => core * 64 + quad * 16 + i)).filter (fun w => !(s.warp w).live)

/-- Barrier entries of a core that are allotted: workgroups' (R209) and sets' (R52). -/
def usedBars (s : State) (core : Nat) : List Nat :=
  (s.wgs.filter (fun e => e.2.phase != .none && e.2.barCore == core)).flatMap (·.2.bars) ++
  s.sets.filterMap (fun e => match e.2.entry with
    | some (c, n) => if c = core then some n else none
    | none => none)

def freeBars (s : State) (core : Nat) : List Nat := (List.range 64).filter (fun n => !(usedBars s core).contains n)

/-- Windows of a core's bench and accumulator keys that no workgroup holds. -/
def freeWindows (s : State) (core : Nat) : List Nat :=
  (List.range 32).filter (fun k => !(residents s core).any (fun e => e.2.benchBase == k * 2 ^ 18))

/-- What a workgroup asks of a core. -/
structure Need where
  units : List (Nat × Nat)      -- units and warp index of each of its warps
  lines : Nat                   -- bench lines
  acc   : Nat                   -- accumulator KiB
  bars  : Nat
  extra : List Nat := [0, 0, 0, 0]  -- units of each quad that the workgroup gave up and keeps (R42)
deriving DecidableEq, Repr

def Launch.need (l : Launch) : Need :=
  { units := (List.range l.nWarps).map (fun i => (l.regu, i)), lines := l.benchLines, acc := l.accKiB, bars := l.barN }

/-- Bench, accumulator and barrier entries (R324). -/
def sharedFits (s : State) (core : Nat) (n : Need) : Bool :=
  let rs := residents s core
  decide (rs.foldl (fun k e => k + e.2.benchLen) 0 + 128 * n.lines ≤ 2 ^ 18) &&
  decide (rs.foldl (fun k e => k + e.2.accKiB) 0 + n.acc ≤ 128) &&
  decide (n.bars ≤ (freeBars s core).length)

/-- Warp slots and units on each quad for a choice of q0 (R46, R324). -/
def quadsFit (s : State) (core q0 : Nat) (n : Need) : Bool :=
  (List.range 4).all (fun i =>
    let mine := n.units.filter (fun u => u.2 % 4 == i)
    let q := (q0 + i) % 4
    decide (mine.length ≤ (freeSlots s core q).length) &&
    decide (mine.foldl (fun k u => k + u.1) 0 + n.extra.getD q 0 ≤ (freeUnits s core q).length))

/-- The quad that R324 chooses: the one with the most free units, or the lowest, among those that fit. -/
def chooseQ0 (s : State) (core : Nat) (n : Need) : Option Nat :=
  if !sharedFits s core n then none
  else
    ((List.range 4).filter (fun q => quadsFit s core q n)).foldl (fun best q =>
      match best with
      | none => some q
      | some b => if (freeUnits s core b).length < (freeUnits s core q).length then some q else some b) none

/-! ### Who may use a core (R201, R255, R326, R328) -/

/-- A workgroup of a launch is placed already. -/
def Launch.isPlaced (x : Launch) (ix : Nat) : Bool := decide (ix < x.next) || x.placedHi.contains ix

/-- Whether a launch has workgroups to place. -/
def wantsPlace (x : Launch) : Bool := (x.state == .queued || x.state == .running) && decide (x.next < x.grid)

/-- Whether a recorded wait would now be satisfied (R328). A wait on the bench's own lines ends only on a core; a counter is read
through the home die of the launch, once its translation is at hand. (DEDUCED, log 94) -/
def waitOver (s : State) (v : Nat) (w : Nat × Wait) : Bool :=
  let g := s.wgs.get v
  match w.2 with
  | .barrier set e ph =>
    (match (if set then setBarKey s g e else wgBarKey g e) with
     | some k => (s.bars.get k).phase != ph
     | none => true)
  | .counter a target =>
    (match tlbLookup s (dieArrays (s.launches.get g.launch).home) g.owner a .read with
     | some (t, _) =>
       let at_ := t.frame + (a - t.va)
       let pasid := (s.ifcs.get t.ifc).pasid
       if t.tier ≠ 2 then (counterTest (s.devBytes at_ 16) target).1
       else dtcHit s pasid at_ .read && !hostWaits s pasid at_ t.uc .read &&
         (counterTest (s.readLoc g.owner (.host t.ifc pasid at_ t.uc) 16).1 target).1
     | none => false)
  | .presence marver lines => !marver || lines.all (fun k => !s.marvAbs.get k)
  | _ => true

/-- Whether the workgroup that a displacement made room for has been placed, or is no longer to be (R328). -/
def roomTaken (s : State) (g : Workgroup) : Bool :=
  match g.roomFor with
  | none => true
  | some (l, ix) => !wantsPlace (s.launches.get l) || (s.launches.get l).isPlaced ix

/-- The workgroup that an owner's displacement on a die makes room for, while the room is being made or stands reserved for it: its
launch and index (R328). -/
def displacing (s : State) (owner die : Nat) : Option (Nat × Nat) :=
  (s.wgs.find? (fun e => e.2.owner == owner && e.2.displaced && dieOfCore e.2.core == die && !roomTaken s e.2)).bind (·.2.roomFor)

/-- Whether room on a core is kept for another workgroup than one of a launch (R328). -/
def roomKept (s : State) (owner core l : Nat) : Bool :=
  match displacing s owner (dieOfCore core) with
  | some r => r.1 != l
  | none => false

/-- Whether a displacement makes room for a launch. -/
def roomAwaits (s : State) (owner l : Nat) : Bool :=
  (List.range 4).any (fun d => match displacing s owner d with
    | some r => r.1 == l
    | none => false)

/-- A saved workgroup may be restored: a displaced one once the workgroup that it made room for is placed and a wait of it is
over (R327, R328). (DEDUCED, log 94) -/
def readyToRestore (s : State) (v : Nat) : Bool :=
  let g := s.wgs.get v
  g.phase == .saved && !g.dumpHeld && (!g.displaced || (roomTaken s g && g.waits.any (waitOver s v)))

/-- Whether an owner has work for a core it shares: a saved workgroup that may come back, or a workgroup to place. -/
def hasWork (s : State) (owner core : Nat) : Bool :=
  ownerRuns s owner && !(s.owners.get owner).frozen.contains (dieOfCore core) &&
  ((residents s core).any (fun e => e.2.owner == owner) ||
    s.wgs.any (fun e => e.2.owner == owner && readyToRestore s e.1) ||
    s.launches.any (fun e => e.2.owner == owner && wantsPlace e.2))

/-- The owners that hold a core as a time share, in the order of the rotation. (DEDUCED, log 77) -/
def sharers (s : State) (core : Nat) : List Nat :=
  (s.owners.filter (fun e => e.2.live && e.2.shares.contains core)).map (·.1)

/-- The next owner of the rotation that has work for the core. (DEDUCED, log 77) -/
def nextTurn (s : State) (core : Nat) : Option Nat :=
  let t := (s.cores.get core).turn
  let hs := sharers s core
  (hs.filter (fun o => decide (t < o + 1)) ++ hs.filter (fun o => decide (o + 1 < t))).find? (fun o => hasWork s o core)

/-- Whether a core takes no further work: it ran out of spare columns, and the launches that ran there then have ended
(R255). -/
def coreSpent (s : State) (core : Nat) : Bool :=
  match (s.cores.get core).spent with
  | none => false
  | some ls => !ls.any (fun l => (s.launches.get l).state != .none)

/-- Whether a time-shared core is an owner's now: it is its slice, or no slice has begun, or the slice's owner has no work for
the core, holds nothing of it, and this owner comes next (R326). -/
def sliceOf (s : State) (owner core : Nat) : Bool :=
  let t := (s.cores.get core).turn
  t == owner + 1 || ((residents s core).all (fun e => e.2.owner == owner) &&
    (t == 0 || (!hasWork s (t - 1) core && nextTurn s core == some owner)))

/-- Whether a core may take work of a launch now: it is neither retired nor spent, and the launch's owner holds it whole or
has the slice (R326). -/
def coreOpen (s : State) (l core : Nat) : Bool :=
  let owner := (s.launches.get l).owner
  let o := s.owners.get owner
  !(s.cores.get core).retired && !coreSpent s core && !o.frozen.contains (dieOfCore core) &&
  (o.cores.contains core || (o.shares.contains core && sliceOf s owner core))

/-- The home die (R324). -/
def homeDie (s : State) (owner : Nat) (l : Launch) : Nat :=
  let free := fun d => ((ownerCores (s.owners.get owner)).filter (fun c => dieOfCore c == d && !(s.cores.get c).retired && !coreSpent s c && (chooseQ0 s c l.need).isSome)).length
  (List.range 4).foldl (fun best d => if free best < free d then d else best) 0

/-! ### Acceptance (R315, R316, R331) -/

/-- A launch is accepted: it has its home die and its place in the order of acceptance. -/
def State.acceptLaunch (s : State) (owner : Nat) (seq : Word) (ifc : Option Nat) (record : List Byte) : State :=
  let l : Launch := { (default : Launch) with
    state := .accepted, owner := owner, seq := seq, ifc := ifc, record := record, order := s.serial, accepted := s.tick }
  let l := { l with home := homeDie s owner l }
  { s with launches := s.launches.set s.serial l, serial := s.serial + 1 }

/-- The next SEQ of an interface (R314). -/
def seqNext (s : State) (i : Nat) : Word := BitVec.ofNat 64 (i * 2 ^ 48 + (s.ifcs.get i).seqNum % 2 ^ 48)

/-- SUBMIT: a write of the host to the SUBMIT field (R315). (DEDUCED, log 45) -/
def execSubmit (ifc offset pasid : Nat) (deferrable : Bool) (bytes : List Byte) (s : State) : Host.Outcome State Fault Refusal :=
  let x := s.ifcs.get ifc
  let refuse := fun (a : Nat) => s.setIfc ifc (fun x => { x with errCnt := x.errCnt + 1, answer := a })
  match x.owner with
  | none => .next (refuse (if deferrable then 1 else 0))
  | some o =>
    let resetting := match (s.owners.get o).pending with
      | some (code, _) => code == 0x0A || code == 0x0B
      | none => false
    if !deferrable || offset ≠ 0 || bytes.length ≠ 128 then .next (refuse (if deferrable then 1 else 0))
    else if resetting || pasid ≠ x.pasid then .next (refuse 1)
    else if (s.owners.get o).pol 223 208 ≤ x.inflight || 4096 ≤ countLaunches s (fun l => l.owner == o) then
      .next (s.setIfc ifc (fun x => { x with retryCnt := x.retryCnt + 1, answer := 2 }))
    else
      let s' := s.acceptLaunch o (seqNext s ifc) (some ifc) bytes
      .next (s'.setIfc ifc (fun x => { x with seqNum := x.seqNum + 1, inflight := x.inflight + 1, answer := 3 }))

/-- The launch of an owner that a SEQ names: one that has not ended (R332). -/
def namedLaunch (s : State) (owner : Nat) (seq : Word) : Option Nat :=
  (s.launches.find? (fun e => e.2.state ≠ .none ∧ e.2.owner = owner ∧ e.2.seq = seq)).map (·.1)

/-- Begin the end of a launch with CANCELLED (R62); whether there is one that is not ending already. -/
def State.cancelLaunch (s : State) (l : Nat) : State × Bool :=
  if (s.launches.get l).ending then (s, false) else (s.endLaunch l statusCancelled 0 none, true)

/-- CANCEL: an 8-byte write of a SEQ of the interface (R314). -/
def execCancel (ifc pasid : Nat) (w : Word) (s : State) : Host.Outcome State Fault Refusal :=
  let x := s.ifcs.get ifc
  match x.owner with
  | none => .next s
  | some o =>
    if pasid ≠ x.pasid then .next s
    else
      match namedLaunch s o w with
      | none => .next s
      | some l => if (s.launches.get l).ifc = some ifc then .next (s.cancelLaunch l).1 else .next s

/-! ### `lnch`, `lcancel`, `lquery` (R330–R333) -/

/-- Accept the records of the lanes in order (R331): the SEQ of each, 0 for a retry. -/
def acceptRecords (s : State) (w : Nat) (xs : List (Nat × List Byte)) : State × List (Nat × Word) :=
  xs.foldl (fun (r : State × List (Nat × Word)) x =>
    let s := r.1
    let o := (s.warp w).owner
    let die := dieOf w
    if 256 ≤ countLaunches s (fun l => l.owner == o && seqDev l.seq && seqSrc l.seq == die) ||
       4096 ≤ countLaunches s (fun l => l.owner == o) then (s, r.2 ++ [(x.1, (0 : Word))])
    else
      let n := (s.dies.get die).devSeq.get o
      let seq : Word := BitVec.ofNat 64 (2 ^ 63 + die * 2 ^ 48 + n % 2 ^ 48)
      let s := s.acceptLaunch o seq none x.2
      (s.setDie die (fun d => { d with devSeq := d.devSeq.set o (n + 1) }), r.2 ++ [(x.1, seq)])) (s, [])

def lnchBody (f : F64) (s : State) (gl : List Nat) : Res :=
  let w := s.cur.warp
  let xs := gl.map (fun l => (l, (opnd s w l f.lit f.a.toNat).toNat))
  let bad := xs.filterMap (fun x =>
    if x.2 % 64 ≠ 0 then some ({ lane := x.1, bit := causeAlign, addr := x.2 } : Raise)
    else if 2 ^ 56 ≤ x.2 then some { lane := x.1, bit := causeBounds, addr := x.2 } else none)
  if bad ≠ [] then .trap bad
  else
    readDescs s w 128 xs (fun s ds =>
      let s := s.release w scopePkg
      let r := acceptRecords s w (ds.map (fun d => (d.1, wordBytes d.2.2)))
      if f.set = 0 then .next (writeLanes r.1 w f.d.toNat r.2)
      else .next (startPending r.1 .lnch f.set.toNat gl 0 (.writeRegs (r.2.map (fun x => (x.1, f.d.toNat, x.2))))))

def execLnch (f : F64) (s : State) : Host.Outcome State Fault Refusal :=
  finish (issue { hdrOf (.lnch f) f with mem := true, rel := some scopePkg } (lnchBody f) s)

/-- Complete the pending instruction of a unit. -/
def completeUnit (u : WorkUnit) (pid : Nat) (s : State) : State :=
  match s.pending.find? (fun p => p.pid == pid && p.unit == u) with
  | some p => s.completePending p
  | none => s

/-- LNCH_ANSWER: the last lane's answer has come; D is written and the slot clears (R331). -/
def execLnchAnswer (pid : Nat) (s : State) : Host.Outcome State Fault Refusal := .next (completeUnit .lnch pid s)

/-- Cancel in each lane in order. -/
def lcancelBody (f : F64) (s : State) (gl : List Nat) : Res :=
  let w := s.cur.warp
  let xs := gl.map (fun l => (l, opnd s w l f.lit f.a.toNat))
  .next (xs.foldl (fun s x =>
    match namedLaunch s (s.warp w).owner x.2 with
    | none => s.writeD w x.1 f.d.toNat 0
    | some l =>
      let r := s.cancelLaunch l
      r.1.writeD w x.1 f.d.toNat (BitVec.ofNat 64 (b2n r.2))) s)

def execLcancel (f : F64) (s : State) : Host.Outcome State Fault Refusal :=
  .next (issue (hdrOf (.lcancel f) f) (lcancelBody f) s)

/-- STATE of `lquery`: a launch not yet checked reads as the state it is about to enter (R317). -/
def Launch.stateCode (l : Launch) : Nat :=
  match l.state with
  | .none => 0
  | .accepted => if l.depc = 0 then 2 else 1
  | .waiting => 1
  | .queued => 2
  | .running => 3
  | .ending => 4

/-- The word of `lquery` (R332). -/
def lqueryWord (s : State) (owner : Nat) (seq : Word) : Nat :=
  match namedLaunch s owner seq with
  | none => 0
  | some l =>
    let x := s.launches.get l
    min x.placed (2 ^ 32 - 1) * 2 ^ 16 + x.prio * 2 ^ 9 + x.stateCode

def lqueryBody (f : F64) (s : State) (gl : List Nat) : Res :=
  let w := s.cur.warp
  .next (writeLanes s w f.d.toNat (gl.map (fun l =>
    (l, BitVec.ofNat 64 (lqueryWord s (s.warp w).owner (opnd s w l f.lit f.a.toNat))))))

def execLquery (f : F64) (s : State) : Host.Outcome State Fault Refusal :=
  .next (issue (hdrOf (.lquery f) f) (lqueryBody f) s)

/-! ### The launch unit's memory accesses (R320, R324, R341) -/

/-- Forget the refusal of a granule. -/
def State.forgive (s : State) (l g : Nat) : State := s.setLaunch l (fun y => { y with refused := y.refused.filter (· != g) })

/-- The place of an address for the launch unit. A refused translation fails the access that waited for it (R350). -/
def luLoc (s : State) (l : Nat) (a : Acc) (va : Nat) : Eng Loc :=
  let x := s.launches.get l
  let g := va / 2 ^ 16
  if 2 ^ 56 ≤ va then .fail s stFault false
  else
    match xlate s (dieReq s x.home x.owner 0 4 (.launch l) a) va with
    | (.ok p, s') => .ok (if x.refused.contains g then s'.forgive l g else s') p
    | (.refused, s') => .fail s' stFault false
    | (_, s') => if x.refused.contains g then .fail (s.forgive l g) stFault false else .wait s'

/-- Read `n` bytes line by line. -/
def luRead (s : State) (l va n : Nat) : Eng (List Byte) :=
  if n = 0 then .ok s []
  else
    (lineRuns va n).foldl (fun (e : Eng (List Byte)) r =>
      e.bind (fun s bs => (luLoc s l .read r.1).bind (fun s p =>
        let y := s.readLoc (s.launches.get l).owner p r.2
        .ok y.2 (bs ++ y.1)))) (.ok s [])

/-- The places of `n` bytes that the launch unit is to write, line by line. -/
def luPlaces (s : State) (l va n : Nat) : Eng (List (Loc × Nat × Nat)) :=
  (lineRuns va n).foldl (fun (e : Eng (List (Loc × Nat × Nat))) r =>
    e.bind (fun s ps => (luLoc s l .write r.1).bind (fun s p => .ok s (ps ++ [(p, r.1 - va, r.2)])))) (.ok s [])

/-! ### Checking the record (R49, R50, R59, R320) -/

/-- One entry of the group table (R49). -/
structure Group where
  marv    : Nat
  expB    : Nat
  expA    : Nat
  shape   : Nat
  co      : Bool
  count   : Nat
  at_     : Nat
  bad     : Bool            -- a reserved bit is set, or COUNT is out of range
  members : List Nat
deriving DecidableEq, Repr

def groupOf (n : Nat) : Group where
  marv := bitsOf n 223 192
  expB := bitsOf n 191 160
  expA := bitsOf n 159 148
  shape := bitsOf n 119 112
  co := bitOf n 96
  count := bitsOf n 95 64
  at_ := bitsOf n 63 0
  bad := bitsOf n 255 224 != 0 || bitsOf n 147 128 != 0 || bitsOf n 127 120 != 0 || bitsOf n 111 97 != 0 ||
    bitsOf n 95 64 == 0 || decide (2 ^ 24 < bitsOf n 95 64)
  members := []

/-- Cut bytes into little-endian numbers of `n` bytes. -/
def cutNats (n : Nat) : Nat → List Byte → List Nat
  | 0, _ => []
  | k + 1, bs => leNat (bs.take n) :: cutNats n k (bs.drop n)

/-- Read the group table; `ok` is false when a read faults. A table that is itself malformed is not read further. -/
def readGroups (s : State) (l : Nat) : Eng (List Group × Bool) :=
  let x := s.launches.get l
  if x.gtn = 0 ∨ 256 < x.gtn ∨ x.gtab % 32 ≠ 0 then .ok s ([], true)
  else
    match luRead s l x.gtab (32 * x.gtn) with
    | .wait s => .wait s
    | .fail s _ _ => .ok s ([], false)
    | .ok s bs =>
      ((cutNats 32 x.gtn bs).map groupOf).foldl (fun (e : Eng (List Group × Bool)) g =>
        e.bind (fun s r =>
          if g.bad ∨ g.at_ % 4 ≠ 0 ∨ !r.2 then .ok s (r.1 ++ [g], r.2)
          else
            match luRead s l g.at_ (4 * g.count) with
            | .wait s => .wait s
            | .fail s _ _ => .ok s (r.1 ++ [g], false)
            | .ok s ms => .ok s (r.1 ++ [{ g with members := cutNats 4 g.count ms }], r.2))) (.ok s ([], true))

/-- Read the BARL words. (DEDUCED, log 62) -/
def readBarl (s : State) (l : Nat) : Eng (List Word × Bool) :=
  let x := s.launches.get l
  if x.barl = 0 ∨ x.barl % 8 ≠ 0 ∨ 64 < x.barN then .ok s ([], true)
  else
    match luRead s l x.barl (8 * x.barN) with
    | .wait s => .wait s
    | .fail s _ _ => .ok s ([], false)
    | .ok s bs => .ok s ((cutNats 8 x.barN bs).map (BitVec.ofNat 64), true)

def shapeW (shape : Nat) : Nat := 2 ^ (shape / 16)
def shapeH (shape : Nat) : Nat := 2 ^ (shape % 16)
def shapeOk (shape : Nat) : Bool := decide (shape / 16 ≤ 5) && decide (shape % 16 ≤ 4)

/-- Whether an origin of a die is legal for a shape (R325): its bit of the map is set, the rectangle lies on the mesh,
and every core of it is the owner's and not retired. -/
def originOk (s : State) (owner die shape o : Nat) : Bool :=
  let w := shapeW shape
  let h := shapeH shape
  let x := o % 32
  let y := o / 32
  let all := ownerCores (s.owners.get owner)
  (match originTable s owner with
   | none => false
   | some t =>
     let entry := t + (die * 30 + 5 * (shape / 16) + shape % 16) * 64
     bitOf (leNat (resRead s owner (entry + o / 8) 1)) (o % 8)) &&
  decide (x + w ≤ 32) && decide (y + h ≤ 16) &&
  (List.range h).all (fun j => (List.range w).all (fun i =>
    let c := die * 512 + 32 * (y + j) + x + i
    all.contains c && !(s.cores.get c).retired))

/-- Legal origins of a die, in the order they are tried. -/
def origins (s : State) (owner die shape : Nat) : List Nat := (List.range 512).filter (originOk s owner die shape)

/-- The group checks of R50. (DEDUCED, log 62) -/
def groupsBad (s : State) (x : Launch) (gs : List Group) : Bool :=
  let ms := gs.flatMap (·.members)
  let cos := (gs.filter (·.co)).flatMap (·.members)
  decide (256 < x.gtn) || gs.any (·.bad) ||
  ms.any (fun m => decide (4 < (ms.filter (· == m)).length)) ||
  cos.any (fun m => decide (1 < (cos.filter (· == m)).length)) ||
  ms.any (fun m => decide (x.grid ≤ m)) ||
  gs.any (fun g => g.members.any (fun m => decide (1 < (g.members.filter (· == m)).length))) ||
  gs.any (fun g => g.co && (!shapeOk g.shape || decide (shapeW g.shape * shapeH g.shape < g.count))) ||
  gs.any (fun g => g.co && shapeOk g.shape && (List.range 4).all (fun d => (origins s x.owner d g.shape).isEmpty))

/-- The first failing check of R59 as its DETAIL, with what was read of the tables. (DEDUCED, log 62) -/
def recordDetail (s : State) (x : Launch) (barl : List Word) (gs : List Group) (readOk : Bool) : Option Nat :=
  let o := s.owners.get x.owner
  if 2 ^ 56 ≤ x.entry ∨ x.entry % 4 ≠ 0 then some 1
  else if x.grid = 0 ∨ 2 ^ 32 < x.grid then some 2
  else if x.nWarps = 0 ∨ 16 < x.nWarps ∨ x.field 136 133 ≠ 0 then some 3
  else if x.regu = 0 ∨ 12 < x.regu ∨ 448 < (x.nWarps + 3) / 4 * 32 * x.regu then some 4
  else if 2048 < x.benchLines ∨ 128 < x.accKiB then some 5
  else if 64 < x.barN ∨ barl.any (fun b => b.toNat % 2 ^ 20 ≠ 0) ∨ x.barl % 8 ≠ 0 ∨ x.depc % 16 ≠ 0 ∨
      (x.gtn ≠ 0 ∧ x.gtab % 32 ≠ 0) ∨ gs.any (fun g => g.at_ % 4 != 0) then some 6
  else if groupsBad s x gs then some 7
  else if o.pol 182 176 < x.prio ∨ gs.any (fun g => decide (o.marvBytes < g.marv * 1024)) ∨
      (x.spillKiB ≠ 0 ∧ (spillPool s x.owner).isNone) then some 8
  else if !readOk then some 9
  else none

/-- VGIDs that may not be drawn: live ones, and those released within the last 2^22 core cycles (R54). -/
def vgidTaken (s : State) (v : Nat) : Bool :=
  v == 0 || (s.wgs.get v).phase != .none || (s.sets.get v).live ||
  s.released.any (fun r => r.1 == v && decide (periodsAt s.tick < periodsAt r.2 + 2 ^ 22))

/-- The first legal VGID at or after a value. -/
def vgidFrom (s : State) : Nat → Nat → Nat
  | 0, v => v % 2 ^ 24
  | n + 1, v => if vgidTaken s (v % 2 ^ 24) then vgidFrom s n (v + 1) else v % 2 ^ 24

/-- The VGID that a newcomer receives (R54): a free value among the legal ones. -/
def State.newVgid (s : State) : Nat × State :=
  (vgidFrom s (s.wgs.length + s.sets.length + s.released.length + 1) (Config.vgidDraw s.fresh), { s with fresh := s.fresh + 1 })

/-- Where a set's barrier stands until member 0 is placed: a place of its own outside the cores' tables (R52). (DEDUCED, log 75) -/
def waitingEntry (v : Nat) : Nat × Nat := ((2 ^ 20 + v) / 64, (2 ^ 20 + v) % 64)

/-- The set instances of a launch, in set index order, each with its barrier (R49, R52). (DEDUCED, log 64) -/
def State.addSets (s : State) (l : Nat) (gs : List Group) : State :=
  (gs.zip (List.range gs.length)).foldl (fun s g =>
    let r := s.newVgid
    let v := r.1
    let has := g.1.expA != 0 || g.1.expB != 0
    let i : SetInst := { live := true, launch := l, index := g.2, co := g.1.co, shape := g.1.shape, members := g.1.members,
                         expA := g.1.expA, expB := g.1.expB, entry := if has then some (waitingEntry v) else none, die := none,
                         marver := none, marvKiB := g.1.marv, origin := none }
    let b : BarEntry := { vgid := v, v := true, phase := 0, expA := g.1.expA, cntA := 0, expB := g.1.expB, cntB := 0 }
    let s := { r.2 with sets := r.2.sets.set v i, bars := if has then r.2.bars.set (2 ^ 20 + v) b else r.2.bars }
    s.setLaunch l (fun x => { x with sets := x.sets ++ [v] })) s

/-- The launch ends without a record (R320). -/
def State.endUnrecorded (s : State) (l : Nat) : State :=
  let s := s.setLaunch l (fun x => { x with noRecord := true })
  if (s.launches.get l).ending then s else s.endLaunch l statusBadLaunch 0 none

/-- LAUNCH_RECORD_CHECK: the checks of R59, DONE first (R320); then the launch is Waiting or Queued (R317). `ecc` says that
a read of BARL, GTAB or MEMBERS meets an uncorrectable error (R61, DETAIL 0x09). (DEDUCED, log 64) -/
def execLaunchRecordCheck (l : Nat) (ecc : Bool) (s : State) : Host.Outcome State Fault Refusal :=
  let x := s.launches.get l
  if x.state ≠ .accepted ∨ !ownerHere s x.owner then .next s
  else if x.done % 64 ≠ 0 ∨ 2 ^ 56 ≤ x.done then .next (s.endUnrecorded l)
  else
    match luPlaces s l x.done 80 with
    | .wait s => finish s
    | .fail s _ _ => finish (s.endUnrecorded l)
    | .ok s _ =>
      match (readBarl s l).bind (fun s b => (readGroups s l).bind (fun s g => .ok s (b, g))) with
      | .wait s => finish s
      | .fail s _ _ => finish s
      | .ok s (b, g) =>
        match recordDetail s x b.1 g.1 (b.2 && g.2 && !(ecc && (x.barl != 0 || x.gtn != 0))) with
        | some d => finish (s.endLaunch l statusBadLaunch d none)
        | none =>
          let s := s.addSets l g.1
          finish (s.setLaunch l (fun x => { x with arm := b.1, state := if x.depc = 0 then .queued else .waiting }))

/-- DEPENDENCE_CHECK: the launch unit reads the counter of a Waiting launch (R319). Meeting the dependence is an
acquire at `.sys`. `ecc` says that the read of the counter meets an uncorrectable error. -/
def execDependenceCheck (l : Nat) (ecc : Bool) (s : State) : Host.Outcome State Fault Refusal :=
  let x := s.launches.get l
  if x.state ≠ .waiting ∨ !ownerHere s x.owner then .next s
  else
    match luRead s l x.depc 16 with
    | .wait s => finish s
    | .fail s _ _ => finish (s.endLaunch l statusDepFail 0x80 none)
    | .ok s bs =>
      let st := leNat (bs.drop 8) % 64
      if ecc then finish (s.endLaunch l statusDepFail 0x80 none)
      else if st ≠ 0 then finish (s.endLaunch l statusDepFail st none)
      else if x.dept ≤ leNat (bs.take 8) then finish ((s.dropHost x.owner).setLaunch l (fun x => { x with state := .queued }))
      else finish s

/-! ### Placing a workgroup (R29, R46, R324, R325) -/

/-- Lowest start, a multiple of `z` above `base`, of a free run of `n` bytes below `lim`. -/
def freeRun (base lim z n : Nat) (used : List (Nat × Nat)) : Option Nat :=
  let up := fun (x : Nat) => base + (x - base + z - 1) / z * z
  let starts := (base :: used.map (fun u => up (u.1 + u.2))).filter (fun a =>
    decide (base ≤ a) && decide (a + n ≤ lim) && used.all (fun u => decide (a + n ≤ u.1) || decide (u.1 + u.2 ≤ a)))
  starts.min?

/-- The spill areas of a workgroup placed for the first time (R150): none when the pool has no free run. -/
def spillRun (s : State) (owner : Nat) (l : Launch) : Option (Option (Nat × Nat)) :=
  if l.spillKiB = 0 then some none
  else
    match spillPool s owner with
    | none => none
    | some (base, n) =>
      let want := l.nWarps * 1024 * l.spillKiB
      (freeRun ((base + 255) / 256 * 256) (base + n) 256 want (s.owners.get owner).spillUsed).map (fun a => some (a, want))

/-- Arm the barrier entries of a workgroup (R46, R58). -/
def State.armBars (s : State) (core vgid : Nat) (bars : List Nat) (arm : List Word) : State :=
  (bars.zip (List.range bars.length)).foldl (fun s x =>
    let a := (arm.getD x.2 0).toNat
    let b : BarEntry := { vgid := vgid, v := decide (a ≠ 0), phase := 0, expA := bitsOf a 31 20, cntA := 0,
                          expB := bitsOf a 63 32, cntB := 0 }
    { s with bars := s.bars.set (core * 64 + x.1) b }) s

/-- A warp at its first instruction (R29): every register reads zero but w0–w7. -/
def State.startWarp (s : State) (w : Nat) (x : Warp) (entry : Nat) (args : List Nat) : State :=
  let s := { s with
    vregs := s.vregs.fill (vkey w 0 0) (32 * 512) 0
    wregs := s.wregs.fill (wkey w 0) 64 0
    warps := s.warps.set w x }
  let s := (args.zip (List.range args.length)).foldl (fun s a => s.setW w a.2 (BitVec.ofNat 64 a.1)) s
  s.onLanes w lanes32 (fun _ _ => { (default : Thread) with live := true, pc := BitVec.ofNat 64 entry, since := s.tick })

/-- Hand a window of bench and accumulator to a workgroup: where another owner used it last, nothing of that owner stays and every
line is present; where this owner did, its contents stay. (DESIGN CHOICE, log 66) -/
def State.clearWindow (s : State) (owner core k : Nat) : State :=
  let own := (s.cores.get core).windows.get k = owner + 1
  let s := s.setCore core (fun c => { c with windows := c.windows.set k (owner + 1) })
  { s with
    bench := if own then s.bench else s.bench.fill (benchKey core (k * 2 ^ 18)) (2 ^ 18) 0
    benchAbs := s.benchAbs.fill (benchKey core (k * 2 ^ 18) / 128) 2048 false
    acc := if own then s.acc
      else (List.range 4).foldl (fun (m : SMap Byte) q => m.fill (core * 2 ^ 22 + q * 2 ^ 20 + k * 2 ^ 15) (2 ^ 15) 0) s.acc }

/-- A slot and units for each warp on its quad: warp id and unit map by warp index. -/
def allotWarps (s : State) (core q0 : Nat) (n : Need) : List (Nat × List Nat) :=
  n.units.map (fun u =>
    let q := (q0 + u.2) % 4
    let before := n.units.filter (fun v => v.2 < u.2 ∧ v.2 % 4 = u.2 % 4)
    let skip := before.foldl (fun k v => k + v.1) 0
    ((freeSlots s core q).getD before.length 0, ((freeUnits s core q).drop skip).take u.1))

/-- The set instances of a launch that a workgroup index belongs to, in set index order (R53). -/
def setsOf (s : State) (l : Launch) (ix : Nat) : List Nat := l.sets.filter (fun v => (s.sets.get v).members.contains ix)

/-- Carve the marver regions that the sets of a workgroup have still to receive on a die, one after the other; none when a set
belongs to another die, or the regions do not fit together (R13, R324). -/
def carveRegions (s : State) (o : Owner) (die : Nat) : List Nat → List (Nat × Nat × Nat) → Option (List (Nat × Nat × Nat))
  | [], used => some used
  | v :: r, used =>
    let i := s.sets.get v
    if i.marvKiB = 0 then carveRegions s o die r used
    else
      match i.die with
      | some d => if d = die then carveRegions s o die r used else none
      | none =>
        match freeRun 0 o.marvBytes 128 (i.marvKiB * 1024) ((used.filter (fun u => u.1 == die)).map (fun u => (u.2.1, u.2.2))) with
        | none => none
        | some a => carveRegions s o die r (used ++ [(die, a, i.marvKiB * 1024)])

/-- Whether the sets of a workgroup let it run on a die (R13). -/
def setsFit (s : State) (owner die : Nat) (vs : List Nat) : Bool :=
  (carveRegions s (s.owners.get owner) die vs (s.owners.get owner).marvUsed).isSome

/-- Whether a set's barrier still waits for the core of member 0 (R52). -/
def SetInst.waits (i : SetInst) : Bool :=
  match i.entry with
  | some (c, _) => decide (2 ^ 14 ≤ c)
  | none => false

/-- Member 0 of a set is placed: its barrier takes an entry of that core, and credits on their way follow it (R19, R52). -/
def State.seatBarrier (s : State) (core v : Nat) : State :=
  match (freeBars s core).head?, (s.sets.get v).entry with
  | some e, some (c, n) =>
    { s with
      bars := (s.bars.set (core * 64 + e) (s.bars.get (c * 64 + n))).set (c * 64 + n) default
      credits := s.credits.map (fun m => if m.core = c ∧ m.entry = n then { m with core := core, entry := e } else m)
      sets := s.sets.update v (fun i => { i with entry := some (core, e) }) }
  | _, _ => s

/-- The sets of a workgroup take note of its placement: die, marver region, barrier entry (R13, R52). -/
def State.joinSets (s : State) (owner core ix : Nat) (vs : List Nat) : State :=
  let die := dieOfCore core
  vs.foldl (fun s v =>
    let i := s.sets.get v
    let s := if i.die.isSome then s
      else
        let o := s.owners.get owner
        let run := if i.marvKiB = 0 then none
          else (freeRun 0 o.marvBytes 128 (i.marvKiB * 1024)
            ((o.marvUsed.filter (fun u => u.1 == die)).map (fun u => (u.2.1, u.2.2)))).map (fun a => (a, i.marvKiB * 1024))
        let s := match run with
          | none => s
          | some (a, n) => s.setOwner owner (fun o => { o with marvUsed := o.marvUsed ++ [(die, a, n)] })
        { s with sets := s.sets.update v (fun i => { i with die := some die, marver := run }) }
    if i.members.head? = some ix ∧ i.waits then s.seatBarrier core v else s) s

/-- Set barrier entries that placing a workgroup takes of its core (R52). -/
def setEntries (s : State) (ix : Nat) (vs : List Nat) : Nat :=
  (vs.filter (fun v => let i := s.sets.get v; i.members.head? == some ix && i.waits)).length

/-- Place workgroup `ix` of a launch on a core, if it fits there. -/
def placeOn (s : State) (l ix core : Nat) : Option State :=
  let x := s.launches.get l
  let vs := setsOf s x ix
  let n := { x.need with bars := x.barN + setEntries s ix vs }
  if !coreOpen s l core || roomKept s x.owner core l || !setsFit s x.owner (dieOfCore core) vs then none
  else
    match chooseQ0 s core n, spillRun s x.owner x, (freeWindows s core).head? with
    | some q0, some spill, some win =>
      let r := s.newVgid
      let v := r.1
      let s := r.2
      let ws := allotWarps s core q0 x.need
      let bars := (freeBars s core).take x.barN
      let g : Workgroup := { (default : Workgroup) with
        phase := .resident, launch := l, owner := x.owner, index := ix, core := core, q0 := q0, warps := ws.map (·.1),
        benchBase := win * 2 ^ 18, benchLen := 128 * x.benchLines, accBase := win * 2 ^ 15, accKiB := x.accKiB,
        barCore := core, bars := bars, free := [0, 0, 0, 0], spill := spill, sets := vs, order := s.serial }
      let s := { s with serial := s.serial + 1, wgs := s.wgs.set v g }
      let s := match spill with
        | some a => s.setOwner x.owner (fun o => { o with spillUsed := o.spillUsed ++ [a] })
        | none => s
      let s := s.armBars core v bars x.arm
      let s := s.joinSets x.owner core ix vs
      let s := s.clearWindow x.owner core win
      let s := if (s.owners.get x.owner).shares.contains core then s.setCore core (fun c => { c with turn := x.owner + 1 }) else s
      let len := 1024 * x.spillKiB
      some ((ws.zip (List.range ws.length)).foldl (fun s w =>
        let wp : Warp := { (default : Warp) with
          live := true, vgid := v, index := w.2, owner := x.owner, units := w.1.2,
          spBase := BitVec.ofNat 64 (((spill.map (·.1)).getD 0) + w.2 * len), spLen := len }
        s.startWarp w.1.1 wp x.entry ((List.range 8).map x.arg)) s)
    | _, _, _ => none

/-- The owner's cores in the order in which a workgroup is offered them (R324). -/
def coreOrder (s : State) (owner home : Nat) : List Nat :=
  let cs := ownerCores (s.owners.get owner)
  cs.filter (fun c => dieOfCore c == home) ++ cs.filter (fun c => dieOfCore c != home)

/-- The first that answers. -/
def firstSome {α β : Type} (f : α → Option β) : List α → Option β
  | [] => none
  | a :: r => match f a with
    | some b => some b
    | none => firstSome f r

/-- The dies in the order in which a set is offered them. -/
def dieOrder (home : Nat) : List Nat := home :: (List.range 4).filter (· != home)

/-- Place every member of a co-resident set at an origin, or none (R51). -/
def placeSetAt (s : State) (l v die o : Nat) : Option State :=
  let i := s.sets.get v
  let r := (i.members.zip (List.range i.members.length)).foldl (fun (t : Option State) m =>
    t.bind (fun t => placeOn t l m.1 (die * 512 + 32 * (o / 32 + m.2 / shapeW i.shape) + o % 32 + m.2 % shapeW i.shape))) (some s)
  r.map (fun s => { s with sets := s.sets.update v (fun i => { i with origin := some o }) })

def placeSet (s : State) (l v : Nat) : Option State :=
  let x := s.launches.get l
  firstSome (fun die => firstSome (fun o => placeSetAt s l v die o) (origins s x.owner die (s.sets.get v).shape)) (dieOrder x.home)

/-- Advance `next` past workgroups that are placed. -/
def Launch.catchUp (x : Launch) : Nat → Launch
  | 0 => x
  | n + 1 => if x.placedHi.contains x.next then
      Launch.catchUp { x with next := x.next + 1, placedHi := x.placedHi.filter (· != x.next) } n
    else x

/-- Note that workgroups of a launch are placed; its first placement is an acquire at `.sys` (R321). -/
def State.notePlaced (s : State) (l : Nat) (ixs : List Nat) : State :=
  let s := if (s.launches.get l).state = .queued then s.dropHost (s.launches.get l).owner else s
  s.setLaunch l (fun x =>
    { x with state := .running, placed := x.placed + ixs.length, placedHi := x.placedHi ++ ixs }.catchUp (x.placedHi.length + ixs.length))

/-- Place the next workgroup or set of a launch at or after an index (R318, R324, R325): later workgroups pass only
members of a co-resident set that does not fit yet. -/
def placeNext (s : State) (l : Nat) : Nat → Nat → Option State
  | 0, _ => none
  | n + 1, ix =>
    let x := s.launches.get l
    if x.grid ≤ ix then none
    else if x.isPlaced ix then placeNext s l n (ix + 1)
    else
      match (setsOf s x ix).find? (fun v => (s.sets.get v).co) with
      | none => (firstSome (placeOn s l ix) (coreOrder s x.owner x.home)).map (fun t => t.notePlaced l [ix])
      | some v =>
        let i := s.sets.get v
        if i.members.min? = some ix then
          match placeSet s l v with
          | some t => some (t.notePlaced l i.members)
          | none => placeNext s l n (ix + 1)
        else placeNext s l n (ix + 1)

/-- Indices that a scan for the next workgroup may have to pass. -/
def Launch.passed (s : State) (x : Launch) : Nat :=
  x.placedHi.length + (x.sets.map (fun v => if (s.sets.get v).co then (s.sets.get v).members.length else 0)).foldl (· + ·) 0 + 1

/-- Place work of one launch. (DEDUCED, log 63) -/
def placeLaunch (s : State) (l : Nat) : Option State :=
  let x := s.launches.get l
  if !wantsPlace x || !ownerRuns s x.owner then none
  else placeNext s l (x.passed s) x.next

/-- Whether a launch comes before another of its owner (R318). -/
def before (a b : Launch) : Bool := decide (b.prio < a.prio) || (a.prio == b.prio && decide (a.order < b.order))

/-- Launches of the same owner that come before one, with work to place. (DEDUCED, log 63) -/
def earlierLaunches (s : State) (l : Nat) : List Nat :=
  let x := s.launches.get l
  (s.launches.filter (fun e => e.1 != l && e.2.owner == x.owner && wantsPlace e.2 && before e.2 x)).map (·.1)

/-! ### Saved workgroups (R209, R42) -/

/-- What a saved workgroup asks of a core: its barrier entries stay where they were armed (R209), and it takes the units
it held, those it gave up included (R42). -/
def Workgroup.savedNeed (g : Workgroup) : Need :=
  { units := g.quotas.zip (List.range g.quotas.length), lines := g.benchLen / 128, acc := g.accKiB, bars := 0, extra := g.free }

/-! ### Pre-emption (R327) and the order of placement -/

/-- Workgroups that a queued launch may pre-empt, the first choice first: of the lowest PRIO, then placed last. -/
def victims (s : State) (l : Nat) : List Nat :=
  let x := s.launches.get l
  let ok := s.wgs.filter (fun e =>
    let y := s.launches.get e.2.launch
    e.2.phase == .resident && e.2.owner == x.owner && y.state == .running && decide (y.prio + 16 ≤ x.prio))
  let worse := fun (a b : Nat × Workgroup) =>
    let pa := (s.launches.get a.2.launch).prio
    let pb := (s.launches.get b.2.launch).prio
    decide (pa < pb) || (pa == pb && decide (b.2.order < a.2.order))
  (ok.mergeSort worse).map (·.1)

/-- The members of a workgroup's co-resident set that are on cores, or itself alone (R51). -/
def together (s : State) (v : Nat) : List Nat :=
  match ((s.wgs.get v).sets).find? (fun k => (s.sets.get k).co) with
  | none => [v]
  | some k => (s.wgs.filter (fun e => e.2.sets.contains k && e.2.phase == .resident)).map (·.1)

/-- Pre-empt for a queued launch that finds no core, unless a stop is under way already; a co-resident set stops whole
(R327). -/
def State.preempt (s : State) (l : Nat) : State :=
  let x := s.launches.get l
  if x.state ≠ .queued ∨ s.wgs.any (fun e => e.2.owner == x.owner && e.2.phase == .stopping) then s
  else
    match victims s l with
    | [] => s
    | v :: _ => s.post (.workgroupStop v)

/-- Whether a saved workgroup of a launch waits to come back. -/
def hasReturning (s : State) (l : Nat) : Bool := s.wgs.any (fun e => e.2.launch == l && readyToRestore s e.1)

/-- WORKGROUP_PLACEMENT: place the next workgroup or set of a launch, if no launch of the owner that comes before it can
be served first; a queued launch that finds no core pre-empts (R318, R324, R325, R327). Work that a displacement makes room for
comes before what its launch has away (R328). (DEDUCED, log 63) -/
def execWorkgroupPlacement (launch : Nat) (s : State) : Host.Outcome State Fault Refusal :=
  let x := s.launches.get launch
  if !wantsPlace x || !ownerRuns s x.owner || (hasReturning s launch && !roomAwaits s x.owner launch) then .next s
  else if (earlierLaunches s launch).any (fun e => (placeLaunch s e).isSome) then .next s
  else
    match placeLaunch s launch with
    | some t => .next t
    | none => .next (s.preempt launch)

/-! ### Ends (R33, R46, R62, R320–R322) -/

/-- Operations of the engines under a VGID, those that its save has put away among them. -/
def enginesBusy (s : State) (v : Nat) : Bool :=
  s.xfer.any (fun e => e.2.any (fun x => x.vgid == v)) || s.cores.any (fun c => c.2.cube.any (fun x => x.vgid == v)) ||
  s.colls.any (fun x => x.vgid == v) || (s.wgs.get v).savedX != [] || (s.wgs.get v).savedC != []

/-- A warp leaves its slot. -/
def State.freeWarp (s : State) (w : Nat) : State :=
  let s := s.dropReqs (fun r => r.ofWarp w)
  { s with
    vregs := s.vregs.fill (vkey w 0 0) (32 * 512) 0
    wregs := s.wregs.fill (wkey w 0) 64 0
    threads := s.threads.fill (tid w 0) 32 default
    pending := s.pending.filter (fun p => p.warp != w)
    asked := s.asked.filter (fun a => a.warp != w)
    locks := s.locks.filter (fun k => k.space != .bhold w)
    issueQ := s.issueQ.filter (fun q => q.warp != w)
    warps := s.warps.set w default }

/-- The sticky flags of a workgroup's warps, wherever it stands (R101). -/
def wgFlags (s : State) (g : Workgroup) : BitVec 9 :=
  g.savedW.foldl (fun f x => f ||| x.flags) (g.warps.foldl (fun f w => f ||| (s.warp w).flags) g.keptFlags)

/-- A workgroup gives back everything it holds; its VGID is released (R33, R46, R54). Its end is a release (R46): its
stores are performed before its lines close, so that no line opens under a VGID that has gone. Its flags join its launch's
(R60). Threads of the core that wait for a mailbox entry try again where it gives one up (R175). (DEDUCED, log 11) -/
def State.freeWg (s : State) (v : Nat) : State :=
  let g := s.wgs.get v
  let s := s.setLaunch g.launch (fun x => { x with flags := x.flags ||| wgFlags s g })
  let s := s.drainPort (fun p => p.vgid == v)
  let s := g.warps.foldl (fun s w => s.freeWarp w) s
  let s := s.closeVgid v
  let s := { s with
    bars := g.bars.foldl (fun (m : SMap BarEntry) n => m.set (g.barCore * 64 + n) default) s.bars
    credits := s.credits.filter (fun m => m.src != v)
    locks := s.locks.filter (fun k => !g.savedX.any (fun x => x.2.op == k.op) && !g.savedC.any (fun x => x.op == k.op))
    released := s.released ++ [(v, s.tick)]
    wgs := s.wgs.del v }
  let s := s.setOwner g.owner (fun o => { o with spillUsed := match g.spill with
    | some a => o.spillUsed.erase a
    | none => o.spillUsed })
  let mine := fun (e : Nat × Option SvcRec) => match e.2 with
    | some r => r.vgid == v
    | none => false
  let freed := (s.cores.get g.core).mailbox.any mine
  let s := s.setCore g.core (fun c => { c with
    saves := c.saves.filter (fun x => x.2 != v), mailbox := c.mailbox.filter (fun e => !mine e) })
  if freed then s.post (.engineResourceFreed (dieOfCore g.core)) else s

/-- WORKGROUP_END: every thread of the workgroup has exited and every engine operation it started has ended (R33). (DEDUCED, log 11) -/
def execWorkgroupEnd (vgid : Nat) (s : State) : Host.Outcome State Fault Refusal :=
  let g := s.wgs.get vgid
  if g.phase ≠ .resident ∨ g.warps.any (fun w => !(s.liveLanes w).isEmpty) ∨ enginesBusy s vgid then .next s
  else
    let s := s.freeWg vgid
    let l := g.launch
    let s := s.setLaunch l (fun x => { x with wgDone := x.wgDone + 1, ended := x.ended + 1 })
    let x := s.launches.get l
    if x.ended = x.grid ∧ !x.ending then
      finish (s.setLaunch l (fun x => { x with ending := true, endTick := s.tick, state := .ending, status := statusOk, detail := 0 }))
    else finish s

/-- Workgroups of a launch. -/
def wgsOf (s : State) (l : Nat) : List Nat := (s.wgs.filter (fun e => e.2.phase != .none && e.2.launch == l)).map (·.1)

/-- The lines of marver that a transfer put away by a save still holds absent become present (R25). -/
def XferOp.showSaved (s : State) (x : XferOp) (core : Nat) : State :=
  if x.dsp = 1 then s else x.toLand.foldl (fun s u => s.setPresence (x.at_ s core x.dsp (u * x.lineBytes)) 1 true) s

/-- Fail a transfer that a save has put away: the marver lines that it holds absent become present, its locks go, a credit of it
that still travels is withdrawn (R25, R226). Its status and its causes follow. -/
def State.failSaved (s : State) (v : Nat) (x : XferOp) (bit : Nat) : State :=
  let s := ((x.showSaved s (s.wgs.get v).core).unlockAll x.op (dieOfCore (s.wgs.get v).core)).dropCredit ((x.sent.map (·.1)).getD 0)
  (s.setWg v (fun g => { g with savedL := g.savedL.filter (fun k => k.op != x.op) })).onOp x.op (fun y =>
    { y with sent := none, refused := false, ended := some (bit, false, x.baren && bit != stCancelled) })

/-- Whether a failed transfer has nothing left to do but to show its lines. -/
def XferOp.over (x : XferOp) : Bool := match x.ended with
  | some (0, _, _) => true
  | _ => false

/-- A transfer that a save has put away leaves. -/
def State.dropSaved (s : State) (v op : Nat) : State :=
  s.setWg v (fun g => { g with savedX := g.savedX.filter (fun y => y.2.op != op) })

/-- Finish a failed transfer that a save has put away: its status bit where its counter's translation lets it, then its causes (R226).
One into the bench stays, its status bit 0, until its workgroup is back, when the lines that it holds absent become present (R25). -/
def State.settleSaved (s : State) (v : Nat) (x : XferOp) : State :=
  let core := (s.wgs.get v).core
  match x.ended with
  | none | some (0, _, _) => s
  | some (bit, race, engine) =>
    let fin := fun (s : State) =>
      let s := if race then s.engCause core x.vgid x.warp causeMemrace else s
      let s := if engine then s.engCause core x.vgid x.warp causeEngine else s
      let s := (s.dropReqs (· == .engine x.op)).opEnded x.op
      if x.dsp = 1 then s.onOp x.op (fun y => { y with ended := some (0, false, false) }) else s.dropSaved v x.op
    if x.ctr = 0 ∨ x.refused then fin s
    else
      match engCounterStatus s (x.req core .atomic) x.ctr bit with
      | .ok s _ => fin s
      | .fail s _ _ => fin s
      | .wait s => s

/-- The transfers that a workgroup's save has put away. -/
def savedOps (s : State) (v : Nat) : List XferOp := (s.wgs.get v).savedX.map (·.2)

/-- Finish those of them that have failed. -/
def State.settleAway (s : State) (v : Nat) : State := (savedOps s v).foldl (fun s x => s.settleSaved v x) s

/-- Cancel the operations that a workgroup's save has put away (R62). -/
def State.cancelSaved (s : State) (v : Nat) : State :=
  let g := s.wgs.get v
  let s := ((savedOps s v).filter (fun x => x.ended.isNone)).foldl (fun s x => s.failSaved v x stCancelled) s
  let s := s.settleAway v
  let s := ((savedOps s v).filter XferOp.over).foldl (fun s x => s.dropSaved v x.op) s
  let s := g.savedC.foldl (fun s x =>
    ((if x.isOut && x.dsp == 2 then x.showLines s g.core true else s).unlockAll x.op (dieOfCore g.core)).dropCredit (x.sent.getD 0)) s
  s.setWg v (fun g => { g with savedC := [] })

/-- Cancel every engine operation of a launch's workgroups (R62). -/
def State.cancelEngines (s : State) (vs : List Nat) : State :=
  let s := s.xfer.keys.foldl (fun s k =>
    let s := s.cancelChan (k / 16) (k % 16) (fun x => vs.contains x.vgid)
    ((s.xfer.get k).filter (fun x => vs.contains x.vgid)).foldl (fun s x => s.settleEnded (k / 16) (k % 16) x.op) s) s
  let s := s.cores.keys.foldl (fun s c => s.cancelCubes c (fun x => vs.contains x.vgid)) s
  vs.foldl (fun s v => s.cancelSaved v) (s.cancelColls (fun x => vs.contains x.vgid))

/-- Whether a handler invocation saves or restores a workgroup of the list, or still charges its cycles to the launch: the
record's HCYC and HBYTES count the whole invocation (R363, R374). (DEDUCED, log 14) -/
def invBusy (s : State) (launch : Nat) (vs : List Nat) : Bool :=
  s.cores.any (fun c => match c.2.inv with
    | some i => (((i.base.1 == .save) || (i.base.1 == .restore)) && vs.contains i.vgid) ||
        i.items.any (fun t => t.launch == some launch) || i.base.2.any (fun t => t.launch == some launch)
    | none => false)

/-- The completion record (R60). -/
def completionRecord (s : State) (x : Launch) : List Byte :=
  let tend := nsAt s.tick % 2 ^ 64
  let tstart := match x.started with
    | some t => nsAt t % 2 ^ 64
    | none => tend
  let failv := x.failWg.isSome
  leBytes 64 (x.status % 2 ^ 8 + x.detail % 2 ^ 8 * 2 ^ 8 + x.flags.toNat * 2 ^ 16 + b2n failv * 2 ^ 25 +
    (x.failWg.getD 0xFFFFFFFF) % 2 ^ 32 * 2 ^ 32 + x.causes.toNat * 2 ^ 64 + x.raceLoss * 2 ^ 96 + x.wgDone % 2 ^ 64 * 2 ^ 128 +
    x.hcyc % 2 ^ 64 * 2 ^ 192 + x.hbytes % 2 ^ 64 * 2 ^ 256 + tstart * 2 ^ 320 + tend * 2 ^ 384 + x.seq.toNat * 2 ^ 448)

/-- A launch that has ended leaves the device: its workgroups, its sets with their entries and regions. (DEDUCED, log 45) -/
def State.removeLaunch (s : State) (l : Nat) : State :=
  let x := s.launches.get l
  let s := (wgsOf s l).foldl (fun s v => s.freeWg v) s
  let s := x.sets.foldl (fun s v =>
    let i := s.sets.get v
    let s := match i.entry with
      | some (c, n) => { s with bars := s.bars.set (c * 64 + n) default }
      | none => s
    let s := match i.marver, i.die with
      | some (a, n), some d => s.setOwner x.owner (fun o => { o with marvUsed := o.marvUsed.erase (d, a, n) })
      | _, _ => s
    { s with sets := s.sets.del v, released := s.released ++ [(v, s.tick)] }) s
  let s := match x.ifc with
    | some i => s.setIfc i (fun y => { y with inflight := y.inflight - 1 })
    | none => s
  { s with launches := s.launches.del l }

/-- Launches of an interface whose record is written and whose notification comes first (R322). -/
def notifiesFirst (s : State) (l : Nat) : Bool :=
  let x := s.launches.get l
  !s.launches.any (fun e => e.1 != l && e.2.ifc == x.ifc && (match e.2.recorded, x.recorded with
    | some a, some b => decide (a < b)
    | _, _ => false))

/-- The notification (R322): one posted write of the SEQ to NADDR, translated by the host. A refusal drops it. While the
host is lost it parks, once the buffer has room (R404). (DEDUCED, log 45) -/
def State.notify (s : State) (l : Nat) : State :=
  let x := s.launches.get l
  match x.ifc with
  | none => s.removeLaunch l
  | some i =>
    let y := s.ifcs.get i
    let na := y.naddr.toNat
    if y.naddr = 0 then s.removeLaunch l
    else if !notifiesFirst s l then s
    else if x.refused.contains (na / 2 ^ 16) then (s.setIfc i (fun y => { y with errCnt := y.errCnt + 1 })).removeLaunch l
    else if !parkFits s 8 then s
    else if hostHeld s ∨ dtcHit s y.pasid na .write then
      (s.hostPost (some i) y.pasid na (leBytes 8 x.seq.toNat)).removeLaunch l
    else atsAsk s (dieReq s x.home x.owner 0 4 (.launch l) .write) i y.pasid na na

/-- Mark the record as written, or given up, and go on to the notification. -/
def State.recordDone (s : State) (l : Nat) : State :=
  ({ s with serial := s.serial + 1 }.setLaunch l (fun y => { y with recorded := some s.serial, refused := [] })).notify l

/-- The launch ends with no record: LASTERR and ERRCNT for a host launch (R320). -/
def State.unrecorded (s : State) (l : Nat) : State :=
  let x := s.launches.get l
  let s := match x.ifc with
    | some i => s.setIfc i (fun y => { y with errCnt := y.errCnt + 1,
                                              lastErr := BitVec.ofNat 64 (x.seq.toNat % 2 ^ 56 * 2 ^ 8 + x.detail) })
    | none => s
  s.recordDone l

/-- The record, then the counter addition, each visible across the link before what follows it (R28, R60, R62, R320, R321):
every warp and operation of the launch has stopped. Without a DONE that can be written there is no record; a full parking buffer
holds it back (R404). (DEDUCED, log 14) -/
def State.writeRecord (s : State) (l : Nat) : State :=
  let x := s.launches.get l
  if x.noRecord ∨ x.done % 64 ≠ 0 ∨ 2 ^ 56 ≤ x.done then s.unrecorded l
  else
    match luPlaces s l x.done 80 with
    | .wait s => s
    | .fail s _ _ => s.unrecorded l
    | .ok s ps =>
      if (dirtyOf s x.owner ≠ 0 ∨ ps.any (fun p => p.1.hostPage != [])) ∧ !parkFits s (dirtyOf s x.owner + 160) then s
      else
      let s := (s.drainPort (fun p => p.owner == x.owner)).flushHost x.owner
      let rec_ := completionRecord s x
      let s := (ps.filter (fun p => decide (p.2.1 < 64))).foldl (fun s p =>
        (s.perform x.owner 0 p.1 ((rec_.drop p.2.1).take p.2.2)).flushAt p.1) s
      match ps.find? (fun p => p.2.1 == 64) with
      | some p => ((s.counterAdd x.owner p.1 1).flushAt p.1).recordDone l
      | none => s.recordDone l

/-- The open entries of a launch that ends early fail (R360); one that the launch unit itself waits on stays. (DEDUCED, log 84) -/
def State.failFaults (s : State) (owner launch : Nat) : State :=
  (s.faults.filter (fun e => e.1 / 2 ^ 32 == owner && e.2.live && e.2.kind == 1 && e.2.launch == some launch &&
    !e.2.waiters.contains (.launch launch))).foldl (fun s e => s.endFault owner (e.1 % 2 ^ 32) 3) s

/-- Stop what a launch that ends has under way, as far as it lets itself be stopped now (R62). -/
def State.stopLaunch (s : State) (l : Nat) : State :=
  let x := s.launches.get l
  let ws := warpsOfLaunch s l
  let s := (s.cancelEngines (wgsOf s l)).finishWork ws
  let s := ws.foldl (fun s w => (s.dropUnready w).withdrawWarp w) s
  if x.ending then s.failFaults x.owner l else s

/-- Whether something of a launch that ends is still under way. -/
def launchBusy (s : State) (l : Nat) : Bool := (wgsOf s l).any (enginesBusy s) || invBusy s l (wgsOf s l)

/-- Whether the launch unit waits for a translation for a launch. -/
def luWaits (s : State) (l : Nat) : Bool :=
  let r := Requester.launch l
  s.walks.any (·.waiters.contains r) || s.faults.any (·.2.waiters.contains r) || s.held.any (·.waiters.contains r) ||
  s.ats.any (·.waiters.contains r)

/-- Whether another launch of the interface ends at once with this one and has the lower SEQ, so that its record comes first
(R322). (DEDUCED, log 45) -/
def recordsFirst (s : State) (l : Nat) : Bool :=
  let x := s.launches.get l
  s.launches.any (fun e => x.ifc.isSome && e.2.ifc == x.ifc && e.2.state == .ending && e.2.recorded.isNone &&
    decide (e.2.seq.toNat < x.seq.toNat) && endsHere s e.2.owner && !luWaits s e.1 && !launchBusy (s.stopLaunch e.1) e.1)

/-- LAUNCH_END: the launch unit ends a launch that is Ending. (DEDUCED, log 14) (DEDUCED, log 84) -/
def execLaunchEnd (launch : Nat) (s : State) : Host.Outcome State Fault Refusal :=
  let x := s.launches.get launch
  if x.state ≠ .ending ∨ !endsHere s x.owner then .next s
  else if x.recorded.isSome then finish (s.notify launch)
  else if recordsFirst s launch then .next s
  else
    let s := s.stopLaunch launch
    if launchBusy s launch then finish s
    else finish (((wgsOf s launch).foldl (fun s v => s.freeWg v) s).writeRecord launch)

/-- Every launch ends at once with STATUS RESET, since nothing of the module goes on (R390, R412, R420): its record is written, its
counter added to and its notification posted where their translations are at hand; where the record's are not it ends without one
(R320). (DEDUCED, log 57) -/
def State.resetLaunches (s : State) : State :=
  (s.launches.filter (fun e => e.2.state != .none)).foldl (fun s e =>
    let s := s.endLaunch e.1 statusReset 0 none
    let vs := wgsOf s e.1
    let s := (s.cancelEngines vs).finishWork (warpsOfLaunch s e.1)
    let s := vs.foldl (fun s v => s.freeWg v) s
    let left := fun (s : State) => (s.launches.get e.1).state != .none
    let s := if (s.launches.get e.1).recorded.isSome then s.notify e.1 else s.writeRecord e.1
    let s := if left s && (s.launches.get e.1).recorded.isNone then s.unrecorded e.1 else s
    if left s then s.removeLaunch e.1 else s) s

/-! ### Time slices (R326) -/

/-- TIME_SLICE_EXPIRY: the slice of a time-shared core ends; its workgroups stop if the next owner has work (R326), those that are
being restored once that is done. (DEDUCED, log 5) (DEDUCED, log 77) -/
def execTimeSliceExpiry (core : Nat) (s : State) : Host.Outcome State Fault Refusal :=
  match nextTurn s core with
  | none => .next s
  | some o =>
    let old := (residents s core).filter (fun e => e.2.owner != o && e.2.phase == .resident)
    let s := s.setCore core (fun c => { c with turn := o + 1 })
    .next (old.foldl (fun s e => s.post (.workgroupStop e.1)) s)

end Sys2Proof.Machine
end

