-- ==== Sys2Proof/Machine/Save.lean ====
section
/-! DEFINITION. Saving and restoring workgroups (R206–R211, R351–R354): save frames, the parts of a save, `csave` and
`crestore`, the Crucible's own save and restore, and what leaves and returns to a core with a workgroup. -/

namespace Sys2Proof.Machine

/-! ### Parts and frames (R351, R354) -/

def frameBytes : Nat := 0x110000
def warpPart (units : Nat) : Nat := 1024 + 8192 * units
def benchPart (lines : Nat) : Nat := 128 * lines + (lines + 511) / 512 * 64
def accPart (kib : Nat) : Nat := 1024 * kib
def enginePart : Nat := 2048
def up4k (n : Nat) : Nat := (n + 4095) / 4096 * 4096

/-- Units of each warp of a workgroup, on its core or away. -/
def quotasOf (s : State) (g : Workgroup) : List Nat :=
  if g.phase = .saved then g.quotas else g.warps.map (fun w => (s.warp w).units.length)

/-- Room that a workgroup's parts take of a save frame, each part rounded up to 4,096 bytes (R354). (DESIGN CHOICE, log 61) -/
def partsBytes (s : State) (g : Workgroup) : Nat :=
  up4k ((quotasOf s g).foldl (fun n u => n + warpPart u) 0) + up4k (benchPart (g.benchLen / 128)) + up4k (accPart g.accKiB) +
  up4k enginePart

/-- Workgroups of an owner whose save frame is that of its core number `k`. (DESIGN CHOICE, log 61) -/
def inFrame (s : State) (owner k : Nat) : List Workgroup :=
  (s.wgs.filter (fun e => e.2.owner == owner && (match e.2.frame with
    | some f => f.1 == k
    | none => false))).map (·.2)

/-- The parts of a workgroup as the Crucible lays them out: part, warp index, offset. -/
structure Layout where
  e : Nat
  a : Nat
  b : Nat
  w : Nat
deriving DecidableEq, Repr

/-- What a directory slot says of its workgroup's parts (R354). -/
def slotLayout (s : State) (owner base slot : Nat) : Layout :=
  let x := leNat (resRead s owner (base + 64 * slot) 16)
  { e := bitsOf x 47 40 * 4096, a := bitsOf x 55 48 * 4096, b := bitsOf x 63 56 * 4096, w := bitsOf x 103 64 }

/-- The stretches that the other workgroups of a frame take. -/
def takenRuns (s : State) (owner k base slot : Nat) : List (Nat × Nat) :=
  (0, 4096) :: ((inFrame s owner k).filter (fun g => g.frame != some (k, slot))).flatMap (fun g =>
    let l := slotLayout s owner base ((g.frame.getD (0, 0)).2)
    [(l.e, enginePart), (l.a, accPart g.accKiB), (l.b, benchPart (g.benchLen / 128)),
     (l.w, (quotasOf s g).foldl (fun n u => n + warpPart u) 0)])

/-- Places for the parts: the lowest free runs, engine part first. -/
def layoutFor (s : State) (g : Workgroup) (k base slot : Nat) : Option Layout :=
  let used := takenRuns s g.owner k base slot
  let put := fun used n => freeRun 4096 frameBytes 4096 (up4k n) used
  let ne := enginePart
  let na := accPart g.accKiB
  let nb := benchPart (g.benchLen / 128)
  let nw := (quotasOf s g).foldl (fun n u => n + warpPart u) 0
  (put used ne).bind (fun e => (put ((e, ne) :: used) na).bind (fun a =>
    (put ((a, na) :: (e, ne) :: used) nb).bind (fun b =>
      (put ((b, nb) :: (a, na) :: (e, ne) :: used) nw).map (fun w => { e := e, a := a, b := b, w := w }))))

/-- A free directory slot of a frame with room for a workgroup's parts, beside those that lie there and those that saves under
way will write. -/
def frameSlot (s : State) (owner : Nat) (g : Workgroup) (k : Nat) : Option (Nat × Nat) :=
  let gs := inFrame s owner k
  match saveFrame s owner k with
  | none => none
  | some base =>
    if frameBytes < 4096 + partsBytes s g + (gs.map (partsBytes s)).foldl (· + ·) 0 then none
    else
      (((List.range 32).find? (fun i => gs.all (fun h => h.frame != some (k, i)))).filter (fun i =>
        (layoutFor s g k base i).isSome)).map (fun i => (k, i))

/-- The frame that a stop chooses (R354): that of the core the workgroup leaves, or, for displacement, any of the
owner's. (DESIGN CHOICE, log 51) (DESIGN CHOICE, log 61) -/
def chooseFrame (s : State) (v : Nat) (any : Bool) : Option (Nat × Nat) :=
  let g := s.wgs.get v
  let own := coreIndex s g.owner g.core
  firstSome (frameSlot s g.owner g) (own :: (if any then List.range (coreCount s g.owner) else []))

/-- The base of the frame that holds a workgroup, and its directory slot. -/
def frameOf (s : State) (g : Workgroup) : Option (Nat × Nat) :=
  match g.frame with
  | none => none
  | some f => (saveFrame s g.owner f.1).map (fun b => (b, f.2))

/-! ### Places in an allotment -/

/-- A core-local lock named by its place in the workgroup's allotment. -/
def relLock (s : State) (g : Workgroup) (k : RLock) : RLock :=
  let n := k.hi - k.lo
  match k.space with
  | .bench _ => let lo := k.lo - benchKey g.core g.benchBase; { k with space := .bench 0, lo := lo, hi := lo + n }
  | .acc _ =>
    let x := k.lo - g.core * 2 ^ 22
    let lo := x / 2 ^ 20 * 2 ^ 15 + (x % 2 ^ 20 - g.accBase)
    { k with space := .acc 0, lo := lo, hi := lo + n }
  | .bhold w => { k with space := .bhold (s.warp w).index }
  | _ => k

/-- The lock on the core that the workgroup has come back to. -/
def absLock (g : Workgroup) (k : RLock) : RLock :=
  let n := k.hi - k.lo
  match k.space with
  | .bench _ => let lo := benchKey g.core g.benchBase + k.lo; { k with space := .bench g.core, lo := lo, hi := lo + n }
  | .acc _ =>
    let lo := g.core * 2 ^ 22 + k.lo / 2 ^ 15 * 2 ^ 20 + g.accBase + k.lo % 2 ^ 15
    { k with space := .acc g.core, lo := lo, hi := lo + n }
  | .bhold i => { k with space := .bhold (g.warps.getD i 0) }
  | _ => k

/-- Whether a lock is local to the core: a bench, an accumulator or a B-hold range. -/
def RLock.local (k : RLock) : Bool :=
  match k.space with
  | .bench _ | .acc _ | .bhold _ => true
  | _ => false

/-- Whether a line lies in the workgroup's bench. -/
def inBench (g : Workgroup) (sp : LockSpace) (line : Nat) : Bool :=
  sp == .bench g.core && decide (benchKey g.core g.benchBase ≤ line) && decide (line < benchKey g.core g.benchBase + 2 ^ 18)

/-- An opened line of the bench named by its place in the allotment, and back. -/
def relLine (g : Workgroup) (x : Opened) : Opened :=
  if inBench g x.space x.line then { x with space := .bench 0, line := x.line - benchKey g.core g.benchBase } else x
def absLine (g : Workgroup) (x : Opened) : Opened :=
  match x.space with
  | .bench _ => { x with space := .bench g.core, line := benchKey g.core g.benchBase + x.line }
  | _ => x

/-- A line of an open-line list by its place in the allotment, and back. -/
def relOpen (g : Workgroup) (e : OpenLine) : OpenLine :=
  { e with space := .bench 0, line := e.line - benchKey g.core g.benchBase }
def absOpen (g : Workgroup) (e : OpenLine) : OpenLine :=
  { e with die := dieOfCore g.core, space := .bench g.core, line := benchKey g.core g.benchBase + e.line }

def moveXfer (f : Opened → Opened) (x : XferOp) : XferOp := { x with wrote := x.wrote.map f }
def moveCube (f : Opened → Opened) (x : CubeOp) : CubeOp := { x with wrote := x.wrote.map f }

/-! ### Pausing and returning engine operations (R208, R228, R271) -/

/-- Whether a transfer reads or writes its workgroup's bench. -/
def XferOp.touchesBench (x : XferOp) : Bool := x.ssp == 1 || x.dsp == 1

/-- The operations of a workgroup that pause, of one channel: those that touch the bench and those queued behind. One that has
failed only ends. -/
def pausing (v : Nat) (q : List XferOp) : List XferOp :=
  ((q.filter (fun x => x.vgid == v)).dropWhile (fun x => !x.touchesBench || x.ended.isSome)).filter (fun x => x.ended.isNone)

/-- Whether a pass of a workgroup has still to be replayed: its cube operations stop only at the boundary behind it (R208,
R254). -/
def replaying (s : State) (v : Nat) : Bool :=
  (s.cores.get (s.wgs.get v).core).cube.any (fun x => x.vgid == v && x.replay)

/-- Take a stopped workgroup's cube operations off the core; threads that wait for a place in its queue try again (R264). -/
def State.pauseCubes (s : State) (v : Nat) : State :=
  if replaying s v then s
  else
    let core := (s.wgs.get v).core
    let mine := (s.cores.get core).cube.filter (fun x => x.vgid == v)
    let s := s.dropReqs (fun r => mine.any (fun x => r == .engine x.op))
    let s := s.setQueue core (fun q => q.filter (fun x => x.vgid != v))
    let s := s.setWg v (fun g => { g with savedC := g.savedC ++ mine })
    if mine = [] then s else s.post (.engineResourceFreed (dieOfCore core))

/-- Take a stopped workgroup's transfers and cube operations off the core. They wait for no translation while they are paused
(R341), and threads that wait for a place on their channels try again (R160). -/
def State.pauseEngines (s : State) (v : Nat) : State :=
  let core := (s.wgs.get v).core
  let s := (List.range 16).foldl (fun s c =>
    let out := pausing v (s.xfer.get (chanKey core c))
    if out = [] then s
    else
      let s := s.dropReqs (fun r => out.any (fun x => r == .engine x.op))
      let s := { s with xfer := s.xfer.update (chanKey core c) (fun q => q.filter (fun x => !out.any (fun y => y.op == x.op))) }
      let s := s.setWg v (fun g => { g with savedX := g.savedX ++ out.map (fun x => (c, { x with paused := true })) })
      s.post (.engineResourceFreed (dieOfCore core))) s
  s.pauseCubes v

/-- Whether an operation has begun: it has translated, landed or failed. -/
def XferOp.begun (x : XferOp) : Bool := decide (0 < x.parts) || decide (0 < x.landed) || x.ended.isSome || x.used != [] || x.sent.isSome
def CubeOp.begun (x : CubeOp) : Bool := decide (0 < x.pass) || x.tags.isSome || x.replay || x.sent.isSome

/-- Put operations at the head of a queue: behind its head where that has begun (R215, R227). (DEDUCED, log 95) -/
def atHead {α : Type} (begun : α → Bool) (back q : List α) : List α :=
  match q with
  | [] => back
  | h :: r => if begun h then h :: (back ++ r) else back ++ q

/-- Put them back at the heads of the same channels and of the queue, with their locks and open lines; the lines enter the
directory of the die as new ones do (R192, R210, R228). A transfer that has failed while it was away stays behind.
(DEDUCED, log 95) (DESIGN CHOICE, log 96) -/
def State.installEngines (s : State) (v : Nat) : State :=
  let g := s.wgs.get v
  let s := (List.range 16).foldl (fun s c =>
    let back := (g.savedX.filter (fun x => x.1 == c && !x.2.over)).map (fun x => { moveXfer (absLine g) x.2 with paused := false })
    if back = [] then s else { s with xfer := s.xfer.update (chanKey g.core c) (atHead XferOp.begun back) }) s
  let back := g.savedC.map (moveCube (absLine g))
  let s := if back = [] then s else s.setQueue g.core (atHead CubeOp.begun back)
  let s := { s with locks := s.locks ++ g.savedL.map (absLock g) }
  let s := (g.savedO.map (absOpen g)).foldr (fun e s => s.enterLine e) s
  s.setWg v (fun g => { g with savedX := g.savedX.filter (fun x => x.2.over), savedC := [], savedL := [], savedO := [] })

/-- Transfers that have failed while their workgroup was away end: the lines of its bench that they hold absent become present
(R25). -/
def State.endFailed (s : State) (v : Nat) : State :=
  let g := s.wgs.get v
  let s := (savedOps s v).foldl (fun s x =>
    x.toLand.foldl (fun s u => s.setPresence (x.at_ s g.core x.dsp (u * x.lineBytes)) 1 true) s) s
  s.setWg v (fun g => { g with savedX := [] })

/-- Marver is its die's: an operation with a marver side that its workgroup takes to another die reaches the other die's marver from
then on. Lines that it holds absent become present on the old die and absent on the new one, and its locks go with it. (DESIGN CHOICE, log 106) -/
def State.rehome (s : State) (v core : Nat) : State :=
  let g := s.wgs.get v
  let old := dieOfCore g.core
  let new := dieOfCore core
  if old = new then s
  else
    let ops := g.savedX.map (·.2.op) ++ g.savedC.map (·.op)
    let show_ := fun (s : State) (c : Nat) (present : Bool) =>
      let s := (g.savedX.filter (fun x => x.2.ended.isNone && x.2.dsp == 2)).foldl (fun s x =>
        x.2.toLand.foldl (fun s u => s.setPresence (x.2.at_ s c 2 (u * x.2.lineBytes)) 1 present) s) s
      (g.savedC.filter (fun x => x.isOut && x.dsp == 2)).foldl (fun s x => x.showLines s c present) s
    let s := show_ (show_ s g.core true) core false
    let move := fun (k : RLock) =>
      if !ops.contains k.op || k.die != old then k
      else match k.space with
        | .marver _ => { k with die := new, space := .marver new, lo := k.lo + new * 2 ^ 26 - old * 2 ^ 26, hi := k.hi + new * 2 ^ 26 - old * 2 ^ 26 }
        | _ => { k with die := new }
    { s with locks := s.locks.map move }

/-! ### The end of a save (R207, R209) -/

/-- What a workgroup keeps of the core when it leaves: locks of paused operations, open bench lines, hand-offs. -/
def leaving (s : State) (g : Workgroup) : Workgroup :=
  let ops := g.savedX.map (·.2.op) ++ g.savedC.map (·.op)
  { g with
    phase := .saved
    quotas := g.warps.map (fun w => (s.warp w).units.length)
    savedX := g.savedX.map (fun x => (x.1, moveXfer (relLine g) x.2))
    savedC := g.savedC.map (moveCube (relLine g))
    savedL := (s.locks.filter (fun k => k.local && ops.contains k.op)).map (relLock s g)
    savedO := (s.opened.filter (fun e => inBench g e.space e.line)).map (relOpen g)
    keptFlags := g.warps.foldl (fun f w => f ||| (s.warp w).flags) 0
    savedR := g.warps.map (fun w => (List.range 64).map (fun n => s.w w n))
    savedF := (g.warps.zip (List.range g.warps.length)).flatMap (fun x =>
      ((s.liveLanes x.1).filter (fun l => (s.thread x.1 l).raised)).map (fun l =>
        (x.2, l, (s.thread x.1 l).faultVa, (s.thread x.1 l).code)))
    savedP := (s.pending.filter (fun p => g.warps.contains p.warp)).map (fun p => { p with warp := (s.warp p.warp).index })
    warps := []
    freeUnits := [] }

/-- The save is written: the workgroup's core, units, bench and accumulator are free. -/
def State.finishSave (s : State) (v : Nat) : State :=
  let g := s.wgs.get v
  if g.phase ≠ .stopping then s
  else
    let s := s.pauseEngines v
    let g := s.wgs.get v
    let g' := leaving s g
    let ops := g.savedX.map (·.2.op) ++ g.savedC.map (·.op)
    let s := { s with
      locks := s.locks.filter (fun k => !(k.local && ops.contains k.op))
      opened := s.opened.filter (fun e => !inBench g e.space e.line) }
    let s := g.warps.foldl (fun s w => s.freeWarp w) s
    (s.setCore g.core (fun c => { c with saves := c.saves.filter (fun x => x.2 != v) })).setWg v (fun _ => g')

/-! ### Beginning and ending a restore (R48, R210) -/

/-- The units a workgroup keeps on each quad beyond its warps', re-taken on a core. -/
def keptUnits (s : State) (core : Nat) (g : Workgroup) : List Nat :=
  (List.range 4).flatMap (fun q =>
    let used := ((g.quotas.zip (List.range g.quotas.length)).filter (fun u => (g.q0 + u.2) % 4 == q)).foldl (fun n u => n + u.1) 0
    (((freeUnits s core q).drop used).take (g.free.getD q 0)).map (fun u => q * 16 + u))

/-- Whether a core's channels and cube queue have room for the operations that a workgroup brings back (R215, R264). -/
def opsFit (s : State) (core : Nat) (g : Workgroup) : Bool :=
  (List.range 16).all (fun c => decide (chanLoad s core c + (g.savedX.filter (fun x => x.1 == c && x.2.ended.isNone)).length ≤ 4)) &&
  decide (cubeLoad s core + g.savedC.length ≤ 4)

/-- Give a saved workgroup a core: its warps hold their units and stand stopped until the restore has run. -/
def restoreOn (s : State) (v core : Nat) : Option State :=
  let g := s.wgs.get v
  let n := g.savedNeed
  if !coreOpen s g.launch core || (displacing s g.owner (dieOfCore core)).isSome || !sharedFits s core n || !quadsFit s core g.q0 n || !opsFit s core g ||
     !setsFit s g.owner (dieOfCore core) g.sets then none
  else
    match (freeWindows s core).head? with
    | none => none
    | some win =>
      let ws := allotWarps s core g.q0 n
      let kept := keptUnits s core g
      let len := 1024 * (s.launches.get g.launch).spillKiB
      let s := (s.rehome v core).clearWindow g.owner core win
      let s := s.setWg v (fun g => { g with
        phase := .restoring, core := core, warps := ws.map (·.1), benchBase := win * 2 ^ 18, accBase := win * 2 ^ 15,
        freeUnits := kept })
      let s := if (s.owners.get g.owner).shares.contains core then s.setCore core (fun c => { c with turn := g.owner + 1 }) else s
      let s := s.setCore core (fun c => { c with saves := c.saves ++ [(true, v)] })
      some ((ws.zip (List.range ws.length)).foldl (fun s w =>
        let wp : Warp := { (default : Warp) with
          live := true, vgid := v, index := w.2, owner := g.owner, units := w.1.2, stopped := true,
          spBase := BitVec.ofNat 64 (((g.spill.map (·.1)).getD 0) + w.2 * len), spLen := len }
        (s.startWarp w.1.1 wp 0 ((g.savedR.getD w.2 []).map (·.toNat))).onLanes w.1.1 lanes32 (fun _ _ => default)) s)

/-- The core of a member of a co-resident set: its place from the set's origin (R48, R51). -/
def SetInst.coreAt (i : SetInst) (ix : Nat) : Nat :=
  let o := i.origin.getD 0
  let j := posIn ix i.members
  i.die.getD 0 * 512 + 32 * (o / 32 + j / shapeW i.shape) + o % 32 + j % shapeW i.shape

/-- The workgroups restored together, each with its core: a co-resident set, once every member is saved, at its origin, or one
workgroup (R48, R51). -/
def restoredWith (s : State) (v core : Nat) : List (Nat × Nat) :=
  match ((s.wgs.get v).sets).find? (fun k => (s.sets.get k).co) with
  | none => [(v, core)]
  | some k =>
    let ms := s.wgs.filter (fun e => e.2.sets.contains k && e.2.phase != .none)
    if ms.all (fun e => e.2.phase == .saved && !e.2.dumpHeld) then ms.map (fun e => (e.1, (s.sets.get k).coreAt e.2.index)) else []

/-- Restore a workgroup, or its whole set, if every one fits. -/
def restoreAll (s : State) (v core : Nat) : Option State :=
  if restoredWith s v core = [] then none
  else (restoredWith s v core).foldl (fun (t : Option State) x => t.bind (fun t => restoreOn t x.1 x.2)) (some s)

/-- The launch unit of the home die reads the counters that a displaced workgroup's threads wait on (R328): a translation that is
missing is asked for, and one that is refused ends the wait, which the thread then meets itself. (DEDUCED, log 94) -/
def State.probeWaits (s : State) (v : Nat) : State :=
  let g := s.wgs.get v
  g.waits.foldl (fun s w => match w.2 with
    | .counter a _ => match luRead s g.launch a 16 with
      | .ok s _ => s
      | .wait s => s
      | .fail s _ _ => s.setWg v (fun g => { g with waits := g.waits.map (fun y => if y = w then (y.1, .ready) else y) })
    | _ => s) s

/-- WORKGROUP_RESTORE: the scheduler takes a saved workgroup back (R48, R201, R210, R318, R327). Before that, operations of it that
have failed while it was away are finished (R226), and the counters that it waits on are looked at (R328). -/
def execWorkgroupRestore (vgid core : Nat) (s : State) : Host.Outcome State Fault Refusal :=
  let g := s.wgs.get vgid
  if g.phase ≠ .saved ∨ !ownerHere s g.owner then .next s
  else if (savedOps s vgid).any (fun x => x.ended.isSome && !x.over) then finish (s.settleAway vgid)
  else if !ownerRuns s g.owner || (s.launches.get g.launch).ending then .next s
  else if !readyToRestore s vgid then (if g.displaced ∧ roomTaken s g then finish (s.probeWaits vgid) else .next s)
  else if (earlierLaunches s g.launch).any (fun e => (placeLaunch s e).isSome) then .next s
  else
    match restoreAll s vgid core with
    | some t => .next t
    | none => .next s

/-- Threads of a co-resident set start together; other workgroups start alone (R51). -/
def startsWith (s : State) (v : Nat) : List Nat :=
  match ((s.wgs.get v).sets).find? (fun k => (s.sets.get k).co) with
  | none => [v]
  | some k =>
    let ms := s.wgs.filter (fun e => e.2.sets.contains k && e.2.phase != .none)
    if ms.all (fun e => e.2.phase == .resident) then ms.map (·.1) else []

/-- A restored warp takes the causes recorded while it was away before its first issue (R196, R206). -/
def State.unstop (s : State) (w : Nat) : State :=
  let s := s.setWarp w (fun (x : Warp) =>
    let late := x.cause != 0 && !x.inHandler
    { x with stopped := false, asyncNew := late })
  s.onLanes w (s.liveLanes w) (fun _ t => { t with since := s.tick, urgent := false })

/-- Whether a workgroup stands on a time-shared core whose slice is another owner's now (R326). -/
def sliceLost (s : State) (v : Nat) : Bool :=
  let g := s.wgs.get v
  let t := (s.cores.get g.core).turn
  (s.owners.get g.owner).shares.contains g.core && t != 0 && t != g.owner + 1

/-- Workgroups that stand on their cores again: those of a launch that ends do not issue (R62), the others do, and one whose slice has
ended meanwhile stops first (R326). -/
def State.start (s : State) (vs : List Nat) : State :=
  vs.foldl (fun s u =>
    let g := s.wgs.get u
    if (s.launches.get g.launch).ending then s
    else
      let s := g.warps.foldl (fun s w => s.unstop w) s
      if sliceLost s u then s.post (.workgroupStop u) else s) s

/-- The restore is done: hand-offs rejoin their warps, and the warps may issue. (DEDUCED, log 65) (DEDUCED, log 77) -/
def State.finishRestore (s : State) (v : Nat) : State :=
  let g := s.wgs.get v
  if g.phase ≠ .restoring then s
  else
    let s := (s.installEngines v).endFailed v
    let s := { s with pending := s.pending ++ g.savedP.map (fun (p : Pending) => { p with warp := g.warps.getD p.warp 0 }) }
    let s := s.setWg v (fun g => { g with
      phase := .resident, frame := none, displaced := false, roomFor := none, keptFlags := 0, waits := [], savedW := [], savedP := [], savedR := [], savedF := [], replies := [] })
    let s := s.setCore g.core (fun c => { c with saves := c.saves.filter (fun x => x.2 != v) })
    s.start (startsWith s v)

/-! ### The parts (R351–R353) -/

/-- One presence bit per line, line 0 in bit 0. -/
def presenceBytes (s : State) (g : Workgroup) : List Byte :=
  let lines := g.benchLen / 128
  let first := benchKey g.core g.benchBase / 128
  let bits := (List.range lines).foldl (fun n i => n + b2n (!s.benchAbs.get (first + i)) * 2 ^ i) 0
  leBytes ((lines + 511) / 512 * 64) bits

/-- The bytes of a part; `ix` is a warp index. -/
def partData (s : State) (g : Workgroup) (part ix : Nat) : List Byte :=
  match part with
  | 0 => let w := g.warps.getD ix 0; wordsBytes (warpRecord s w (32 * (s.warp w).units.length))
  | 1 => s.bench.getRange (benchKey g.core g.benchBase) g.benchLen ++ presenceBytes s g
  | 2 => (List.range 4).flatMap (fun q => s.acc.getRange (g.core * 2 ^ 22 + q * 2 ^ 20 + g.accBase) (g.accKiB * 256))
  | _ => leBytes 8 fmtTag ++ (List.range (enginePart - 8)).map (fun i => Config.engineImage (s.fresh * enginePart + i))

/-- Bytes and alignment of a part. -/
def partSize (s : State) (g : Workgroup) (part ix : Nat) : Nat × Nat :=
  match part with
  | 0 => (warpPart ((quotasOf s g).getD ix 0), 1024)
  | 1 => (benchPart (g.benchLen / 128), 64)
  | 2 => (accPart g.accKiB, 64)
  | _ => (enginePart, 64)

/-- Write a part at an address of the frame. What engines record in a warp after its part is written is kept beside it (R207). -/
def State.savePart (s : State) (v part ix va : Nat) : State :=
  let g := s.wgs.get v
  let s' := s.resWrite g.owner va (partData s g part ix)
  if part = 0 then s'.setSaved v ix (fun x => { x with flags := 0, cause := 0 })
  else if part = 3 then { s' with fresh := s'.fresh + 1 } else s'

/-- Slots of a lane that hand-offs still hold. -/
def heldSlots (g : Workgroup) (ix lane : Nat) : BitVec 6 :=
  g.savedP.foldl (fun (m : BitVec 6) p =>
    if p.warp = ix ∧ p.lanes.contains lane ∧ p.slot ≠ 0 then m ||| (1#6 <<< (p.slot - 1)) else m) 0

/-- Install a warp record: threads, registers, and what arrived while the workgroup was away (R175, R196, R352). None
when its tag or its size is wrong. (DEDUCED, log 58) (DEDUCED, log 65) -/
def State.installWarp (s : State) (v ix : Nat) (bs : List Byte) : Option State :=
  let g := s.wgs.get v
  let w := g.warps.getD ix 0
  let rd := fun k => leNat ((bs.drop (8 * k)).take 8)
  let ww := rd 96
  let units := (s.warp w).units.length
  if rd 127 ≠ fmtTag ∨ ww % 16 ≠ units then none
  else
    let late := g.savedW.getD ix default
    let s := s.setWarp w (fun x => { x with
      flags := BitVec.ofNat 9 (ww / 2 ^ 4) ||| late.flags, fen := BitVec.ofNat 9 (ww / 2 ^ 13), inHandler := bitOf ww 22,
      cause := BitVec.ofNat 32 (ww / 2 ^ 23) ||| late.cause })
    let s := s.onLanes w lanes32 (fun l _ =>
      let t := threadOfWords (rd l) (rd (32 + l)) (rd (64 + l))
      { t with slots := t.slots &&& heldSlots g ix l, since := s.tick })
    let vs : List (Nat × Word) := (List.range (32 * units)).flatMap (fun n =>
      lanes32.map (fun l => (vkey w l n, BitVec.ofNat 64 (rd (128 + 32 * n + l)))))
    let s := { s with vregs := vs.foldl (fun (m : SMap Word) (x : Nat × Word) => m.set x.1 x.2) s.vregs }
    let s := (g.savedF.filter (fun r => r.1 == ix)).foldl (fun s r =>
      s.setThread w r.2.1 (fun t => { t with raised := true, faultVa := r.2.2.1, code := r.2.2.2 })) s
    some ((g.replies.filter (fun r => r.1 == ix)).foldl (fun s r => s.writeD w r.2.1 r.2.2.1 r.2.2.2.2) s)

/-- Install bench bytes and presence bits. -/
def State.installBench (s : State) (v : Nat) (bs : List Byte) : State :=
  let g := s.wgs.get v
  let lines := g.benchLen / 128
  let first := benchKey g.core g.benchBase / 128
  let bits := leNat (bs.drop g.benchLen)
  { s with
    bench := s.bench.setRange (benchKey g.core g.benchBase) (bs.take g.benchLen)
    benchAbs := (List.range lines).foldl (fun (m : SMap Bool) i => m.set (first + i) (!bitOf bits i)) s.benchAbs }

/-- Install accumulator bytes. -/
def State.installAcc (s : State) (v : Nat) (bs : List Byte) : State :=
  let g := s.wgs.get v
  let n := g.accKiB * 256
  { s with acc := (List.range 4).foldl (fun (m : SMap Byte) q =>
      m.setRange (g.core * 2 ^ 22 + q * 2 ^ 20 + g.accBase) ((bs.drop (q * n)).take n)) s.acc }

/-- Read a part from an address of the frame and install it; none where `crestore` raises ENGINE. -/
def State.restorePart (s : State) (v part ix va : Nat) : Option State :=
  let g := s.wgs.get v
  let bs := resRead s g.owner va (partSize s g part ix).1
  match part with
  | 0 => s.installWarp v ix bs
  | 1 => some (s.installBench v bs)
  | 2 => some (s.installAcc v bs)
  | _ => if leNat (bs.take 8) = fmtTag then some (s.installEngines v) else none

/-! ### `csave` and `crestore` (R351) -/

/-- The causes of a lane's part and address; a store may not meet the depth-2 record (R340). -/
def partRaise (s : State) (g : Workgroup) (save : Bool) (base part : Nat) (x : Nat × Nat × Nat) : List Raise :=
  let z := partSize s g part x.2.2
  if x.2.1 % z.2 ≠ 0 then [{ lane := x.1, bit := causeAlign, addr := x.2.1 }]
  else if (part = 0 ∧ g.warps.length ≤ x.2.2) ∨ x.2.1 < base ∨ base + frameBytes < x.2.1 + z.1 ∨
      (save ∧ inDepth2Record s s.cur.warp .global .write x.2.1 z.1) then
    [{ lane := x.1, bit := causeBounds, addr := x.2.1 }]
  else []

/-- The workgroup and frame base of a save or restore invocation. -/
def saveInv (s : State) (core : Nat) : Option (Nat × Nat) :=
  match (s.cores.get core).inv with
  | none => none
  | some i =>
    if i.kind = .save ∨ i.kind = .restore then (frameOf s (s.wgs.get i.vgid)).map (fun f => (i.vgid, f.1)) else none

/-- Write or read parts lane by lane: the state, and the lanes whose part is not the workgroup's. -/
def partLanes (save : Bool) (s : State) (v part : Nat) (xs : List (Nat × Nat × Nat)) : State × List Nat :=
  xs.foldl (fun (r : State × List Nat) x =>
    if save then (r.1.savePart v part x.2.2 x.2.1, r.2)
    else match r.1.restorePart v part x.2.2 x.2.1 with
      | some t => (t, r.2)
      | none => (r.1, r.2 ++ [x.1])) (s, [])

def csaveBody (save : Bool) (f : F64) (s : State) (gl : List Nat) : Res :=
  let w := s.cur.warp
  match saveInv s (coreOf w) with
  | none => .trap (raiseAll causeEngine gl)
  | some (v, base) =>
    let g := s.wgs.get v
    let part := f.c.toNat
    let xs := gl.map (fun l => (l, (opnd s w l f.lit f.a.toNat).toNat, (opnd s w l f.lit f.b.toNat).toNat))
    let bad := xs.flatMap (partRaise s g save base part)
    if bad ≠ [] then .trap bad
    else
      let n := xs.foldl (fun n x => n + (partSize s g part x.2.2).1) 0
      let r := partLanes save (s.chargeInv (coreOf w) 0 n) v part xs
      if r.2 ≠ [] then .trap (raiseAll causeEngine r.2)
      else if f.set = 0 then .next r.1
      else .next (startPending r.1 .memory f.set.toNat gl 0 .slotOnly)

def execCsave (f : F64) (s : State) : Host.Outcome State Fault Refusal :=
  finish (issue { hdrOf (.csave f) f with priv := true, mem := true } (csaveBody true f) s)
def execCrestore (f : F64) (s : State) : Host.Outcome State Fault Refusal :=
  finish (issue { hdrOf (.crestore f) f with priv := true, mem := true } (csaveBody false f) s)

/-! ### The Crucible's save and restore (R211) -/

/-- Offsets of the warp records: warp `i + 1` follows warp `i`. -/
def warpOffs (qs : List Nat) (at_ : Nat) : List Nat :=
  (List.range qs.length).map (fun i => at_ + (qs.take i).foldl (fun n u => n + warpPart u) 0)

/-- The workgroups that a stop has taken together: a co-resident set, or one alone (R51). -/
def stoppedWith (s : State) (v : Nat) : List (Nat × Workgroup) :=
  match ((s.wgs.get v).sets).find? (fun k => (s.sets.get k).co) with
  | none => [(v, s.wgs.get v)]
  | some k => s.wgs.filter (fun e => e.2.sets.contains k && e.2.phase != .none)

/-- Give up a stop whose context finds no room (R354): the operations go back and the warps go on, of a co-resident set together
(R51). While one of it has been saved, or its operations find no place (R215), the stop stands and waits for room. (DESIGN CHOICE, log 51) -/
def State.giveUpSave (s : State) (v : Nat) : State :=
  let gs := stoppedWith s v
  if gs.any (fun e => e.2.phase != .stopping || !opsFit s e.2.core e.2) then s
  else
    let s := gs.foldl (fun (s : State) e =>
      let v := e.1
      let s := s.setWg v (fun g => { g with savedX := g.savedX.map (fun x => (x.1, moveXfer (relLine g) x.2)),
                                            savedC := g.savedC.map (moveCube (relLine g)) })
      let s := (s.installEngines v).endFailed v
      let s := s.setWg v (fun g => { g with
        phase := .resident, frame := none, displaced := false, roomFor := none, waits := [], savedW := [], replies := [] })
      s.setCore e.2.core (fun c => { c with saves := c.saves.filter (fun x => x.2 != v) })) s
    s.start (gs.map (·.1))

/-- The Crucible writes a whole context (R211), and charges it. A frame whose parts have since left no room takes nothing: for
displacement the launch whose workgroup it was to make room for ends (R354). (DESIGN CHOICE, log 51) (DESIGN CHOICE, log 69) -/
def State.crucibleSave (s : State) (v : Nat) : State :=
  let g := s.wgs.get v
  let none_ := (match g.roomFor with
    | some (l, _) => (s.endLaunch l statusExhausted 1 none).setWg v (fun g => { g with displaced := false, roomFor := none })
    | none => s).giveUpSave v
  match g.frame, frameOf s g with
  | some (k, _), some (base, slot) =>
    (match layoutFor s g k base slot with
     | none => none_
     | some l =>
       let qs := quotasOf s g
       let offs := warpOffs qs l.w
       let s := (offs.zip (List.range offs.length)).foldl (fun s x => s.savePart v 0 x.2 (base + x.1)) s
       let s := ((s.savePart v 1 0 (base + l.b)).savePart v 2 0 (base + l.a)).savePart v 3 0 (base + l.e)
       let word := v + qs.length * 2 ^ 24 + 2 * 2 ^ 32 + l.e / 4096 * 2 ^ 40 + l.a / 4096 * 2 ^ 48 + l.b / 4096 * 2 ^ 56 +
         l.w * 2 ^ 64
       let s := s.resWrite g.owner (base + 64 * slot) (leBytes 64 word)
       let n := qs.foldl (fun n u => n + warpPart u) 0 + benchPart (g.benchLen / 128) + accPart g.accKiB + enginePart + 64
       let s := s.chargeTo g.owner (some g.launch) (Config.saveCycles s.fresh) n
       { s with fresh := s.fresh + 1 }.finishSave v)
  | _, _ => none_

/-- The Crucible reads a context back; where a part is not the workgroup's, the launch ends ABORTED with DETAIL 0x94
(R351). -/
def State.crucibleRestore (s : State) (v : Nat) : State :=
  let g := s.wgs.get v
  let fail := s.endLaunch g.launch statusAborted 0x94 (some g.index)
  match frameOf s g with
  | none => fail
  | some (base, slot) =>
    let l := slotLayout s g.owner base slot
    let offs := warpOffs (quotasOf s g) l.w
    let t := (offs.zip (List.range offs.length)).foldl (fun (t : Option State) x =>
      t.bind (fun t => t.restorePart v 0 x.2 (base + x.1))) (some s)
    match t.bind (fun t => (t.restorePart v 1 0 (base + l.b)).bind (fun t => (t.restorePart v 2 0 (base + l.a)).bind (fun t =>
        t.restorePart v 3 0 (base + l.e)))) with
    | none => fail
    | some t =>
      let t := t.resWrite g.owner (base + 64 * slot + 4) [0]
      let t := t.chargeTo g.owner (some g.launch) (Config.saveCycles t.fresh) 0
      { t with fresh := t.fresh + 1 }.finishRestore v

/-- The core whose invocation saves or restores a workgroup. -/
def saverOf (s : State) (v : Nat) : Option Nat :=
  (s.cores.find? (fun c => match c.2.inv with
    | some i => (i.base.1 == .save || i.base.1 == .restore) && i.vgid == v
    | none => false)).map (·.1)

/-- Every `bsend` copy to a set of the workgroup has landed or been dropped (R174). -/
def sendsLanded (s : State) (v : Nat) : Bool :=
  !s.bsends.any (fun c => c.landed.isNone && (s.wgs.get v).sets.contains c.setV)

/-- Whether a stopped workgroup can be saved now: no copy is on its way to its set (R174), its running pass has reached its
boundary (R208, R254), and no thread of it waits for operations that it has cancelled to end (R231, R312). -/
def savable (s : State) (v : Nat) : Bool :=
  sendsLanded s v && !replaying s v && !s.pending.any (fun p => p.after != [] && (s.wgs.get v).warps.contains p.warp)

/-- An instruction of a workgroup that is away completes: it leaves the record, and clears its slot in lanes that are back
(R175, R207). -/
def State.endAway (s : State) (v : Nat) (p : Pending) : State :=
  let g := s.wgs.get v
  let s := s.setWg v (fun g => { g with savedP := g.savedP.filter (fun q => q.pid != p.pid) })
  match g.warps[p.warp]? with
  | none => s
  | some w => s.onLanes w p.lanes (fun _ t => t.slotClear p.slot)

/-- The instruction of a workgroup that is away with a number. -/
def awayPending (s : State) (pid : Nat) : Option (Nat × Pending) :=
  s.wgs.findSome? (fun e => (e.2.savedP.find? (fun p => p.pid == pid)).map (fun p => (e.1, p)))

/-- SAVE_DEADLINE_EXPIRY: the handler's save or restore is stopped, and the Crucible does the work (R211, R344). (DEDUCED, log 5) -/
def execSaveDeadlineExpiry (vgid : Nat) (s : State) : Host.Outcome State Fault Refusal :=
  let g := s.wgs.get vgid
  let s := match saverOf s vgid with
    | some c => (match (s.cores.get c).inv with
        | some i =>
          let t := s.closeInv c (invLaunches i)
          if i.frozen then t.thaw i.owner (dieOfCore c) else t
        | none => s)
    | none => s
  if g.phase = .stopping then (if savable s vgid then finish (s.crucibleSave vgid) else .next s)
  else if g.phase = .restoring then finish (s.crucibleRestore vgid)
  else .next s

end Sys2Proof.Machine
end

