-- ==== Sys2Proof/Machine/Handlers.lean ====
section
/-! DEFINITION. The owner's handlers (R341–R366): the supervisor-warp instructions, entry into an invocation, the fault
queue's consumers, the service hart's port, and the path to host memory (R367–R369). -/

namespace Sys2Proof.Machine

/-! ### `tfill` (R346, R347) -/

/-- An attribute word and what `tfill` installs. -/
def fillEntry (owner va fr at_ : Nat) : TlbEntry where
  owner := owner
  va := va
  frame := fr
  size := at_ % 4
  tier := bitsOf at_ 6 5
  ifc := bitsOf at_ 19 8
  uc := bitOf at_ 7
  r := bitOf at_ 2
  w := bitOf at_ 3
  x := bitOf at_ 4
  pin := false
  epoch := 0

def rangesOverlap (a n b m : Nat) : Bool := decide (a < b + m) && decide (b < a + n)

/-- BADARG of R347. -/
def fillBad (s : State) (owner va fr at_ : Nat) (e : TlbEntry) : Bool :=
  let o := s.owners.get owner
  let z := e.bytes
  decide (at_ / 2 ^ 20 ≠ 0) || e.tier == 3 || !(e.r || e.w || e.x) || (e.tier != 2 && (e.uc || e.ifc != 0)) ||
  (e.tier == 2 && !o.ifcs.contains e.ifc) || decide (2 ^ 56 ≤ va) || decide (2 ^ 52 ≤ fr) || va % z != 0 || fr % z != 0 ||
  rangesOverlap va z o.rbase o.rsize

/-- Whether one allotment range, or one host window of the interface, holds the frame and allows the permissions (R337). -/
def fillAllowed (s : State) (owner : Nat) (e : TlbEntry) : Bool :=
  let o := s.owners.get owner
  let ok := fun (k : FrameRange) => decide (k.base ≤ e.frame) && decide (e.frame + e.bytes ≤ k.base + k.len) &&
    (!e.r || k.r) && (!e.w || k.w) && (!e.x || k.x)
  if e.tier = 2 then o.windows.any (fun k => k.ifc == e.ifc && ok k) else o.ranges.any (fun k => k.tier == e.tier && ok k)

/-- Every TLB array of a die: its own, its cores' and its quads' (R334). -/
def arraysOfDie (s : State) (die : Nat) : List Nat :=
  s.tlb.keys.filter (fun k => if k < 16 then k / 4 == die else if k < 4096 then dieOfCore (k - 16) == die else (k - 4096) / 2048 == die)

/-- A `tinv` that completed on the die at or after a tick meets the page (R347). -/
def fillStale (s : State) (die owner start : Nat) (e : TlbEntry) : Bool :=
  (s.dies.get die).tinvDone.any (fun d =>
    d.1 == owner && (d.2.2.1 == 0 || rangesOverlap d.2.1 d.2.2.1 e.va e.bytes) && decide (start ≤ d.2.2.2))

/-- An entry of the owner on the die that the fill contradicts (R347). -/
def fillConflicts (s : State) (die owner : Nat) (e : TlbEntry) : Bool :=
  (arraysOfDie s die).any (fun k => (s.tlb.get k).any (fun x =>
    x.owner == owner && rangesOverlap x.va x.bytes e.va e.bytes &&
    (x.va != e.va || x.frame != e.frame || x.size != e.size || x.tier != e.tier || x.ifc != e.ifc || x.uc != e.uc ||
      (x.r && !e.r) || (x.w && !e.w) || (x.x && !e.x))))

/-- One fill: its result code and the state after it. `start` is the tick of the invocation's entry, none for the hart. (DEDUCED, log 23) -/
def fillOne (s : State) (owner die : Nat) (start : Option Nat) (va fr at_ : Nat) : Nat × State :=
  let e := fillEntry owner va fr at_
  if fillBad s owner va fr at_ e then (2, s)
  else if !fillAllowed s owner e then (1, s)
  else if (match start with
    | some t => fillStale s die owner t e
    | none => false) then (3, s)
  else if fillConflicts s die owner e then (4, s)
  else (0, s.tlbPut (if e.size < 2 then tlbNormal die else tlbHuge die) e)

/-- The tick at which the invocation on a core began. -/
def invStart (s : State) (core : Nat) : Nat := (((s.cores.get core).inv).map (·.start)).getD 0

def tfillBody (f : F64) (s : State) (gl : List Nat) : Res :=
  let w := s.cur.warp
  let start := invStart s (coreOf w)
  let xs := gl.map (fun l => (l, (opnd s w l f.lit f.a.toNat).toNat, (opnd s w l f.lit f.b.toNat).toNat,
    (opnd s w l f.lit f.c.toNat).toNat))
  let r := xs.foldl (fun (r : State × List (Nat × Word)) x =>
    let y := fillOne r.1 (r.1.warp w).owner (dieOf w) (some start) x.2.1 x.2.2.1 x.2.2.2
    (y.2, r.2 ++ [(x.1, BitVec.ofNat 64 y.1)])) (s, [])
  if f.set = 0 then .next (writeLanes r.1 w f.d.toNat r.2)
  else .next (startPending r.1 .tfill f.set.toNat gl 0 (.writeRegs (r.2.map (fun x => (x.1, f.d.toNat, x.2)))))

def execTfill (f : F64) (s : State) : Host.Outcome State Fault Refusal :=
  .next (issue { hdrOf (.tfill f) f with priv := true } (tfillBody f) s)

/-- TFILL_COMPLETE: the entry is visible on the die; D is written and the slot clears (R347). (DEDUCED, log 23) -/
def execTfillComplete (pid : Nat) (s : State) : Host.Outcome State Fault Refusal := .next (completeUnit .tfill pid s)

/-! ### `tinv` (R348) and what an invalidation ends (R226, R299) -/

/-- Whether a virtual range holds a granule; length 0 names everything but the reserve. -/
def inRange (s : State) (owner va len g : Nat) : Bool :=
  if len = 0 then !inReserve (s.owners.get owner) (g * 2 ^ 16) 1 else rangesOverlap va len (g * 2 ^ 16) (2 ^ 16)

/-- The unpinned entries of an owner that a range meets, on one array. -/
def hitEntries (s : State) (k owner va len : Nat) : List TlbEntry :=
  (s.tlb.get k).filter (fun e => e.owner == owner && !e.pin && (len == 0 || rangesOverlap e.va e.bytes va len))

/-- Whether an invalidation takes a granule's translation away. -/
def revokes (s : State) (owner va len : Nat) (gone : List TlbEntry) (g : Nat) : Bool :=
  inRange s owner va len g || gone.any (fun e => e.covers owner (g * 2 ^ 16))

/-- Fail with REVOKED the running part of a channel where a condition names it; a part that is complete but for its addition is
completed (R226). -/
def State.revokeRun (s : State) (k : Nat) (c : XferOp → Bool) : State :=
  let hit := fun (x : XferOp) => x.ended.isNone && c x
  match running s (k / 16) (k % 16) with
  | none => s
  | some x =>
    if !hit x then s
    else
      let s := s.takeCredit (k / 16) (k % 16) x
      match running s (k / 16) (k % 16) with
      | some y => if hit y then y.fail s (k / 16) (k % 16) stRevoked false else s
      | none => s

/-- Fail with REVOKED the transfers put away by a save that a condition names (R226). -/
def State.revokeSaved (s : State) (c : XferOp → Bool) : State :=
  s.wgs.keys.foldl (fun s v =>
    let hit := (savedOps s v).filter (fun x => x.ended.isNone && c x)
    if hit = [] then s else (hit.foldl (fun s x => s.failSaved v x stRevoked) s).settleAway v) s

/-- Fail with REVOKED the transfers that a condition names, on their channels and away with a saved workgroup (R226). -/
def State.revokeXfers (s : State) (c : XferOp → Bool) : State :=
  (s.xfer.keys.foldl (fun s k => s.revokeRun k c) s).revokeSaved c

/-- Fail with REVOKED the collective operations that a condition names (R226). -/
def State.revokeColls (s : State) (c : CollOp → Bool) : State :=
  (s.colls.filter (fun x => x.ended.isNone && c x)).foldl (fun s x => s.stopColl x stRevoked) s

/-- Fail with REVOKED the engine parts of an owner that have translated a granule that goes, and revoke its zones whose
ring or counter lies in one. -/
def State.revokeUses (s : State) (owner : Nat) (hit : Nat → Bool) : State :=
  let s := s.revokeXfers (fun x => x.owner == owner && x.used.any hit)
  let s := s.revokeColls (fun x => x.owner == owner && x.used.any hit)
  (s.owners.get owner).zones.foldl (fun (s : State) (z : Nat × Zone) =>
    let pages := (List.range ((z.2.base + z.2.z - 1) / 2 ^ 16 + 1 - z.2.base / 2 ^ 16)).map (z.2.base / 2 ^ 16 + ·)
    if z.2.armed ∧ !z.2.revoked ∧ (pages.any hit || hit (z.2.ctr / 2 ^ 16)) then s.revokeZone owner z.1 stRevoked else s) s

/-- Remove the translations of a range on every die; the number of die-TLB entries removed (R348). -/
def State.invalidate (s : State) (owner va len : Nat) : Nat × State :=
  let keys := s.tlb.keys
  let gone := keys.flatMap (fun k => hitEntries s k owner va len)
  let n := ((keys.filter (fun k => decide (k < 16))).map (fun k => (hitEntries s k owner va len).length)).foldl (· + ·) 0
  let s' := { s with tlb := keys.foldl (fun (m : SMap (List TlbEntry)) k =>
    m.update k (fun es => es.filter (fun e => !(hitEntries s k owner va len).contains e))) s.tlb }
  (n, s'.revokeUses owner (revokes s owner va len gone))

/-- Begin an invalidation; it completes later. It keeps the pages that it has removed. -/
def State.startInv' (s : State) (owner va len : Nat) (pid : Option Nat) (lane dest : Nat) : Nat × State :=
  let pages := ((s.tlb.keys.flatMap (fun k => hitEntries s k owner va len)).map (fun e => (e.va, e.bytes))).eraseDups
  let r := s.invalidate owner va len
  let q : InvReq := { id := r.2.serial, owner := owner, va := va, len := len, removed := r.1, pages := pages, pid := pid, lane := lane,
                      dest := dest }
  (r.1, { r.2 with tinvs := r.2.tinvs ++ [q], serial := r.2.serial + 1 })

def tinvBody (f : F64) (s : State) (gl : List Nat) : Res :=
  let w := s.cur.warp
  let xs := gl.map (fun l => (l, (opnd s w l f.lit f.a.toNat).toNat, (opnd s w l f.lit f.b.toNat).toNat))
  let bad := xs.filter (fun x => decide (x.2.2 ≠ 0 ∧ (2 ^ 56 ≤ x.2.1 ∨ 2 ^ 56 < x.2.1 + x.2.2)))
  if bad ≠ [] then .trap (bad.map (fun x => { lane := x.1, bit := causeBounds, addr := x.2.1 }))
  else
    let pid := s.serial
    let s' := { s.release w scopePkg with serial := s.serial + 1 }
    let r := xs.foldl (fun (r : State × List (Nat × Nat × Word)) x =>
      let y := r.1.startInv' (s.warp w).owner x.2.1 x.2.2 (some pid) x.1 f.d.toNat
      (y.2, r.2 ++ [(x.1, f.d.toNat, BitVec.ofNat 64 y.1)])) (s', [])
    let p : Pending := { pid := pid, unit := .tinv, warp := w, lanes := gl, slot := f.set.toNat, flags := 0,
                         acq := some scopePkg, work := .writeRegs r.2 }
    let t := { r.1.onLanes w gl (fun _ t => (t.slotSet f.set.toNat).acquireSlot f.set.toNat) with pending := r.1.pending ++ [p] }
    if f.set = 0 then .split ((t.advance w gl s.cur.pc (if f.lit.isSome then 12 else 8)).enterAll w gl (.result pid)) gl else .next t

def execTinv (f : F64) (s : State) : Host.Outcome State Fault Refusal :=
  finish (issue { hdrOf (.tinv f) f with priv := true, mem := true, rel := some scopePkg } (tinvBody f) s)

/-- Places of pending thread work in global memory. -/
def pendingVas (p : Pending) : List Nat :=
  match p.work with
  | .load .global _ _ ls => ls.map (·.va)
  | .store .global _ _ ls => ls.map (·.va)
  | .atomic .global _ _ _ _ ls => ls.map (·.va)
  | .cntAdd _ ls => ls.map (·.va)
  | .cntFail _ ls => ls.map (·.va)
  | _ => []

/-- Whether an address lies in the range of an invalidation or in a page that it removed. -/
def InvReq.took (s : State) (q : InvReq) (a : Nat) : Bool :=
  inRange s q.owner q.va q.len (a / 2 ^ 16) || q.pages.any (fun p => decide (p.1 ≤ a) && decide (a < p.1 + p.2))

/-- Whether an access of the owner that used a translation which the invalidation took is still to be performed (R348). -/
def invWaits (s : State) (q : InvReq) : Bool :=
  s.pending.any (fun p => (s.warp p.warp).owner == q.owner && (pendingVas p).any (q.took s)) ||
  s.port.any (fun p => p.owner == q.owner && q.took s p.va)

/-- Note a completed `tinv` on a die (R347 STALE). -/
def Die.noteInv (d : Die) (q : InvReq) (tick : Nat) : Die := { d with tinvDone := d.tinvDone ++ [(q.owner, q.va, q.len, tick)] }

/-- TINV_COMPLETE: every access and part that used a removed translation has ended (R348). -/
def execTinvComplete (inv : Nat) (s : State) : Host.Outcome State Fault Refusal :=
  match s.tinvs.find? (fun q => q.id == inv) with
  | none => .next s
  | some q =>
    if invWaits s q then .next s
    else
      let s := { s with tinvs := s.tinvs.filter (fun x => x.id != inv) }
      let s := (List.range 4).foldl (fun s d => s.setDie d (fun x => x.noteInv q s.tick)) s
      match q.pid with
      | none =>
        if s.tinvs.any (fun x => x.pid.isNone && x.owner == q.owner) then .next s
        else .next (s.setOwner q.owner (fun o => { o with hart := o.hart.set 0x40 0 }))
      | some pid =>
        if s.tinvs.any (fun x => x.pid == some pid) then .next s
        else .next (completeUnit .tinv pid s)

/-! ### `tprobe` (R349) -/

def probeWord (e : TlbEntry) : Nat :=
  2 ^ 63 + b2n e.pin * 2 ^ 62 + e.size * 2 ^ 60 + e.tier * 2 ^ 58 + b2n e.x * 2 ^ 57 + b2n e.w * 2 ^ 56 + b2n e.r * 2 ^ 55 +
    b2n e.uc * 2 ^ 54 + bitsOf e.frame 51 16 * 2 ^ 16 + e.ifc

def probe (s : State) (die owner a : Nat) : Nat :=
  if 2 ^ 56 ≤ a then 0
  else
    match ((dieArrays die).flatMap (fun k => s.tlb.get k)).find? (fun e => e.covers owner a) with
    | none => 0
    | some e => probeWord e

def tprobeBody (f : F64) (s : State) (gl : List Nat) : Res :=
  let w := s.cur.warp
  .next (writeLanes s w f.d.toNat (gl.map (fun l =>
    (l, BitVec.ofNat 64 (probe s (dieOf w) (s.warp w).owner (opnd s w l f.lit f.a.toNat).toNat)))))

def execTprobe (f : F64) (s : State) : Host.Outcome State Fault Refusal :=
  .next (issue { hdrOf (.tprobe f) f with priv := true } (tprobeBody f) s)

/-! ### `treplay` and `hret` (R350, R364) -/

/-- Mark an item of the running invocation ended. -/
def State.markEnded (s : State) (core lane : Nat) : State :=
  s.setCore core (fun c => { c with inv := c.inv.map (fun i => { i with
    items := (i.items.zip (List.range i.items.length)).map (fun x => if x.2 = lane then { x.1 with ended := true } else x.1) }) })

/-- Post an item of a walk invocation (R350, R359): the waiters that still wait go with it. -/
def State.postItem (s : State) (core : Nat) (inv : Invocation) (it : InvItem) (user : Word) : State :=
  let ws := (itemWaiters s core inv.owner .walk it).filter (fun r => stillWaits s r it.key)
  let s := s.endWalk (itemIs core inv.owner it)
  let p : HeldPost := { owner := inv.owner, die := dieOfCore core, core := core, kind := 1, va := it.va,
                        word := BitVec.ofNat 64 it.word, user := user, detail := 0, depth := inv.depth, launch := it.launch,
                        wg := it.wg, waiters := ws }
  let r := s.postFault p
  r.1.chargeInv core 0 r.2

/-- A depth-2 walk ends: POST freezes the owner; REFUSE fails the depth-1 access; EXHAUSTED ends the launches of the
depth-1 items and fails the access (R350, R364). (DESIGN CHOICE, log 60) -/
def State.endNested (s : State) (core : Nat) (inv : Invocation) (it : InvItem) (code : Nat) : State :=
  if code = 1 then s.freezeNested core it.va it.word
  else if code = 0 then s
  else
    let s := s.setCore core (fun c => { c with inv := c.inv.map (fun i => { i with outer := i.outer.map (fun o => { o with refused := true }) }) })
    if code = 2 then s
    else
      (inv.base.2.filter (fun i => !i.ended)).foldl (fun s i =>
        match i.launch with
        | some l => s.endLaunch l statusExhausted 0 i.wg
        | none => s) s

/-- End one item of the running invocation with a code (R350). -/
def State.endWith (s : State) (core lane code : Nat) (user : Word) : State :=
  match (s.cores.get core).inv with
  | none => s
  | some inv =>
    match inv.items[lane]? with
    | none => s
    | some it =>
      if it.ended ∨ !(inv.kind == .walk || inv.kind == .fault) then s
      else
        let s := s.markEnded core lane
        if inv.depth = 2 then s.endNested core inv it code
        else if inv.kind = .walk then
          (if code = 1 then s.postItem core inv it user else s.endItem core inv.owner .walk it code)
        else
          let f := s.faults.get (faultKey inv.owner it.key)
          if !f.live then s
          else if code = 1 then
            let s := s.resWrite inv.owner (faultEntryVa s inv.owner f.index + 32) [1]
            { s with faults := s.faults.update (faultKey inv.owner it.key) (fun f => { f with taken := false, dispatched := none }) }
          else s.endFault inv.owner it.key (if code = 0 then 2 else if code = 2 then 3 else 4)

/-- Whether the invocation on a core is frozen. -/
def invFrozen (s : State) (core : Nat) : Bool := (((s.cores.get core).inv).map (·.frozen)).getD false

def treplayBody (f : F64) (code : State → Nat → Nat) (s : State) (gl : List Nat) : Res :=
  let w := s.cur.warp
  let xs := gl.map (fun l => (l, code s l % 4, opnd s w l f.lit f.b.toNat))
  .next (xs.foldl (fun s x => if invFrozen s (coreOf w) then s else s.endWith (coreOf w) x.1 x.2.1 x.2.2) (s.release w scopePkg))

def execTreplayReg (f : F64) (s : State) : Host.Outcome State Fault Refusal :=
  finish (issue { hdrOf (.treplayReg f) f with priv := true, rel := some scopePkg }
    (treplayBody f (fun s l => (opnd s s.cur.warp l f.lit f.a.toNat).toNat)) s)
def execTreplayImm (f : F64) (s : State) : Host.Outcome State Fault Refusal :=
  finish (issue { hdrOf (.treplayImm f) f with priv := true, rel := some scopePkg } (treplayBody f (fun _ _ => f.c.toNat)) s)

/-- The thread of the depth-1 invocation whose access a nested walk refused receives TRANSLATE (R350). -/
def State.refuseOuter (s : State) (core : Nat) (o : OuterInv) : State :=
  if o.refused then s.raise (supOf core) [{ lane := o.lane, bit := causeTranslate, addr := o.va }] else s

/-- Finish the invocation on a core: at depth 2 the depth-1 state returns; otherwise its work is reported done. (DEDUCED, log 59) -/
def State.endInvocation (s : State) (core : Nat) : State :=
  match (s.cores.get core).inv with
  | none => s
  | some inv =>
    let ls := invLaunches inv
    let s := (List.range inv.items.length).foldl (fun s i => s.endWith core i 2 0) s
    match ((s.cores.get core).inv).bind (·.outer) with
    | some o => (s.unnest core).refuseOuter core o
    | none =>
      let s := s.closeInv core ls
      match inv.kind with
      | .save => s.finishSave inv.vgid
      | .restore => s.finishRestore inv.vgid
      | _ => s

def hretBody (s : State) (_ : List Nat) : Res := .split (s.endInvocation (coreOf s.cur.warp)) lanes32

def execHret (f : F64) (s : State) : Host.Outcome State Fault Refusal :=
  finish (issue { hdrOf (.hret f) f with priv := true, coll := true } hretBody s)

/-! ### `sreply` (R175, R355) -/

/-- Take a record out of the mailbox; a thread that waits for a place may try again. -/
def State.clearMail (s : State) (core ix : Nat) : State :=
  (s.setCore core (fun c => { c with
    mailbox := c.mailbox.set ix none
    inv := c.inv.map (fun i => { i with
      items := i.items.map (fun it => if i.kind = .svc ∧ it.key = ix then { it with ended := true } else it) }) })).post
    (.engineResourceFreed (dieOfCore core))

/-- A request ends, with a value for D or with none: in its warp, and in the saved state of a workgroup that leaves, is away or
comes back, so that either holds it (R175, R207, R355). -/
def State.endSvc (s : State) (r : SvcRec) (x : Option Word) : State :=
  let g := s.wgs.get r.vgid
  let mine := fun (w : Nat) (p : Pending) => p.warp == w && p.unit == WorkUnit.engine && p.lanes == [r.lane] && p.slot == r.slot
  let s := match x with
    | some v => if g.phase = .resident ∨ g.phase = .none then s
        else s.setWg r.vgid (fun g => { g with replies := g.replies ++ [(r.index, r.lane, r.dest, r.slot, v)] })
    | none => s
  let s := match g.savedP.find? (mine r.index) with
    | some p => s.endAway r.vgid p
    | none => s
  match g.warps[r.index]? with
  | none => s
  | some w =>
    let s := match x with
      | some v => s.writeD w r.lane r.dest v
      | none => s
    match s.pending.find? (mine w) with
    | none => s
    | some p => s.completePending p

/-- Answer one mailbox record (R355). -/
def State.answer (s : State) (core ix : Nat) (x : Word) : State :=
  match (s.cores.get core).mailbox.get ix with
  | none => s
  | some r => (s.clearMail core ix).endSvc r (some x)

/-- An unanswered record's thread receives SVC, and its request has no effect (R344). (DEDUCED, log 59) -/
def State.failSvc (s : State) (core ix : Nat) : State :=
  match (s.cores.get core).mailbox.get ix with
  | none => s
  | some r => ((s.clearMail core ix).endSvc r none).engCause core r.vgid r.index causeSvc

/-- A synchronous cause of the supervisor warp ends its invocation (R344): at depth 2 as a miss there does; otherwise its
unended items are posted, the Crucible saves or restores, or the requests fail. (DEDUCED, log 59) -/
def State.failInv (s : State) (core : Nat) : State :=
  match (s.cores.get core).inv with
  | none => s
  | some inv =>
    let rest := inv.items.filter (fun i => !i.ended)
    if inv.depth = 2 then
      let it := inv.items.headD default
      s.freezeNested core it.va it.word
    else
      match inv.kind with
      | .walk | .fault =>
        s.freezeInv core 1 (s.warp (supOf core)).cause.toNat (rest.map (fun it => (it.va, it.word, it.launch, it.wg)))
      | .save | .restore => s.post (.saveDeadlineExpiry inv.vgid)
      | .svc => (rest.foldl (fun s it => s.failSvc core it.key) s).closeInv core (invLaunches inv)

/-- A record that is pending, of the invocation's owner. -/
def mayAnswer (s : State) (core ix owner : Nat) : Bool :=
  decide (ix < 32) && (match (s.cores.get core).mailbox.get ix with
    | some r => (s.wgs.get r.vgid).owner == owner
    | none => false)

def sreplyBody (f : F64) (s : State) (gl : List Nat) : Res :=
  let w := s.cur.warp
  let xs := gl.map (fun l => (opnd s w l f.lit f.a.toNat, opnd s w l f.lit f.b.toNat))
  .next (xs.foldl (fun s x => if mayAnswer s (coreOf w) x.1.toNat (s.warp w).owner then s.answer (coreOf w) x.1.toNat x.2 else s)
    (s.release w scopePkg))

def execSreply (f : F64) (s : State) : Host.Outcome State Fault Refusal :=
  finish (issue { hdrOf (.sreply f) f with priv := true, rel := some scopePkg } (sreplyBody f) s)

/-! ### Entering an invocation (R341–R343) -/

/-- Pending items of one owner, the oldest item's, at most 32. -/
def takeOne {α : Type} (owner : α → Nat) (xs : List α) : List α :=
  match xs with
  | [] => []
  | x :: _ => (xs.filter (fun y => owner y == owner x)).take 32

/-- Walk requests for a core that no freeze holds. -/
def walkItems (s : State) (core : Nat) : List WalkReq :=
  takeOne (·.owner) (s.walks.filter (fun r => r.core == core && !r.taken && !isFrozen s r.owner (dieOfCore core)))

/-- Entries dispatched to a core, the oldest dispatch first. -/
def faultItems (s : State) (core : Nat) : List (Nat × FaultWaiters) :=
  takeOne (fun e => e.1 / 2 ^ 32) ((s.faults.filter (fun e =>
    e.2.live && e.2.dispatched == some core && !e.2.taken && !isFrozen s (e.1 / 2 ^ 32) (dieOfCore core))).mergeSort
      (fun a b => decide (a.2.order ≤ b.2.order)))

/-- Service records not yet handed over, of an owner that is not frozen, the oldest first. -/
def svcItems (s : State) (core : Nat) : List (Nat × SvcRec) :=
  let all := (s.cores.get core).mailbox.filterMap (fun e => e.2.map (fun r => (e.1, r)))
  takeOne (fun e => (s.wgs.get e.2.vgid).owner) ((all.filter (fun e =>
    !e.2.taken && !isFrozen s (s.wgs.get e.2.vgid).owner (dieOfCore core) && (s.wgs.get e.2.vgid).phase != .none)).mergeSort
      (fun a b => decide (a.2.order ≤ b.2.order)))

def State.enterWalk (s : State) (core : Nat) (rs : List WalkReq) : State :=
  let owner := ((rs.head?).map (·.owner)).getD 0
  let same := fun (r x : WalkReq) => x.owner == r.owner && x.core == r.core && x.granule == r.granule && x.die == r.die
  match walkPc s owner with
  | none => rs.foldl (fun s r => (s.endWalk (same r)).refuse r.waiters r.granule) s
  | some pc =>
    let s := { s with walks := s.walks.map (fun (r : WalkReq) => if rs.any (same r) then { r with taken := true } else r) }
    s.startInv core owner pc 0 .walk 0
      (rs.map (fun r => { key := r.granule, va := r.va, word := r.word.toNat, ended := false, die := r.die }))
      (rs.map (fun r => [r.va, r.word.toNat])) []

def State.enterFault (s : State) (core : Nat) (fs : List (Nat × FaultWaiters)) : State :=
  let owner := ((fs.head?).map (fun e => e.1 / 2 ^ 32)).getD 0
  match faultPc s owner with
  | none => fs.foldl (fun s e => s.endFault owner (e.1 % 2 ^ 32) 3) s
  | some pc =>
    let s := fs.foldl (fun (s : State) e => { s with faults := s.faults.update e.1 (fun f => { f with taken := true }) }) s
    s.startInv core owner pc 1 .fault 0
      (fs.map (fun e => { key := e.1 % 2 ^ 32, va := e.2.va, word := e.2.word.toNat, ended := false, die := e.2.die }))
      (fs.map (fun e => [e.2.va, e.2.index])) []

def State.enterSvc (s : State) (core : Nat) (rs : List (Nat × SvcRec)) : State :=
  let owner := ((rs.head?).map (fun e => (s.wgs.get e.2.vgid).owner)).getD 0
  match svcPc s owner with
  | none => rs.foldl (fun s e => s.failSvc core e.1) s
  | some pc =>
    let s := rs.foldl (fun s e => s.setCore core (fun c =>
      { c with mailbox := c.mailbox.update e.1 (fun r => r.map (fun r => { r with taken := true })) })) s
    s.startInv core owner pc 4 .svc 0 (rs.map (fun e => { key := e.1, va := 0, word := 0, ended := false }))
      (rs.map (fun e => e.2.words.map (·.toNat) ++ [e.1])) []

/-- Save or restore the next workgroup of a core: the owner's handler, or the Crucible where none is installed or the
owner is frozen (R211, R339, R365). -/
def State.enterSave (s : State) (core : Nat) (restore : Bool) (v : Nat) : State :=
  let g := s.wgs.get v
  match savePc s g.owner, frameOf s g, isFrozen s g.owner (dieOfCore core) with
  | some pc, some (base, slot), false =>
    let n := g.warps.length
    s.startInv core g.owner pc (if restore then 3 else 2) (if restore then .restore else .save) v
      ((List.range n).map (fun i => { key := i, va := 0, word := 0, ended := false }))
      ((List.range n).map (fun i => [i])) [v, base, slot]
  | _, _, _ => s.post (.saveDeadlineExpiry v)

/-- The next save or restore of a core that may begin (R174, R208). -/
def nextSave (s : State) (core : Nat) : Option (Bool × Nat) :=
  ((s.cores.get core).saves.filter (fun x => x.1 || savable s x.2)).head?

/-- HANDLER_INVOCATION: a free supervisor warp takes its next work, in the precedence of R342. -/
def execHandlerInvocation (core : Nat) (s : State) : Host.Outcome State Fault Refusal :=
  if (s.cores.get core).inv.isSome then .next s
  else if walkItems s core ≠ [] then finish (s.enterWalk core (walkItems s core))
  else if !(faultItems s core).isEmpty then finish (s.enterFault core (faultItems s core))
  else
    match nextSave s core with
    | some x => finish (s.enterSave core x.1 x.2)
    | none => if !(svcItems s core).isEmpty then finish (s.enterSvc core (svcItems s core)) else .next s

/-! ### The fault queue's consumers (R357, R361, R362) -/

/-- Write held posts while one fits. -/
def State.settleHeld (s : State) : Nat → State
  | 0 => s
  | n + 1 => if s.held.any (postReady s) then s.writeHeld.settleHeld n else s

/-- FQCONS advances past ended entries in ring order (R362). -/
def State.advanceCons (s : State) (owner : Nat) : Nat → State
  | 0 => s
  | n + 1 =>
    match faultQueue s owner with
    | none => s
    | some (_, len) =>
      let c := dirWord s owner 16
      if c = dirWord s owner 15 ∨ faultState s owner (c % len) < 2 then s
      else (s.resPutWord owner ((s.owners.get owner).rbase + 8 * 16) ((c + 1) % 2 ^ 64)).advanceCons owner n

/-- The first entry of an owner that AUTODISP has not considered. -/
def unseen (s : State) (owner : Nat) : Option (Nat × FaultWaiters) :=
  s.faults.find? (fun e => e.1 / 2 ^ 32 == owner && e.2.live && !e.2.taken &&
    (e.2.kind == 2 || (!e.2.seen && (faultPc s owner).isSome)))

/-- An entry waits for a core's fault handler, in the order of the dispatches (R342). -/
def State.dispatchFault (s : State) (k core : Nat) : State :=
  { s with faults := s.faults.update k (fun f => { f with seen := true, dispatched := some core, order := s.serial }),
           serial := s.serial + 1 }

/-- AUTODISP_DISPATCH: the hardware dispatches a POSTED entry to the core that posted it, fails a HANDLER entry, and
advances FQCONS (R362). -/
def execAutodispDispatch (owner : Nat) (s : State) : Host.Outcome State Fault Refusal :=
  if !autodisp s owner then .next s
  else
    let s := match unseen s owner with
      | none => s
      | some (k, f) =>
        if f.kind = 2 then s.endFault owner (k % 2 ^ 32) 3
        else if faultState s owner f.index ≠ 0 then { s with faults := s.faults.update k (fun f => { f with seen := true }) }
        else s.dispatchFault k f.core
    let s := s.advanceCons owner ((faultQueue s owner).map (·.2) |>.getD 0)
    finish (s.settleHeld s.held.length)

/-- The live entry at a ring index. -/
def entryAt (s : State) (owner index : Nat) : Option (Nat × FaultWaiters) :=
  s.faults.find? (fun e => e.1 / 2 ^ 32 == owner && e.2.live && e.2.index == index)

/-- FQDONE: the hart ends an entry (R361). (DEDUCED, log 24) -/
def execFqdone (owner : Nat) (w : Word) (s : State) : Host.Outcome State Fault Refusal :=
  match entryAt s owner (bitsOf w.toNat 31 0) with
  | none => .next s
  | some (k, _) =>
    let st := bitsOf w.toNat 34 32
    if st < 2 ∨ 4 < st then .next s else finish (s.endFault owner (k % 2 ^ 32) st)

/-- DISPATCH: the hart has the fault handler run on an entry on a core of the owner (R339, R361). (DEDUCED, log 24) -/
def execDispatch (owner : Nat) (w : Word) (s : State) : Host.Outcome State Fault Refusal :=
  match entryAt s owner (bitsOf w.toNat 31 0) with
  | none => .next s
  | some (k, f) =>
    let core := bitsOf w.toNat 42 41 * 512 + bitsOf w.toNat 40 32
    if f.taken ∨ !(ownerCores (s.owners.get owner)).contains core then .next s
    else if (faultPc s owner).isNone then finish (s.endFault owner (k % 2 ^ 32) 3)
    else .next (s.dispatchFault k core)

/-! ### The service hart's port and accesses (R361) -/

def hartWord (s : State) (owner off : Nat) : Word := (s.owners.get owner).hart.get off
def State.setHart (s : State) (owner off : Nat) (x : Word) : State :=
  s.setOwner owner (fun o => { o with hart := o.hart.set off x })

/-- FILLGO: `tfill` on a die with the operands of the port (R361). -/
def execFillgo (owner : Nat) (w : Word) (s : State) : Host.Outcome State Fault Refusal :=
  if 4 ≤ w.toNat then .next s
  else
    let r := fillOne s owner w.toNat none (hartWord s owner 0x10).toNat (hartWord s owner 0x18).toNat (hartWord s owner 0x20).toNat
    .next (r.2.setHart owner 0x28 (BitVec.ofNat 64 r.1))

/-- INVGO: `tinv` with the operands of the port; the register reads 1 until it completes (R361). -/
def execInvgo (owner : Nat) (_ : Word) (s : State) : Host.Outcome State Fault Refusal :=
  let va := (hartWord s owner 0x30).toNat
  let len := (hartWord s owner 0x38).toNat
  if len ≠ 0 ∧ (2 ^ 56 ≤ va ∨ 2 ^ 56 < va + len) then .next s
  else .next ((s.setHart owner 0x40 1).startInv' owner va len none 0 0).2

/-- Whether an owner's frames hold a device address (R361). -/
def ownsFrame (o : Owner) (pa : Nat) : Bool := o.ranges.any (fun k => decide (k.base ≤ pa) && decide (pa < k.base + k.len))

/-- Write one byte of an operand register of the port. -/
def putByte (x : Word) (i : Nat) (b : Byte) : Word :=
  BitVec.ofNat 64 (leNat (splice (leBytes 8 x.toNat) i [b]))

/-- The hart's port begins here (R361). (DEDUCED, log 24) -/
def hartPort : Nat := 0x00100000

/-- Whether an address is in the hart's map: a frame of its owner at 2^52 + p, its port, or its local SRAM (R1, R361). (DEDUCED, log 24) -/
def hartMapped (s : State) (owner addr : Nat) : Bool :=
  if 2 ^ 52 ≤ addr then ownsFrame (s.owners.get owner) (addr - 2 ^ 52)
  else decide (hartPort ≤ addr ∧ addr < hartPort + 0x48) || decide (addr < 2 ^ 20)

/-- SERVICE_HART_ACCESS: one byte that the hart reads or writes (R1, R361). An access outside the map is an access fault on the
hart, which the port's owner notes with its address; nothing else changes. (DEDUCED, log 24) -/
def execServiceHartAccess (owner addr : Nat) (write : Option Byte) (s : State) : Host.Outcome State Fault Refusal :=
  if !hartMapped s owner addr then .next (s.setOwner owner (fun o => { o with hartFault := some addr }))
  else
    match write with
    | none => .next s
    | some b =>
      if 2 ^ 52 ≤ addr then
        let s := s.perform owner 0 (.dev (addr - 2 ^ 52)) [b]
        finish (s.settleHeld s.held.length)
      else if hartPort ≤ addr ∧ addr < hartPort + 0x48 then
        let off := (addr - hartPort) / 8 * 8
        if [0x10, 0x18, 0x20, 0x30, 0x38].contains off then
          .next (s.setHart owner off (putByte (hartWord s owner off) (addr % 8) b))
        else .next s
      else .next (s.setOwner owner (fun o => { o with hartSram := o.hartSram.set addr b }))

/-- A byte that the hart reads (R361): a frame of its owner at 2^52 + p, a register of its port, or its local SRAM; an
address in none of them is an access fault of the hart. (DEDUCED, log 24) -/
def State.hartRead (s : State) (owner addr : Nat) : Option Byte :=
  if 2 ^ 52 ≤ addr then
    if ownsFrame (s.owners.get owner) (addr - 2 ^ 52) then some ((s.devBytes (addr - 2 ^ 52) 1).getD 0 0) else none
  else if hartPort ≤ addr ∧ addr < hartPort + 0x48 then
    let off := (addr - hartPort) / 8 * 8
    if off < 0x10 then none else some ((leBytes 8 (hartWord s owner off).toNat).getD (addr % 8) 0)
  else if addr < 2 ^ 20 then some ((s.owners.get owner).hartSram.get addr)
  else none

/-! ### The path to host memory (R367–R369) -/

/-- Wake every access that waits for a host page. -/
def State.hostReplay (s : State) (r : AtsReq) : State := r.granules.foldl (fun s g => s.replay r.waiters g.2) s
def State.hostRefuse (s : State) (r : AtsReq) : State :=
  -- threads and the launch unit fail by granule; engines and the oldest parked write fail once
  let byGranule := fun (q : Requester) => match q with
    | .thread _ _ | .launch _ => true
    | _ => false
  let s := r.granules.foldl (fun s g => s.refuse (r.waiters.filter byGranule) g.2) s
  s.refuse (r.waiters.filter (fun q => !byGranule q)) 0

/-- The lowest page-request group index that is not open (R368). -/
def freePrg (s : State) : Option Nat := (List.range 512).find? (fun i => !(s.prgs.get i).open_)

/-- Whether two requests are one: page and permission asked. -/
def AtsReq.same (a b : AtsReq) : Bool := a.pasid == b.pasid && a.page == b.page && a.read == b.read && a.write == b.write

/-- Page requests that the host has not answered. (DESIGN CHOICE, log 100) -/
def openPages (s : State) : Nat := (s.prgs.filter (fun e => e.2.open_)).length

/-- Send a page request for a request that the host did not grant, if an index is free and the host's allocation is not used
up; the others wait (R367). (DESIGN CHOICE, log 27) -/
def State.sendPage (s : State) (r : AtsReq) : State :=
  if s.crucible.prgEnded ∨ s.module.prgAlloc ≤ openPages s then s
  else
    match freePrg s with
    | none => s
    | some i =>
      let p : PrgIndex := { open_ := true, orphan := false, ifc := r.ifc, pasid := r.pasid, page := r.page }
      { s with
        prgs := s.prgs.set i p
        ats := s.ats.map (fun x => if x.same r then { x with prg := some i } else x) }

/-- Send the oldest page request that waits for an index. -/
def State.nextPage (s : State) : State :=
  match s.ats.find? (fun r => r.denied && r.prg.isNone) with
  | none => s
  | some r => s.sendPage r

/-- A cache entry from an answer of the host; the cache holds 16,384 (R367). -/
def State.dtcPut (s : State) (e : DtcEntry) : State :=
  { s with dtc := (e :: s.dtc.filter (fun x => !(x.pasid == e.pasid && x.page == e.page))).take 16384 }

/-- The granules on which a requester waits: those of walks, of fault entries and posts, and of requests to the host. -/
def waitsOn (s : State) (r : Requester) : List Nat :=
  (s.walks.filter (fun q => q.waiters.contains r)).map (·.granule) ++
  (s.faults.filter (fun e => e.2.live && e.2.waiters.contains r)).map (fun e => e.2.va / 2 ^ 16) ++
  (s.held.filter (fun h => h.waiters.contains r)).map (fun h => h.va / 2 ^ 16) ++
  (s.ats.filter (fun q => q.waiters.contains r)).flatMap (fun q => q.granules.map (·.2))

/-- Whether an access of a warp still waits for a granule on some request or entry. -/
def requested (s : State) (w a g : Nat) : Bool := (waitsOn s (.thread w a)).contains g

/-- The places that threads miss but have no request for are resolved: an access that waited only for the host looks up again, and
one that waits on a walk or an entry too goes on waiting for that (R372, R405). -/
def State.wakeTranslations (s : State) : State :=
  let accs := (s.threads.filterMap (fun (e : Nat × Thread) => (e.2.missing).map (fun m => (e.1 / 32, m.1)))).eraseDups
  accs.foldl (fun t x =>
    let gs := ((accessLanes s x.1 x.2).flatMap (fun l => (((s.thread x.1 l).missing).map (fun m => m.2.map (·.1))).getD [])).eraseDups
    (gs.filter (fun g => !requested s x.1 x.2 g)).foldl (fun t g => t.replayAccess x.1 g x.2) t) s

/-- Replay parked writes in order, each translated afresh; one whose translation waits holds back the later ones (R405). -/
def State.drainParked (s : State) : Nat → State
  | 0 => s
  | n + 1 =>
    if s.module.hostLost then s
    else
      match s.module.parked with
      | [] => s
      | p :: r =>
        let owner := match p.ifc with
          | some i => (s.ifcs.get i).owner.getD 0
          | none => 0
        if p.ifc.isNone ∨ dtcHit s p.pasid p.addr .write then
          let s := { s.hostApply p with module := { s.module with parked := r } }
          s.drainParked n
        else
          let q : XReq := { owner := owner, die := 0, keys := [], core := 0, vgid := 0, kind := 0, req := .parked, acc := .write }
          atsAsk s q (p.ifc.getD 0) p.pasid p.addr p.addr

/-- Replay what can be replayed; reads that wait for the last, and writers that wait for room, try again (R404, R405). -/
def State.replayParked (s : State) : State :=
  let t := s.drainParked (s.module.parked.length + 1)
  if t.module.parked = [] ∨ t.module.parked.length < s.module.parked.length then
    (List.range 4).foldl (fun s d => s.wakeResources d) t.wakeTranslations
  else t

/-- Refuse requests of the host that a condition names, and forget them. -/
def State.dropAts (s : State) (c : AtsReq → Bool) : State :=
  (s.ats.filter c).foldl (fun s r => s.hostRefuse r) { s with ats := s.ats.filter (fun x => !c x) }

/-- ATS_COMPLETION: the host answers a translation request (R367): what it grants is cached, and a request that it does not grant
whole asks for the page, or fails once page requests have ended. -/
def execAtsCompletion (pasid page : Nat) (read write : Bool) (s : State) : Host.Outcome State Fault Refusal :=
  let s := s.noTimeout
  match s.ats.find? (fun r => r.pasid == pasid && r.page == page && !r.denied) with
  | none => .next s
  | some r =>
    let s := if read || write then s.dtcPut { pasid := pasid, page := page, r := read, w := write } else s
    if (!r.read || read) && (!r.write || write) then
      .next (({ s with ats := s.ats.filter (fun x => !x.same r) }).hostReplay r).replayParked
    else if s.crucible.prgEnded then .next (s.dropAts (·.same r)).replayParked
    else
      let s := { s with ats := s.ats.map (fun (x : AtsReq) => if x.same r then { x with denied := true } else x) }
      .next (s.sendPage r)

/-- PAGE_REQUEST_RESPONSE: 0 Success, 1 Invalid Request, 15 Response Failure. A response for an index that is not open, is
orphaned, or was opened for another PASID is discarded; one for an orphaned index frees it (R368). Response Failure ends page
requests: those that wait for an index fail with it (R367). -/
def execPageRequestResponse (index pasid code : Nat) (s : State) : Host.Outcome State Fault Refusal :=
  let p := s.prgs.get index
  if !p.open_ || p.pasid ≠ pasid then .next s
  else
    let s := { s with prgs := s.prgs.set index default }
    if p.orphan then .next s.nextPage
    else if !s.ats.any (fun r => r.prg == some index) then .next s.nextPage
    else if code = 0 then
      .next { s with ats := s.ats.map (fun (x : AtsReq) => if x.prg = some index then { x with prg := none, denied := false } else x) }.nextPage
    else
      let s := if code = 15 then { s with crucible := { s.crucible with prgEnded := true } } else s
      .next ((s.dropAts (fun r => r.prg == some index || (s.crucible.prgEnded && r.denied && r.prg.isNone))).nextPage).replayParked

/-- PRG_ORPHAN_TIMEOUT: 100 ms have passed; the orphaned index may be reissued (R368). -/
def execPrgOrphanTimeout (index : Nat) (s : State) : Host.Outcome State Fault Refusal :=
  if (s.prgs.get index).open_ ∧ (s.prgs.get index).orphan then .next ({ s with prgs := s.prgs.set index default }).nextPage
  else .next s

/-- Whether a pending instruction's accesses lie in invalidated host pages. -/
def usesHostPages (p : Pending) (pasid page pages : Nat) : Bool :=
  let hit := fun (l : Loc) => match l with
    | .host _ q a _ => q == pasid && decide (page ≤ a / 4096) && decide (a / 4096 < page + pages)
    | _ => false
  match p.work with
  | .load _ _ _ ls | .store _ _ _ ls | .atomic _ _ _ _ _ ls | .cntAdd _ ls | .cntFail _ ls => ls.any (fun x => hit x.loc)
  | _ => false

/-- Whether bytes of an owner map to one of the host pages, by an entry of a die. -/
def mapsTo (s : State) (owner pasid page pages va n : Nat) : Bool :=
  s.tlb.any (fun k => decide (k.1 < 16) && k.2.any (fun e =>
    e.owner == owner && e.tier == 2 && (s.ifcs.get e.ifc).pasid == pasid &&
    (let lo := Nat.max va e.va
     let hi := Nat.min (va + n) (e.va + e.bytes)
     decide (lo < hi) && rangesOverlap (e.frame + (lo - e.va)) (hi - lo) (page * 4096) (pages * 4096))))

/-- Fail with REVOKED the engine parts that have used host pages, and revoke the zones whose ring or counter maps to them (R299,
R369). -/
def State.revokePages (s : State) (pasid page pages : Nat) : State :=
  let hit := fun (ps : List (Nat × Nat)) => ps.any (fun p => p.1 == pasid && decide (page ≤ p.2) && decide (p.2 < page + pages))
  let s := s.revokeXfers (fun x => hit x.pages)
  let s := s.revokeColls (fun x => hit x.pages)
  s.owners.keys.foldl (fun s o => (s.owners.get o).zones.foldl (fun (s : State) (z : Nat × Zone) =>
    if z.2.armed ∧ !z.2.revoked ∧ (mapsTo s o pasid page pages z.2.base z.2.z || mapsTo s o pasid page pages z.2.ctr 16) then
      s.revokeZone o z.1 stRevoked else s) s) s

/-- HOST_INVALIDATION: cache entries go; accesses that used them are performed; engine parts fail with REVOKED (R369). -/
def execHostInvalidation (pasid page pages : Nat) (s : State) : Host.Outcome State Fault Refusal :=
  let s := { s with dtc := s.dtc.filter (fun e => !(e.pasid == pasid && decide (page ≤ e.page) && decide (e.page < page + pages))) }
  let s := (s.pending.filter (fun p => usesHostPages p pasid page pages)).foldl (fun s p => s.completePending p) s
  let s := s.drainPort (fun p => match p.loc with
    | .host _ q a _ => q == pasid && decide (page ≤ a / 4096) && decide (a / 4096 < page + pages)
    | _ => false)
  finish (s.revokePages pasid page pages)

end Sys2Proof.Machine
end

