-- ==== Sys2Proof/Machine/Traps.lean ====
section
/-! DEFINITION. Trace records (R409), taking a trap (R196–R200), the completion of what a warp has issued (R30, R68, R130,
R142, R145, R158, R178), the stop of a workgroup (R206, R208), and progress by displacement (R328). -/

namespace Sys2Proof.Machine

/-! ### Trace records (R409) -/

/-- A mask of lanes. -/
def laneMask (lanes : List Nat) : Nat := lanes.foldl (fun m l => m ||| 2 ^ l) 0

/-- The 32 bytes of a record: KIND 0 issue, 1 sample, 2 trap entry. (DEDUCED, log 46) -/
def traceRecord (s : State) (lost : Bool) (kind w mask : Nat) (pc : Word) : List Byte :=
  let place := kind * 2 ^ 52 + dieOf w * 2 ^ 55 + (coreOf w % 512) * 2 ^ 57 + (quadOf w % 4) * 2 ^ 66 +
    (s.warp w).index % 16 * 2 ^ 68
  leBytes 32 (b2n lost * 2 ^ 51 + place + (s.warp w).vgid * 2 ^ 72 + mask * 2 ^ 96 + pc.toNat * 2 ^ 128 +
    nsAt s.tick % 2 ^ 64 * 2 ^ 192)

/-- Where a byte of an owner lies by the die's TLB alone; an agent without a request of its own waits for nothing. -/
def quietLoc (s : State) (die owner va : Nat) (a : Acc) : Option Loc :=
  if 2 ^ 56 ≤ va then none
  else
    match tlbLookup s (dieArrays die) owner va a with
    | none => none
    | some (e, _) =>
      let x := e.frame + (va - e.va)
      if e.tier ≠ 2 then some (.dev x)
      else
        let pasid := (s.ifcs.get e.ifc).pasid
        if dtcHit s pasid x a ∧ !hostWaits s pasid x e.uc a then some (.host e.ifc pasid x e.uc) else none

/-- Write bytes where each has a translation; none when one has not. (DEDUCED, log 46) -/
def State.quietWrite (s : State) (die owner va : Nat) (bs : List Byte) : Option State :=
  let ps := (bs.zip (List.range bs.length)).map (fun x => (quietLoc s die owner (va + x.2) .write, x.1))
  if ps.all (fun p => p.1.isSome) then
    some (ps.foldl (fun (s : State) p => match p.1 with
      | some l => s.perform owner 0 l [p.2]
      | none => s) s)
  else none

/-- The trace unit writes a record into the session's ring; a full ring stops recording and sets LOST. (DEDUCED, log 46) -/
def State.trace (s : State) (kind w mask : Nat) (pc : Word) : State :=
  let o := (s.warp w).owner
  let x := s.sessions.get o
  let lose := { s with sessions := s.sessions.update o (fun x => { x with lost := true }) }
  match x.live, x.ring with
  | true, some (va, n, pos) =>
    if n < pos + 32 then lose
    else
      match s.quietWrite (dieOf w) o (va + pos) (traceRecord s x.lost kind w mask pc) with
      | none => lose
      | some t => { t with sessions := t.sessions.update o (fun x => { x with ring := some (va, n, pos + 32), lost := false }) }
  | _, _ => s

/-! ### Trap entry (R197–R200) -/

/-- Whether a warp has a trap to take. -/
def trapDue (s : State) (w : Nat) : Bool :=
  let x := s.warp w
  x.live && !x.stopped && (x.syncNew || x.asyncNew || (x.cause != 0 && !x.inHandler)) &&
  !(isSup w && (!x.syncNew || invFrozen s (coreOf w)))

/-- WAIT and CODE of a thread's frame (R198). (DEDUCED, log 18) -/
def frameWait (t : Thread) : Nat := if t.raised then 0 else t.wcode
def frameCode (t : Thread) : Nat :=
  if t.raised then t.code else if t.wcode = 1 then ((t.awaited).map (·.phase)).getD 0 else 0

/-- The four words of a thread's trap frame (R198). (DEDUCED, log 17) -/
def frameWords (x : Warp) (t : Thread) : List Word :=
  [t.pc,
   BitVec.ofNat 64 (frameWait t + t.preds.toNat * 2 ^ 7 + b2n t.raised * 2 ^ 16 + t.slots.toNat * 2 ^ 20 +
     t.spd % 2 ^ 16 * 2 ^ 32 + frameCode t % 2 ^ 16 * 2 ^ 48),
   BitVec.ofNat 64 (x.cause.toNat + x.fen.toNat * 2 ^ 32),
   t.faultVa]

/-- A thread at the handler's entry. -/
def enterThread (pc : Word) (tick : Nat) (t : Thread) : Thread :=
  { t with pc := pc, spd := t.spd + 4, wait := .ready, since := tick, urgent := false, raised := false, faultVa := 0,
           code := 0, wcode := 0, awaited := none, passed := false }

/-- The addresses of a warp's frame words. -/
def frameAddrs (s : State) (w : Nat) : List (Nat × Nat) :=
  (s.liveLanes w).flatMap (fun l => (List.range 4).map (fun k => (l, spillAddr s w l ((s.thread w l).spd + k))))

/-- Write the frames and start the handler; a translation that is missing is awaited. (DEDUCED, log 17) -/
def State.writeFrames (s : State) (w : Nat) (pc : Word) : State :=
  let live := s.liveLanes w
  let xs := frameAddrs s w
  if live.any (fun l => decide (spillLimit s w < (s.thread w l).spd + 4)) || xs.any (fun a => decide (2 ^ 56 < a.2 + 8)) ||
     (s.warp w).frameFail then s.abortWarp w
  else
    let r := xlateAll s w 0 .write xs
    if r.refused ≠ [] then r.st.abortWarp w
    else if r.waiting ≠ [] ∨ r.full then r.st
    else
      let words := live.flatMap (fun l => frameWords (s.warp w) (s.thread w l))
      let s := pushWords r.st w (r.found.zip words)
      let s := s.onLanes w live (fun _ t => enterThread pc s.tick t)
      let s := s.setWarp w (fun x => { x with
        fen := 0, inHandler := true, syncNew := false, asyncNew := false, stopped := x.stepping, stepping := false })
      s.trace 2 w (laneMask live) pc

/-- Whether a thread of a warp waits for engine operations that it has cancelled to end: it issues nothing until then, and its
warp takes no trap (R231, R312). (DEDUCED, log 17) -/
def awaitsOps (s : State) (w : Nat) : Bool := s.pending.any (fun p => p.warp == w && p.after != [])

/-- Take the trap of a warp (R196, R197, R200). A cause of the supervisor warp is its invocation's (R344). (DEDUCED, log 17) -/
def State.enterTrap (s : State) (w : Nat) : State :=
  let x := s.warp w
  if !trapDue s w ∨ awaitsOps s w then s
  else if isSup w then s.failInv (coreOf w)
  else if x.inHandler then
    (if x.syncNew then s.abortWarp w else s.setWarp w (fun x => { x with asyncNew := false }))
  else if x.cause = 0 then s.setWarp w (fun x => { x with syncNew := false, asyncNew := false })
  else
    let s := ((s.dropUnready w).withdrawWarp w).finishWork [w]
    match trapPc s x.owner with
    | none => s.abortWarp w
    | some pc => s.writeFrames w (BitVec.ofNat 64 pc)

/-- TRAP_ENTRY (R197). -/
def execTrapEntry (warp : Nat) (s : State) : Host.Outcome State Fault Refusal := finish (s.enterTrap warp)

/-! ### Completions -/

/-- What a store on its way must follow: on the cross-die path everything before it to the same home die, at a port the core's
earlier stores to its home slice, and itself (R178). -/
def State.landStore (s : State) (p : PortStore) : State :=
  if p.cross then
    let path := s.port.filter (fun q => q.cross && dieOfCore q.core == dieOfCore p.core && q.loc.home == p.loc.home)
    let ids := (path.takeWhile (fun q => q.pid != p.pid)).map (·.pid) ++ [p.pid]
    s.drainPort (fun q => ids.contains q.pid)
  else
    (s.drainCross (dieOfCore p.core) p.loc).drainPort (fun q =>
      q.core == p.core && !q.cross && sameSlice q.loc p.loc && decide (q.pid ≤ p.pid))

/-- MEMORY_ACCESS_COMPLETE: a slotted access is performed, copies of a `bsend` have left, or a store on its way reaches its home
(R158, R172, R178). (DEDUCED, log 9) -/
def execMemoryAccessComplete (pid : Nat) (s : State) : Host.Outcome State Fault Refusal :=
  match s.port.find? (fun p => p.pid == pid) with
  | some p => finish (s.landStore p)
  | none =>
    match awayPending s pid with
    | some (v, p) => finish (if p.unit = .bsend then s.endAway v p else s)
    | none => finish (completeUnit .bsend pid (completeUnit .memory pid s))

/-- DIVIDER_COMPLETE (R130). -/
def execDividerComplete (pid : Nat) (s : State) : Host.Outcome State Fault Refusal := .next (completeUnit .divider pid s)

/-- SPECIAL_FUNCTION_COMPLETE (R142). -/
def execSpecialFunctionComplete (pid : Nat) (s : State) : Host.Outcome State Fault Refusal :=
  .next (completeUnit .special pid s)

/-- CONVERSION_COMPLETE (R145). -/
def execConversionComplete (pid : Nat) (s : State) : Host.Outcome State Fault Refusal :=
  .next (completeUnit .conversion pid s)

/-- THREAD_URGENT: a thread has been ready for 192 cycles without issuing (R39). -/
def execThreadUrgent (thread : Nat) (s : State) : Host.Outcome State Fault Refusal :=
  let t := s.threads.get thread
  if t.live ∧ t.wait = .ready then .next { s with threads := s.threads.update thread (fun t => { t with urgent := true }) }
  else .next s

/-! ### Stopping a workgroup (R206, R208, R354) -/

/-- The waits of a workgroup's threads, with the warp index (R201). (DEDUCED, log 65) -/
def recordedWaits (s : State) (g : Workgroup) : List (Nat × Wait) :=
  (g.warps.zip (List.range g.warps.length)).flatMap (fun x =>
    (s.liveLanes x.1).map (fun l => (x.2, (s.thread x.1 l).wait)))

/-- Whether a host command stops every workgroup of an owner, which may use any of its frames. -/
def stopsAll (s : State) (owner : Nat) : Bool := (s.owners.get owner).pending.isSome || (s.sessions.get owner).asked

/-- The save frame of a stop: the one already chosen, or one with room. (DEDUCED, log 42) -/
def stopFrame (s : State) (v : Nat) : Option (Nat × Nat) :=
  match (s.wgs.get v).frame with
  | some f => some f
  | none => chooseFrame s v (stopsAll s (s.wgs.get v).owner)

/-- Stop a workgroup that has its frame: warps stop, waits are withdrawn, issued work completes and is performed as far
as the package, the engines pause, and the save waits for its core (R206). (DEDUCED, log 11) (DEDUCED, log 58) -/
def State.stopWg (s : State) (v : Nat) (frame : Nat × Nat) : State :=
  let g := s.wgs.get v
  let waits := recordedWaits s g
  let s := g.warps.foldl (fun s w => (s.dropUnready w).stopWarp w) s
  let s := (s.finishWork g.warps).drainPort (fun p => p.core == g.core && p.vgid == v)
  let s := s.setWg v (fun g => { g with
    phase := .stopping, frame := some frame, waits := waits, savedW := g.warps.map (fun _ => default), keptFlags := 0 })
  let s := s.pauseEngines v
  s.setCore g.core (fun c => { c with saves := c.saves ++ [(false, v)] })

/-- A warp of a workgroup that R200 ends. -/
def doomedWarp (s : State) (g : Workgroup) : Option Nat :=
  g.warps.find? (fun w => (s.warp w).syncNew && (s.warp w).inHandler)

/-- Choose the frames of workgroups that stop together, one after the other; none where one finds none. -/
def stopFrames (s : State) : List Nat → Option (List (Nat × Nat × Nat))
  | [] => some []
  | v :: r => (stopFrame s v).bind (fun f =>
      (stopFrames (s.setWg v (fun g => { g with frame := some f })) r).map (fun fs => (v, f) :: fs))

/-- Whether the set of a workgroup stands whole on its cores, so that it can stop together (R51). -/
def setStands (s : State) (v : Nat) : Bool :=
  match ((s.wgs.get v).sets).find? (fun k => (s.sets.get k).co) with
  | none => true
  | some k => s.wgs.all (fun e => !e.2.sets.contains k || e.2.phase == .resident || e.2.phase == .none)

/-- WORKGROUP_STOP (R206). The members of a co-resident set stop in one step, when every one has a frame (R51, R327). (DEDUCED, log 42) -/
def execWorkgroupStop (vgid : Nat) (s : State) : Host.Outcome State Fault Refusal :=
  let g := s.wgs.get vgid
  if g.phase ≠ .resident ∨ (s.launches.get g.launch).ending ∨ !setStands s vgid then .next s
  else
    match (together s vgid).findSome? (fun v => doomedWarp s (s.wgs.get v)) with
    | some w => .next (s.abortWarp w)
    | none =>
      match stopFrames s (together s vgid) with
      | none => .next s
      | some fs => finish (fs.foldl (fun s x => s.stopWg x.1 x.2) s)

/-! ### Progress by displacement (R328) -/

/-- Whether a thread stands in one of the four waits that R328 names. -/
def standsStill (t : Thread) : Bool :=
  match t.wait with
  | .barrier _ _ _ | .counter _ _ | .presence _ _ | .monitor => true
  | _ => false

/-- An owner's resident workgroups on a die, the one placed last first. -/
def residentsOnDie (s : State) (die owner : Nat) : List (Nat × Workgroup) :=
  (s.wgs.filter (fun e => e.2.owner == owner && e.2.phase == .resident && dieOfCore e.2.core == die)).mergeSort
    (fun a b => decide (b.2.order ≤ a.2.order))

/-- Every live thread of an owner's resident workgroups on a die waits, and there is one. -/
def allWaiting (s : State) (die owner : Nat) : Bool :=
  let gs := residentsOnDie s die owner
  !gs.isEmpty && gs.all (fun g => g.2.warps.all (fun w => (s.liveLanes w).all (fun l => standsStill (s.thread w l))))

/-- The launch of an owner whose workgroup is to be placed next. -/
def firstWanting (s : State) (owner : Nat) : Option Nat :=
  (s.launches.find? (fun e => e.2.owner == owner && wantsPlace e.2 && (earlierLaunches s e.1).isEmpty)).map (·.1)

/-- The state as it will be once a workgroup has left its core. -/
def without (s : State) (v : Nat) : State :=
  ((s.wgs.get v).warps.foldl (fun s w => s.freeWarp w) s).setWg v (fun g => { g with phase := .saved, warps := [], freeUnits := [] })

/-- The workgroup that placing work of a launch has placed: the first index that is placed now and was not. -/
def newlyPlaced (s t : State) (l : Nat) : Nat :=
  let x := s.launches.get l
  (((List.range (x.passed s)).map (x.next + ·)).find? (fun ix => (t.launches.get l).isPlaced ix && !x.isPlaced ix)).getD x.next

/-- The fewest workgroups, in the order given, whose saving lets a launch place its next one, and that one's index. (DESIGN CHOICE, log 48) -/
def toDisplace (s : State) (l : Nat) : Nat → List Nat → List Nat → Option (List Nat × Nat)
  | 0, _, _ => none
  | _, [], _ => none
  | n + 1, v :: r, done =>
    let vs := (together s v).filter (fun u => !done.contains u)
    let done' := done ++ vs
    let s' := (together s v).foldl without s
    match placeLaunch s' l with
    | some t => some (done', newlyPlaced s' t l)
    | none => toDisplace s' l n (r.filter (fun u => !(together s v).contains u)) done'

/-- Choose frames for workgroups in order, which make room for another; false when one finds none (R354). -/
def State.displaceAll (s : State) (room : Nat × Nat) : List Nat → Bool × State
  | [] => (true, s)
  | v :: r =>
    match chooseFrame s v true with
    | none => (false, s)
    | some f => ((s.setWg v (fun g => { g with frame := some f, displaced := true, roomFor := some room })).post
        (.workgroupStop v)).displaceAll room r

/-- Whether a saved workgroup of a launch could be restored now on a core of a die (R318, R327). -/
def canReturn (s : State) (l die : Nat) : Bool :=
  s.wgs.any (fun e => e.2.launch == l && readyToRestore s e.1 &&
    (List.range 512).any (fun c => (restoreAll s e.1 (die * 512 + c)).isSome))

/-- DISPLACEMENT: the interval of R328 has passed on a die; waiting workgroups are saved, the one placed last first. (DESIGN CHOICE, log 48) -/
def execDisplacement (die owner : Nat) (s : State) : Host.Outcome State Fault Refusal :=
  if !ownerRuns s owner ∨ !allWaiting s die owner then .next s
  else
    match firstWanting s owner with
    | none => .next s
    | some l =>
      match placeLaunch s l with
      | some t => if hasReturning s l ∧ !(List.range 4).any (canReturn s l) then .next t else .next s
      | none =>
        let vs := (residentsOnDie s die owner).map (·.1)
        match toDisplace s l vs.length vs [] with
        | none => .next s
        | some (vs, ix) =>
          let r := s.displaceAll (l, ix) vs
          .next (if r.1 then r.2 else s.endLaunch l statusExhausted 1 none)

end Sys2Proof.Machine
end

