-- ==== Sys2Proof/Machine/Crucible.lean ====
section
/-! DEFINITION. The Crucible (R375–R390): command records and their checks, policies, allotments and the reserve's pages,
virtual-device states, sealing, flows, attestation, firmware and the lifecycle; and the host's register writes (R314,
R382). -/

namespace Sys2Proof.Machine

/-! ### Records (R383, R384) -/

/-- A field of a command record. -/
def cmdF (cmd : List Byte) (hi lo : Nat) : Nat := bitsOf (leNat cmd) hi lo
def cmdTag (cmd : List Byte) : Nat := cmdF cmd 63 32
def cmdHandle (cmd : List Byte) : Nat := cmdF cmd 127 64
def cmdNonce (cmd : List Byte) : Nat := cmdF cmd 191 128
def cmdArg (cmd : List Byte) (k : Nat) : Nat := cmdF cmd (255 + 64 * k) (192 + 64 * k)
def cmdHki (cmd : List Byte) : Nat := cmdF cmd 1279 1272
def cmdPub (cmd : List Byte) : List Byte := (cmd.drop 56).take 96
def cmdSig (cmd : List Byte) : List Byte := (cmd.drop 160).take 96

/-- The result codes of R384. -/
def resOk : Nat := 0x00
def resBadCmd : Nat := 0x01
def resBadSig : Nat := 0x02
def resReplay : Nat := 0x03
def resBadHandle : Nat := 0x04
def resBusy : Nat := 0x05
def resBadState : Nat := 0x06
def resDenied : Nat := 0x07
def resLimit : Nat := 0x08
def resNoRes : Nat := 0x09
def resHostFault : Nat := 0x0A
def resIntegrity : Nat := 0x0B
def resPending : Nat := 0x0C

def State.setCrucible (s : State) (f : Crucible → Crucible) : State := { s with crucible := f s.crucible }

/-- Answer the record being checked: RESULT, RESVAL where the command has a value, and BUSY clear. (DEDUCED, log 34) -/
def State.answerCmd (s : State) (cmd : List Byte) (code : Nat) (val : Option Nat) : State :=
  s.setCrucible (fun c => { c with
    result := BitVec.ofNat 64 (code + cmdTag cmd * 2 ^ 32)
    resval := match val with
      | some v => BitVec.ofNat 64 v
      | none => c.resval
    busy := false, waiting := none })

/-- A record that is malformed whatever its handle. -/
def badRecord (cmd : List Byte) : Bool := cmdF cmd 31 8 != 0 || cmdF cmd 1271 1216 != 0 || decide (3 < cmdHki cmd)

/-- HKEY*i* of a policy. -/
def hostKeyHash (pol : List Byte) (i : Nat) : Nat := bitsOf (leNat pol) (831 + 384 * i) (448 + 384 * i)

/-- The signature check of R383 under a policy. -/
def signedOk (pol cmd : List Byte) : Bool :=
  hostKeyHash pol (cmdHki cmd) != 0 && hostKeyHash pol (cmdHki cmd) == Config.sha384 (cmdPub cmd) &&
  Config.ecdsaOk (cmdPub cmd) (cmd.take 160) (cmdSig cmd)

/-- The owner that a handle names. -/
def ownerOf (s : State) (handle : Nat) : Option Nat :=
  (s.owners.find? (fun e => e.2.live && e.2.handle == handle)).map (·.1)

/-- The NONCE of a host key for a handle advances (R384). Nonces are kept plus one, so that none reads 0. (DEDUCED, log 35) -/
def State.noteNonce (s : State) (o : Nat) (cmd : List Byte) : State :=
  let k := Config.sha384 (cmdPub cmd)
  s.setOwner o (fun x => if x.nonces.get k < cmdNonce cmd + 1 then { x with nonces := x.nonces.set k (cmdNonce cmd + 1) } else x)

/-- What the checks that every command shares come to. -/
inductive Gate
  | fail (s : State) (code : Nat)
  | pass (s : State) (owner : Nat)

/-- The checks of R384 from BADCMD to the OPS bit, for a command whose handle exists already. (DEDUCED, log 35) (DEDUCED, log 103) -/
def gate (s : State) (cmd : List Byte) (code : Nat) (from_ : List DevState) : Gate :=
  if badRecord cmd then .fail s resBadCmd
  else
    match ownerOf s (cmdHandle cmd) with
    | none => .fail s resBadHandle
    | some o =>
      let x := s.owners.get o
      if !signedOk x.policy cmd then .fail s resBadSig
      else
        let s' := s.noteNonce o cmd
        if cmdNonce cmd + 1 ≤ x.nonces.get (Config.sha384 (cmdPub cmd)) then .fail s' resReplay
        else if x.pending.isSome then .fail s' resBusy
        else if !from_.contains x.state then .fail s' resBadState
        else if !bitOf (x.pol 127 64) code then .fail s' resDenied
        else .pass s' o

/-- Whether a command reads host memory: POLICY, ALLOT, FLOW, and RESUME of an evicted device. (DEDUCED, log 41) -/
def readsHost (s : State) (cmd : List Byte) (code : Nat) : Bool :=
  code == 2 || code == 3 || code == 12 || (code == 8 && (match ownerOf s (cmdHandle cmd) with
    | some o => (s.owners.get o).state == .evicted
    | none => false))

/-- While the host is lost, and until its parked writes are replayed, a record that needs a host read waits (R404, R405). (DEDUCED, log 41) -/
def State.holdCmd (s : State) (cmd : List Byte) : State := s.setCrucible (fun c => { c with busy := true, waiting := some cmd })

/-- Run a command's own part when the shared checks pass. -/
def withGate (s : State) (cmd : List Byte) (code : Nat) (from_ : List DevState) (k : State → Nat → State) :
    Host.Outcome State Fault Refusal :=
  if hostHeld s && readsHost s cmd code then .next (s.holdCmd cmd)
  else
    match gate s cmd code from_ with
    | .fail s' c => .next (s'.answerCmd cmd c none)
    | .pass s' o => finish (k s' o)

def notEvicted : List DevState := [.stopped, .running, .paused]
def anyState : List DevState := [.stopped, .running, .paused, .evicted]

/-! ### Host memory as the physical function reaches it (R385, R404) -/

/-- Host addresses without a PASID lie in a space of their own. (DESIGN CHOICE, log 43) -/
def pfSpace : Nat := 2 ^ 20

/-- A host read of the Crucible; some reads fail (R384). (DESIGN CHOICE, log 43) -/
def State.pfRead (s : State) (addr n : Nat) : Option (List Byte) × State :=
  let s' := s.setCrucible (fun c => { c with drawn := c.drawn + 1 })
  if Config.hostFails s.crucible.drawn then (none, s') else (some (s.host.getRange (hostKey pfSpace addr) n), s'.noTimeout)

/-! ### Policies (R380, R381) -/

def polF (pol : List Byte) (hi lo : Nat) : Nat := bitsOf (leNat pol) hi lo

/-- Every limit of a policy is in range. (DEDUCED, log 44) -/
def limitsOk (pol : List Byte) : Bool :=
  decide (polF pol 143 128 ≤ 2048) && decide (polF pol 159 144 ≤ 2048) && decide (polF pol 189 183 ≤ 64) &&
  decide (polF pol 207 192 ≤ 4096) && decide (1 ≤ polF pol 223 208) && decide (polF pol 223 208 ≤ 256) &&
  decide (1 ≤ polF pol 255 224) &&
  (polF pol 4071 4064 == 0 || (decide (polF pol 4047 4032 ≤ polF pol 4063 4048) && polF pol 4031 3904 != 0))

/-- A policy is valid (R381). (DEDUCED, log 44) -/
def policyOk (pol : List Byte) : Bool :=
  polF pol 15 0 == 1 && polF pol 31 16 == 0 && polF pol 175 170 == 0 && polF pol 191 190 == 0 && polF pol 447 416 == 0 &&
  polF pol 4095 4072 == 0 && Config.ecdsaOk ((pol.drop 248).take 96) (pol.take 512) (pol.drop 512) &&
  (Config.unwrapSecret ((pol.drop 344).take 144)).isSome && limitsOk pol

/-- The same tenant key and a greater serial (R381). -/
def replaces (old new : List Byte) : Bool :=
  polF old 2751 1984 == polF new 2751 1984 && decide (polF old 63 32 < polF new 63 32)

/-! ### CREATE -/

/-- The first handle at or after a draw that was never issued. -/
def handleFrom (s : State) : Nat → Nat → Nat
  | 0, v => v % 2 ^ 64
  | n + 1, v => if v % 2 ^ 64 = 0 ∨ s.crucible.usedHandles.contains (v % 2 ^ 64) then handleFrom s n (v + 1) else v % 2 ^ 64

/-- A base for a marver allotment, the same on every die, where the allotments of all owners leave room (R13). -/
def marverRoom (s : State) (own bytes : Nat) : Option Nat :=
  freeRun 0 (2 ^ 26) 128 bytes ((s.owners.filter (fun e => e.1 != own && e.2.live && e.2.marvBytes != 0)).map (fun e =>
    (e.2.marvBase.getD 0 0, e.2.marvBytes)))

/-- Clear an owner's marver on every die, every line present: no owner reads another's bytes (R378). (DESIGN CHOICE, log 66) -/
def State.clearMarver (s : State) (base bytes : Nat) : State :=
  (List.range 4).foldl (fun s d => { s with
    marver := s.marver.fill (marverKey d base) bytes 0
    marvAbs := s.marvAbs.fill (marverKey d base / 128) ((bytes + 127) / 128) false }) s

/-- Whether the lifecycle state admits owners (R376). -/
def lifecycleOwners (l : Lifecycle) : Bool :=
  match l with
  | .production | .debugUnlocked => true
  | _ => false

/-- A new virtual device: STOPPED, with no cores, frames or interfaces (R386); its hart's SRAM and port registers start at 0. (DESIGN CHOICE, log 66) (DEDUCED, log 104) -/
def State.newOwner (s : State) (o base : Nat) (pol cmd : List Byte) : Nat × State :=
  let c := s.crucible
  let h := handleFrom s (c.usedHandles.length + 2) (Config.handleDraw c.drawn)
  let bytes := polF pol 189 183 * 2 ^ 20
  let x : Owner := { (default : Owner) with
    live := true, handle := h, state := .stopped, policy := pol, marvBase := [base, base, base, base], marvBytes := bytes,
    rbase := Config.reserveBase o * 2 ^ 16, memKey := Config.keyDraw (c.drawn + 1),
    secret := (Config.unwrapSecret ((pol.drop 344).take 144)).getD 0,
    nonces := SMap.set [] (Config.sha384 (cmdPub cmd)) (cmdNonce cmd + 1) }
  let s := { s with owners := s.owners.set o x }.setCrucible (fun c =>
    { c with drawn := c.drawn + 2, usedHandles := h :: c.usedHandles })
  (h, s.clearMarver base bytes)

/-- The lowest owner number that is free. -/
def freeOwner (s : State) : Option Nat := (List.range 64).find? (fun o => !(s.owners.get o).live)

/-- CREATE (R383, R384, R386). (DEDUCED, log 35) (DESIGN CHOICE, log 66) (DEDUCED, log 103) -/
def execCreate (cmd : List Byte) (s : State) : Host.Outcome State Fault Refusal :=
  if badRecord cmd then .next (s.answerCmd cmd resBadCmd none)
  else if hostHeld s then .next (s.holdCmd cmd)
  else
    match s.pfRead (cmdArg cmd 0) 608 with
    | (none, s) => .next (s.answerCmd cmd resHostFault none)
    | (some pol, s) =>
      if !policyOk pol then .next (s.answerCmd cmd resDenied none)
      else if !signedOk pol cmd then .next (s.answerCmd cmd resBadSig none)
      else if !bitOf (polF pol 127 64) 1 then .next (s.answerCmd cmd resDenied none)
      else
        match freeOwner s, marverRoom s 64 (polF pol 189 183 * 2 ^ 20), lifecycleOwners s.crucible.lifecycle with
        | some o, some base, true =>
          let r := s.newOwner o base pol cmd
          .next (r.2.answerCmd cmd resOk (some r.1))
        | _, _, _ => .next (s.answerCmd cmd resNoRes none)

/-! ### ALLOT: the allotment map and the pinned reserve (R326, R337, R338, R378) -/

/-- Cut bytes into entries. -/
def cutEntries (size : Nat) : Nat → List Byte → List (List Byte)
  | 0, _ => []
  | n + 1, bs => bs.take size :: cutEntries size n (bs.drop size)

/-- A range or window from its entry. -/
def rangeOf (e : Nat × Nat × Nat × Nat × Nat) : FrameRange where
  tier := e.1
  base := e.2.1 * 2 ^ 16
  len := e.2.2.1 * 2 ^ 16
  r := bitOf e.2.2.2.1 0
  w := bitOf e.2.2.2.1 1
  x := bitOf e.2.2.2.1 2
  ifc := e.2.2.2.2

/-- Whether a frame range lies in the memory of its tier (R9). -/
def rangeInMemory (k : FrameRange) : Bool :=
  if k.tier = 0 then
    decide (k.base / 2 ^ 37 < 4) && decide (k.base % 2 ^ 37 + k.len ≤ 96 * 2 ^ 30)
  else decide (2 ^ 40 ≤ k.base) && decide (k.base + k.len ≤ 2 ^ 41)

/-- Whether a core may be granted (R326). -/
def coreFree (s : State) (own : Nat) (c : Nat × Bool) : Bool :=
  let others := s.owners.filter (fun e => e.1 != own && e.2.live)
  decide (c.1 < 2048) && !(s.cores.get c.1).retired && !others.any (fun e => e.2.cores.contains c.1) &&
  (if c.2 then decide ((others.filter (fun e => e.2.shares.contains c.1)).length < 8)
   else !others.any (fun e => e.2.shares.contains c.1))

/-- Whether a range overlaps one that another owner holds. -/
def rangeFree (s : State) (own : Nat) (k : FrameRange) : Bool :=
  rangeInMemory k && !s.owners.any (fun e => e.1 != own && e.2.live && e.2.ranges.any (fun y => rangesOverlap k.base k.len y.base y.len))

/-- No two ranges of a list overlap. -/
def disjointRanges : List FrameRange → Bool
  | [] => true
  | k :: r => r.all (fun y => !rangesOverlap k.base k.len y.base y.len) && disjointRanges r

/-- Bytes of a tier in a list of ranges. -/
def tierBytes (t : Nat) (ks : List FrameRange) : Nat := (ks.filter (fun k => k.tier == t)).foldl (fun n k => n + k.len) 0

/-- LIMIT of an ALLOT by the lengths of its lists alone, before they are read: more entries than the policy's cores and time
shares, or than the ranges and windows of a map (R337, R384). (DEDUCED, log 103) -/
def allotMany (x : Owner) (nc nr : Nat) : Bool := decide (x.pol 143 128 + x.pol 159 144 < nc) || decide (128 < nr)

/-- LIMIT of an ALLOT. -/
def allotOver (x : Owner) (cores : List (Nat × Bool)) (ranges windows : List FrameRange) : Bool :=
  decide (x.pol 143 128 < (cores.filter (fun c => !c.2)).length) || decide (x.pol 159 144 < (cores.filter (·.2)).length) ||
  decide (x.pol 351 320 * 2 ^ 16 < tierBytes 0 ranges) || decide (x.pol 383 352 * 2 ^ 16 < tierBytes 1 ranges) ||
  decide (x.pol 415 384 * 2 ^ 16 < tierBytes 2 windows) || decide (64 < ranges.length) || decide (64 < windows.length)

/-- NORES of an ALLOT. -/
def allotTaken (s : State) (o : Nat) (cores : List (Nat × Bool)) (ranges : List FrameRange) : Bool :=
  cores.any (fun c => !coreFree s o c) || decide ((cores.map (·.1)).eraseDups.length < cores.length) ||
  ranges.any (fun k => !rangeFree s o k) || !disjointRanges ranges

/-- The largest page that fits a place, as its size code. -/
def pageFor (va frame left len : Nat) : Option Nat :=
  [3, 2, 1, 0].find? (fun z =>
    let n := 2 ^ pageBits z
    decide (n ≤ left) && decide (n ≤ len) && va % n == 0 && frame % n == 0)

/-- Pages that cover `left` bytes from `va` by the given stretches of frames, in order: va, frame, size. (DESIGN CHOICE, log 31) -/
def pinPlan : Nat → Nat → Nat → List (Nat × Nat) → Option (List (Nat × Nat × Nat))
  | _, _, 0, _ => some []
  | 0, _, _, _ => none
  | _, _, _, [] => none
  | fuel + 1, va, left, (b, l) :: r =>
    match pageFor va b left l with
    | none => pinPlan fuel va left r
    | some z => (pinPlan fuel (va + 2 ^ pageBits z) (left - 2 ^ pageBits z) ((b + 2 ^ pageBits z, l - 2 ^ pageBits z) :: r)).map
        (fun ps => (va, b, z) :: ps)

/-- The pinned entries of a reserve of `size` bytes in an owner's frames: at most 16 pages (R338). (DESIGN CHOICE, log 31) -/
def pinsFor (o : Nat) (x : Owner) (size : Nat) : Option (List TlbEntry) :=
  let fs := (x.ranges.filter (fun k => k.r && k.w && k.x)).map (fun k => (k.base, k.len))
  match pinPlan (17 + fs.length) x.rbase size fs with
  | none => none
  | some ps =>
    if 16 < ps.length then none
    else some (ps.map (fun p =>
      let tier := if p.2.1 < 2 ^ 39 then 0 else 1
      { owner := o, va := p.1, frame := p.2.1, size := p.2.2, tier := tier, ifc := 0, uc := false, r := true, w := true,
        x := true, pin := true, epoch := 0 }))

/-- The pinned entries that an owner has. (DESIGN CHOICE, log 31) -/
def pinsOf (s : State) (o : Nat) : List TlbEntry := (s.tlb.get (tlbPinned 0)).filter (fun e => e.owner == o)

/-- Install an owner's pinned entries on every die; copies of earlier ones go from every array (R338). (DESIGN CHOICE, log 31) -/
def State.putPins (s : State) (o : Nat) (ps : List TlbEntry) : State :=
  let s := { s with tlb := s.tlb.keys.foldl (fun (m : SMap (List TlbEntry)) k =>
    m.update k (fun es => es.filter (fun e => !(e.owner == o && e.pin)))) s.tlb }
  (List.range 4).foldl (fun s d => { s with tlb := s.tlb.update (tlbPinned d) (fun es => ps ++ es) }) s

/-- What a range or window of the map says. -/
def rangeNumbers (k : FrameRange) : List Nat := [k.tier, k.base / 2 ^ 16, k.len / 2 ^ 16, b2n k.r + 2 * b2n k.w + 4 * b2n k.x, k.ifc]

/-- What an owner's allotment map says: cores, time shares, frame ranges, host windows, the network entry of its policy, and its
marver bytes (R337). -/
def allotNumbers (x : Owner) : List Nat :=
  List.flatten [x.cores.length :: x.cores, x.shares.length :: x.shares, x.ranges.length :: x.ranges.flatMap rangeNumbers,
    x.windows.length :: x.windows.flatMap rangeNumbers, [x.pol 4071 4064, x.pol 4031 3904, x.pol 4047 4032, x.pol 4063 4048, x.marvBytes]]

/-- The Crucible's words of the reserve: RSIZE, ALLOTOFF and the copy of the map (R337, R339). -/
def State.writeGrant (s : State) (o : Nat) : State :=
  let x := s.owners.get o
  if x.rsize = 0 then s
  else
    let s := s.resPutWord o x.rbase x.rsize
    let s := s.resPutWord o (x.rbase + 8) Config.allotOffset
    let img := Config.allotImage (allotNumbers x)
    if Config.allotOffset + img.length ≤ x.rsize then s.resWrite o (x.rbase + Config.allotOffset) img else s

/-- Zeros are written to frames before their grant (R378): every byte of the stretches that a list names. (DEDUCED, log 32) (DEDUCED, log 104) -/
def State.zeroFrames (s : State) (hit : Nat → Bool) : State :=
  { s with mem := s.mem.filter (fun c => !hit c.1), icache := s.icache.filter (fun e => !hit (4 * e.1)) }

def inRanges (ks : List FrameRange) (pa : Nat) : Bool := ks.any (fun k => decide (k.base ≤ pa) && decide (pa < k.base + k.len))

/-- Entries that the map no longer allows go, and what used them fails with REVOKED. -/
def State.dropForbidden (s : State) (o : Nat) : State :=
  let bad := fun (e : TlbEntry) => e.owner == o && !e.pin && !fillAllowed s o e
  let gone := s.tlb.flatMap (fun k => k.2.filter bad)
  if gone = [] then s
  else
    let s' := { s with tlb := s.tlb.keys.foldl (fun (m : SMap (List TlbEntry)) k => m.update k (fun es => es.filter (fun e => !bad e))) s.tlb }
    s'.revokeUses o (fun g => gone.any (fun e => e.covers o (g * 2 ^ 16)))

/-- Whether pinned entries lie in frames that are still the owner's. -/
def pinsHeld (x : Owner) (ps : List TlbEntry) : Bool :=
  !ps.isEmpty && ps.all (fun e => x.ranges.any (fun k => decide (k.base ≤ e.frame) && decide (e.frame + e.bytes ≤ k.base + k.len)))

/-- Pin an owner's reserve if its frames hold it; the pins stay where they are while they still do (R338). (DESIGN CHOICE, log 29) -/
def State.pinReserve (s : State) (o : Nat) : State :=
  let x := s.owners.get o
  let size := x.pol 319 288 * 2 ^ 16
  if pinsHeld x (pinsOf s o) ∧ x.rsize = size then s
  else
    match pinsFor o x size with
    | some ps => (s.putPins o ps).setOwner o (fun x => { x with rsize := size })
    | none => (s.putPins o []).setOwner o (fun x => { x with rsize := 0 })

/-- Give an owner its cores and frames: every byte of a range granted is zeroed, and the reserve is pinned (R338, R378). (DEDUCED, log 32) -/
def State.grant (s : State) (o : Nat) (cores : List (Nat × Bool)) (ranges windows : List FrameRange) : State :=
  let s := s.zeroFrames (inRanges ranges)
  let s := s.setOwner o (fun x => { x with
    cores := (cores.filter (fun c => !c.2)).map (·.1), shares := (cores.filter (·.2)).map (·.1), ranges := ranges, windows := windows })
  ((s.dropForbidden o).pinReserve o).writeGrant o

/-- ALLOT (R326, R337, R378, R386). (DEDUCED, log 103) -/
def execAllot (cmd : List Byte) (s : State) : Host.Outcome State Fault Refusal :=
  withGate s cmd 3 [.stopped, .paused] (fun s o =>
      let nc := cmdArg cmd 1
      let nr := cmdArg cmd 3
      if allotMany (s.owners.get o) nc nr then s.answerCmd cmd resLimit none
      else match s.pfRead (cmdArg cmd 0) (nc * Config.coreEntryBytes) with
      | (none, s) => s.answerCmd cmd resHostFault none
      | (some cb, s) =>
        match s.pfRead (cmdArg cmd 2) (nr * Config.rangeEntryBytes) with
        | (none, s) => s.answerCmd cmd resHostFault none
        | (some rb, s) =>
          let cores := (cutEntries Config.coreEntryBytes nc cb).map Config.coreEntry
          let all := (cutEntries Config.rangeEntryBytes nr rb).map (fun e => rangeOf (Config.rangeEntry e))
          let ranges := all.filter (fun k => decide (k.tier < 2))
          let windows := all.filter (fun k => decide (2 ≤ k.tier))
          if allotOver (s.owners.get o) cores ranges windows then s.answerCmd cmd resLimit none
          else if allotTaken s o cores ranges then s.answerCmd cmd resNoRes none
          else (s.grant o cores ranges windows).answerCmd cmd resOk (some 0))

/-! ### POLICY -/

/-- POLICY: a replacement policy (R381, R383). Marver that the owner did not have is cleared (R378), and the copy of the map follows
(R337). (DESIGN CHOICE, log 66) -/
def execPolicy (cmd : List Byte) (s : State) : Host.Outcome State Fault Refusal :=
  withGate s cmd 2 notEvicted (fun s o =>
    let x := s.owners.get o
    match s.pfRead (cmdArg cmd 0) 608 with
      | (none, s) => s.answerCmd cmd resHostFault none
      | (some pol, s) =>
        let bytes := polF pol 189 183 * 2 ^ 20
        if !policyOk pol || !replaces x.policy pol then s.answerCmd cmd resDenied none
        else if x.marvBytes < bytes ∧ marverRoom s o bytes ≠ some (x.marvBase.getD 0 0) then s.answerCmd cmd resNoRes none
        else
          let s := s.clearMarver (x.marvBase.getD 0 0 + x.marvBytes) (bytes - x.marvBytes)
          let s := s.setOwner o (fun x => { x with
            policy := pol, marvBytes := bytes, secret := (Config.unwrapSecret ((pol.drop 344).take 144)).getD x.secret })
          (s.writeGrant o).answerCmd cmd resOk (some (polF pol 63 32)))

/-! ### Interfaces (R314, R368) -/

/-- An interface is reset or reassigned: its open page-request indices are orphaned, and launches with accesses waiting
on them end with RESET (R368). An access without a launch, a handler's or a parked write's, is refused. (DESIGN CHOICE, log 107) -/
def State.orphanIfc (s : State) (i : Nat) : State :=
  let waiting := s.ats.filter (fun r => r.ifc == i && r.prg.isSome)
  let ls := (waiting.flatMap (·.waiters)).filterMap (launchOfReq s)
  let s := { s with
    prgs := s.prgs.map (fun e => (e.1, if e.2.open_ ∧ e.2.ifc = i then { e.2 with orphan := true } else e.2))
    ats := s.ats.filter (fun r => !(r.ifc == i && r.prg.isSome)) }
  let s := ls.foldl (fun s l => s.endLaunch l statusReset 0 none) s
  let alone := fun (q : Requester) => (launchOfReq s q).isNone
  let s := waiting.foldl (fun s r => s.hostRefuse { r with waiters := r.waiters.filter alone }) s
  if waiting.any (fun r => r.waiters.contains .parked) then s.replayParked else s

/-- An interface page at assignment (R314). -/
def freshIfc (owner pasid : Nat) (ide : Option Nat) : Ifc := { (default : Ifc) with owner := some owner, pasid := pasid, ide := ide }

/-- Key IDE streams: the selective stream of an interface that is assigned, and the link stream if it has no key yet (R402). (DESIGN CHOICE, log 105) -/
def State.keyIde (s : State) (i : Nat) : State :=
  let n := s.crucible.drawn
  let s := s.setCrucible (fun c => { c with drawn := c.drawn + 2 })
  { s.setIfc i (fun x => { x with ide := some n }) with
    module := { s.module with linkIde := some (s.module.linkIde.getD (n + 1)) } }

/-- Launches that an earlier assignment of an interface submitted belong to its page no longer (R314). -/
def State.forgetIfc (s : State) (i : Nat) : State :=
  { s with launches := s.launches.map (fun e => if e.2.ifc = some i then (e.1, { e.2 with ifc := none }) else e) }

/-- Entries that name an interface no longer the owner's go. -/
def State.dropIfc (s : State) (o i : Nat) : State :=
  { s with tlb := s.tlb.keys.foldl (fun (m : SMap (List TlbEntry)) k =>
    m.update k (fun es => es.filter (fun e => !(e.owner == o && e.tier == 2 && e.ifc == i)))) s.tlb }

/-- ASSIGN (R314, R383, R402). (DEDUCED, log 33) -/
def execAssign (cmd : List Byte) (s : State) : Host.Outcome State Fault Refusal :=
  withGate s cmd 4 notEvicted (fun s o =>
    let i := cmdArg cmd 0
    let x := s.owners.get o
    if 4096 ≤ i ∨ x.pol 207 192 ≤ (x.ifcs.filter (· != i)).length then s.answerCmd cmd resLimit none
    else if (s.ifcs.get i).owner.isSome ∧ (s.ifcs.get i).owner ≠ some o then s.answerCmd cmd resNoRes none
    else
      let s := (s.orphanIfc i).forgetIfc i
      let s := s.setOwner o (fun x => { x with ifcs := if x.ifcs.contains i then x.ifcs else x.ifcs ++ [i] })
      let s := { s with ifcs := s.ifcs.set i (freshIfc o (cmdArg cmd 1 % 2 ^ 20) none) }
      (if Config.policyIde x.policy then s.keyIde i else s).answerCmd cmd resOk (some 0))

/-- Take an interface from its owner. -/
def State.unassign (s : State) (o i : Nat) : State :=
  let s := ((s.orphanIfc i).forgetIfc i).dropIfc o i
  let s := s.setOwner o (fun x => { x with ifcs := x.ifcs.filter (· != i) })
  { s with ifcs := s.ifcs.set i default }

/-- UNASSIGN (R383). An interface that is not the owner's is left alone. (DEDUCED, log 33) -/
def execUnassign (cmd : List Byte) (s : State) : Host.Outcome State Fault Refusal :=
  withGate s cmd 5 notEvicted (fun s o =>
    let i := cmdArg cmd 0
    if 4096 ≤ i ∨ !(s.owners.get o).ifcs.contains i then s.answerCmd cmd resLimit none
    else (s.unassign o i).answerCmd cmd resOk (some 0))

/-! ### Running, pausing, resetting (R385, R386) -/

/-- Whether the frames of an owner hold the reserve of its policy, pinned where it is not pinned yet (R386). -/
def State.holdReserve (s : State) (o : Nat) : Option State :=
  let x := s.owners.get o
  if x.rsize = x.pol 319 288 * 2 ^ 16 then some s
  else if (pinsFor o x (x.pol 319 288 * 2 ^ 16)).isNone then none
  else some ((s.pinReserve o).writeGrant o)

/-- RUN (R386). -/
def execRun (cmd : List Byte) (s : State) : Host.Outcome State Fault Refusal :=
  withGate s cmd 6 [.stopped] (fun s o =>
    let x := s.owners.get o
    if x.cores.isEmpty ∧ x.shares.isEmpty then s.answerCmd cmd resNoRes none
    else
      match s.holdReserve o with
      | none => s.answerCmd cmd resNoRes none
      | some s => (s.setOwner o (fun x => { x with state := .running })).answerCmd cmd resOk (some 0))

/-- A long command begins (R385): RESVAL is 0, but for EVICT's, which is known at its end (R383). (DEDUCED, log 34) -/
def State.beginLong (s : State) (o code : Nat) (cmd : List Byte) : State :=
  (s.setOwner o (fun x => { x with pending := some (code, cmdTag cmd) })).answerCmd cmd resPending (if code = 9 then none else some 0)

/-- Whether the end of a long command can be notified: its write may park once the buffer has room (R404). -/
def longFits (s : State) : Bool := s.crucible.notify == 0 || parkFits s 8

/-- A long command ends: DONELOG, then DONECNT, then the write to NOTIFY (R382, R385). -/
def State.endLong (s : State) (o res : Nat) : State :=
  let x := s.owners.get o
  match x.pending with
  | none => s
  | some (_, tag) =>
    let n := s.crucible.doneCnt + 1
    let ix := (n.toNat + 63) % 64
    let s := s.setCrucible (fun c => { c with
      doneLog := (c.doneLog.set (2 * ix) (BitVec.ofNat 64 x.handle)).set (2 * ix + 1) (BitVec.ofNat 64 (res + tag * 2 ^ 32))
      doneCnt := n })
    let s := s.setOwner o (fun x => { x with pending := none })
    if s.crucible.notify = 0 then s else s.hostPost none pfSpace s.crucible.notify.toNat (leBytes 8 n.toNat)

/-- Stop every resident workgroup of an owner. -/
def State.stopOwner (s : State) (o : Nat) : State :=
  (s.wgs.filter (fun e => e.2.owner == o && e.2.phase == .resident)).foldl (fun s e => s.post (.workgroupStop e.1)) s

/-- PAUSE (R385). -/
def execPause (cmd : List Byte) (s : State) : Host.Outcome State Fault Refusal :=
  withGate s cmd 7 [.running] (fun s o => (s.beginLong o 7 cmd).stopOwner o)

/-- Every workgroup of an owner is saved. (DEDUCED, log 42) -/
def allSaved (s : State) (o : Nat) : Bool := !s.wgs.any (fun e => e.2.owner == o && e.2.phase != .none && e.2.phase != .saved)

/-- The code of an owner's PENDING command. -/
def longCode (s : State) (o : Nat) : Option Nat := ((s.owners.get o).pending).map (·.1)

/-- PAUSE_COMPLETE: every save is written (R385). -/
def execPauseComplete (owner : Nat) (s : State) : Host.Outcome State Fault Refusal :=
  if longCode s owner = some 7 ∧ allSaved s owner ∧ longFits s then
    .next ((s.setOwner owner (fun x => { x with state := .paused })).endLong owner resOk)
  else .next s

/-- Every flow of an owner fails, and what is granted for one goes (R388). -/
def State.failFlows (s : State) (o : Nat) : State :=
  let h := (s.owners.get o).handle
  (s.flows.filter (fun e => e.2.owner == o && e.2.live)).foldl (fun s e => s.failFlow e.1) { s with
    flowAsk := s.flowAsk.filter (fun a => a.handle != h)
    flowGot := s.flowGot.filter (fun g => g.handle != h) }

/-- EVICT (R385). -/
def execEvict (cmd : List Byte) (s : State) : Host.Outcome State Fault Refusal :=
  withGate s cmd 9 [.running, .paused] (fun s o =>
    let s := s.setOwner o (fun x => { x with evictBuf := (cmdArg cmd 0, cmdArg cmd 1) })
    (((s.beginLong o 9 cmd).failFlows o).stopOwner o))

/-- Engine operations of an owner that have not ended. -/
def ownerBusy (s : State) (o : Nat) : Bool :=
  s.xfer.any (fun e => e.2.any (fun x => x.owner == o)) || s.cores.any (fun c => c.2.cube.any (fun x => x.owner == o)) ||
  s.colls.any (fun x => x.owner == o) || s.bsends.any (fun x => x.owner == o) || s.credits.any (fun x => x.owner == o)

/-- Whether a supervisor warp runs an invocation of an owner. -/
def ownerHandles (s : State) (o : Nat) : Bool := s.cores.any (fun c => match c.2.inv with
  | some i => i.owner == o
  | none => false)

/-- The physical offsets of the frames of a list of ranges, in tier order (R379). -/
def frameOffsets (ks : List FrameRange) : List Nat :=
  ((ks.filter (fun k => k.tier == 0)) ++ (ks.filter (fun k => k.tier == 1))).flatMap (fun k =>
    (List.range (k.len / 2 ^ 16)).map (fun i => k.base + i * 2 ^ 16))

/-- Each frame with its physical offset before it (R379). (DEDUCED, log 38) -/
def frameBytesOf (s : State) (ks : List FrameRange) : List Byte :=
  (frameOffsets ks).flatMap (fun pa => leBytes 8 pa ++ s.devBytes pa (2 ^ 16))

def launchCode (x : LaunchState) : Nat :=
  match x with
  | .none => 0 | .accepted => 1 | .waiting => 2 | .queued => 3 | .running => 4 | .ending => 5

/-- The rest of a sealed context (R379): the save frames with their workgroups, every launch not yet ended with its record and
state, the interface bindings and the armed zones. (DEDUCED, log 38) -/
def contextNumbers (s : State) (o : Nat) : List Nat :=
  let x := s.owners.get o
  List.flatten [
    (s.wgs.filter (fun e => e.2.owner == o && e.2.phase == .saved)).flatMap (fun e =>
      [e.1, ((e.2.frame).map (·.1)).getD 0, ((e.2.frame).map (·.2)).getD 0, e.2.launch, e.2.index]),
    (s.launches.filter (fun e => e.2.owner == o && e.2.state != .none)).flatMap (fun e =>
      [e.1, leNat e.2.record, launchCode e.2.state, e.2.seq.toNat, e.2.next, e.2.placed, e.2.wgDone, e.2.ended, e.2.status, e.2.detail]),
    x.ifcs.flatMap (fun i => [i, (s.ifcs.get i).pasid]),
    (x.zones.filter (fun z => z.2.armed)).flatMap (fun z =>
      [z.1, z.2.port, z.2.cls, z.2.daddr, z.2.udpdst, z.2.base, z.2.z, z.2.ctr, z.2.xoff, z.2.xon, z.2.strip, z.2.w, z.2.rd])]

/-- The 64-byte header of a sealed context (R379). -/
def sealHeader (x : Owner) (epoch len : Nat) : List Byte :=
  leBytes 64 (0x4A385343 + x.handle * 2 ^ 32 + x.pol 63 32 * 2 ^ 160 + epoch * 2 ^ 224 + len * 2 ^ 288 + epoch * 2 ^ 352)

/-- Seal an owner's context: header, ciphertext and tag (R379). (DEDUCED, log 38) -/
def sealBlob (s : State) (o epoch : Nat) : List Byte :=
  let x := s.owners.get o
  let plain := Config.allotImage (allotNumbers x) ++ frameBytesOf s x.ranges ++ Config.contextImage (contextNumbers s o)
  let hdr := sealHeader x epoch plain.length
  hdr ++ gcmSeal (Config.sealKey x.secret x.handle) epoch hdr plain

/-- The classes of an owner's zones stop or go on as their zones now hold them (R297, R299). -/
def State.updateClasses (s : State) (o : Nat) : State :=
  (s.owners.get o).zones.foldl (fun (s : State) (z : Nat × Zone) => s.updateClass z.2.port z.2.cls) s

/-- An owner's cores and frames are free; what it holds of them goes. (DEDUCED, log 38) -/
def State.leaveDevice (s : State) (o : Nat) : State :=
  let pins := pinsOf s o
  let s := { s with
    tlb := s.tlb.keys.foldl (fun (m : SMap (List TlbEntry)) k => m.update k (fun es => es.filter (fun e => e.owner != o))) s.tlb
    walks := s.walks.filter (fun r => r.owner != o)
    hostL2 := s.hostL2.filter (fun e => e.2.owner != o) }
  let s := s.setOwner o (fun x => { x with
    state := .evicted, keptCores := x.cores, keptShares := x.shares, keptRanges := x.ranges, keptPins := pins,
    cores := [], shares := [], ranges := [],
    zones := x.zones.map (fun z => (z.1, { z.2 with revoked := true, queue := [] })) })
  s.updateClasses o

/-- An EVICT ends without effect: the owner stays PAUSED (R385). -/
def State.failEvict (s : State) (o res : Nat) : State := (s.setOwner o (fun x => { x with state := .paused })).endLong o res

/-- EVICT_COMPLETE: everything has stopped; the context is sealed and leaves (R385), once the parking buffer has room for it where
the host is lost (R404). (DEDUCED, log 34) (DESIGN CHOICE, log 70) -/
def execEvictComplete (owner : Nat) (s : State) : Host.Outcome State Fault Refusal :=
  if longCode s owner ≠ some 9 ∨ !allSaved s owner ∨ ownerBusy s owner ∨ ownerHandles s owner then .next s
  else
    let t := (s.drainPort (fun p => p.owner == owner)).flushHost owner
    let x := t.owners.get owner
    let blob := sealBlob t owner (x.seals + 1)
    if !parkFits s (dirtyOf s owner + blob.length + 8) then .next s
    else if x.evictBuf.2 < blob.length then finish (t.failEvict owner resLimit)
    else if !hostHeld t ∧ Config.hostFails t.crucible.drawn then
      finish ((t.setCrucible (fun c => { c with drawn := c.drawn + 1 })).failEvict owner resHostFault)
    else
      let s := t.hostPost none pfSpace x.evictBuf.1 blob
      let s := (s.leaveDevice owner).setOwner owner (fun x => { x with epoch := x.seals + 1, seals := x.seals + 1 })
      let s := s.setCrucible (fun c => { c with drawn := c.drawn + 1, resval := BitVec.ofNat 64 blob.length })
      finish (s.endLong owner resOk)

/-! ### RESUME (R385) -/

/-- Cores for an owner that comes back: the one it had, where it is free, else the lowest free one. (DESIGN CHOICE, log 39) -/
def recore (s : State) (o : Nat) (share : Bool) : List Nat → List Nat → Option (List Nat)
  | [], _ => some []
  | c :: r, got =>
    let ok := fun (k : Nat) => coreFree s o (k, share) && !got.contains k
    match (c :: List.range 2048).find? ok with
    | none => none
    | some k => (recore s o share r (got ++ [k])).map (fun ks => k :: ks)

/-- The largest pinned page in a range, whose alignment a new place of the range keeps (R334, R338). -/
def pinAlign (ps : List TlbEntry) (k : FrameRange) : Nat :=
  (ps.filter (fun e => decide (k.base ≤ e.frame) && decide (e.frame < k.base + k.len))).foldl (fun n e => Nat.max n e.bytes) (2 ^ 16)

/-- The first place at or after `v` that lies in its page as `base` does. -/
def samePhase (align base v : Nat) : Nat := v + (base + (align - v % align)) % align

/-- Where a range of frames comes back: its old base where that is free, else the lowest free one of its tier in which its pinned
pages stay aligned. (DESIGN CHOICE, log 39) -/
def rebase (s : State) (o : Nat) (k : FrameRange) (got : List FrameRange) : Option FrameRange :=
  let used := ((s.owners.filter (fun e => e.1 != o && e.2.live)).flatMap (fun e => e.2.ranges)) ++ got
  let starts := (if k.tier = 0 then (List.range 4).map (fun d => d * 2 ^ 37) else [2 ^ 40]) ++ used.map (fun y => y.base + y.len)
  let places := k.base :: starts.map (samePhase (pinAlign (s.owners.get o).keptPins k) k.base)
  let ok := fun b => rangeFree s o { k with base := b } && got.all (fun y => !rangesOverlap b k.len y.base y.len)
  (places.find? ok).map (fun b => { k with base := b })

def rebaseAll (s : State) (o : Nat) : List FrameRange → List FrameRange → Option (List FrameRange)
  | [], got => some got
  | k :: r, got =>
    match rebase s o k got with
    | none => none
    | some y => rebaseAll s o r (got ++ [y])

/-- The place of an old frame in the new ranges. -/
def moveFrame (old new : List FrameRange) (pa : Nat) : Nat :=
  match (old.zip new).find? (fun k => decide (k.1.base ≤ pa) && decide (pa < k.1.base + k.1.len)) with
  | some k => k.2.base + (pa - k.1.base)
  | none => pa

/-- The core that takes an old core's place. -/
def moveCore (old new : List Nat) (c : Nat) : Nat := (new[posIn c old]?).getD c

/-- Allot cores and frames afresh to an evicted owner; none when they are not free. (DESIGN CHOICE, log 39) -/
def State.reallot (s : State) (o : Nat) : Option State :=
  let x := s.owners.get o
  match recore s o false x.keptCores [], rebaseAll s o x.keptRanges [] with
  | some cs, some rs =>
    (recore s o true x.keptShares cs).map (fun ss =>
      let s := s.setOwner o (fun x => { x with cores := cs, shares := ss, ranges := rs })
      { s with wgs := s.wgs.map (fun e =>
          if e.2.owner = o then (e.1, { e.2 with core := moveCore (x.keptCores ++ x.keptShares) (cs ++ ss) e.2.core }) else e) })
  | _, _ => none

/-- The plaintext of a blob whose tag verifies (R379). -/
def blobPlain (x : Owner) (blob : List Byte) : Option (List Byte) :=
  gcmOpen (Config.sealKey x.secret x.handle) (bitsOf (leNat (blob.take 64)) 447 352) (blob.take 64) (blob.drop 64)

/-- Whether a blob is this owner's last (R379). -/
def blobOk (x : Owner) (blob : List Byte) : Bool :=
  let f := fun hi lo => bitsOf (leNat (blob.take 64)) hi lo
  f 31 0 == 0x4A385343 && f 95 32 == x.handle && f 287 224 == x.epoch && (blobPlain x blob).isSome

/-- RESUME (R385, R386). -/
def execResume (cmd : List Byte) (s : State) : Host.Outcome State Fault Refusal :=
  withGate s cmd 8 [.paused, .evicted] (fun s o =>
    if (s.owners.get o).state = .paused then (s.setOwner o (fun x => { x with state := .running })).answerCmd cmd resOk (some 0)
    else
      match s.reallot o with
      | none => s.answerCmd cmd resNoRes none
      | some t =>
        match s.pfRead (cmdArg cmd 0) (cmdArg cmd 1) with
        | (none, s) => s.answerCmd cmd resHostFault none
        | (some blob, s) =>
          if !blobOk (s.owners.get o) blob then s.answerCmd cmd resIntegrity none
          else
            let t := (t.setCrucible (fun c => { c with drawn := c.drawn + 1 })).noTimeout
            (t.setOwner o (fun x => { x with resumeBlob := blob })).beginLong o 8 cmd)

/-- The allotment map of an evicted owner, as it was sealed. -/
def sealedMap (x : Owner) : List Nat :=
  allotNumbers { x with cores := x.keptCores, shares := x.keptShares, ranges := x.keptRanges }

/-- Write the frames of a plaintext into an owner's new frames: each stands after the map, behind its physical offset (R379). (DEDUCED, log 38) -/
def State.unsealFrames (s : State) (o : Nat) (plain : List Byte) : State :=
  let x := s.owners.get o
  let body := plain.drop (Config.allotImage (sealedMap x)).length
  let s := s.zeroFrames (inRanges x.ranges)
  let fs := frameOffsets x.keptRanges
  { s with mem := (fs.zip (List.range fs.length)).foldl (fun (m : Memory) f =>
      SMap.setRange (α := BitVec 8) m (moveFrame x.keptRanges x.ranges f.1) ((body.drop (f.2 * (2 ^ 16 + 8) + 8)).take (2 ^ 16))) s.mem }

/-- RESUME_EVICTED_COMPLETE: the blob is decrypted under a new memory key; zones come back REVOKED (R299, R385), and the copy of the
map is that of the new allotment (R337). -/
def execResumeEvictedComplete (owner : Nat) (s : State) : Host.Outcome State Fault Refusal :=
  if longCode s owner ≠ some 8 ∨ (s.owners.get owner).state ≠ .evicted ∨ !longFits s then .next s
  else
    let x := s.owners.get owner
    let pins := x.keptPins.map (fun e => { e with frame := moveFrame x.keptRanges x.ranges e.frame })
    let s := (s.unsealFrames owner ((blobPlain x x.resumeBlob).getD [])).putPins owner pins
    let s := s.setOwner owner (fun x => { x with
      state := .paused, memKey := Config.keyDraw s.crucible.drawn, keptCores := [], keptShares := [], keptRanges := [],
      keptPins := [], resumeBlob := [],
      zones := x.zones.map (fun z => (z.1, if z.2.armed then { z.2 with revoked := true, status := z.2.status ||| stRevoked } else z.2)) })
    let s := ((s.setCrucible (fun c => { c with drawn := c.drawn + 1 })).updateClasses owner).writeGrant owner
    .next (s.endLong owner resOk)

/-! ### RESET and DESTROY (R385) -/

/-- Every launch of an owner ends with RESET; what an evicted one has away is gone with its frames, and with them the place of its
record (R320, R385). (DEDUCED, log 36) -/
def State.endOwned (s : State) (o : Nat) : State :=
  let s := (s.launches.filter (fun e => e.2.owner == o && e.2.state != .none)).foldl (fun s e => s.endLaunch e.1 statusReset 0 none) s
  if (s.owners.get o).state != .evicted then s
  else
    let s := (s.wgs.filter (fun e => e.2.owner == o && e.2.phase != .none)).foldl (fun s e => s.freeWg e.1) s
    (s.launches.filter (fun e => e.2.owner == o && e.2.state != .none)).foldl (fun s e =>
      s.setLaunch e.1 (fun x => { x with noRecord := true })) s

/-- A RESET begins: launches end, page requests are orphaned, flows fail; a frozen invocation, which no access of the owner will
resume, is discarded. (DEDUCED, log 36) (DEDUCED, log 37) -/
def State.beginReset (s : State) (o : Nat) : State :=
  let s := s.endOwned o
  let s := (s.owners.get o).ifcs.foldl (fun s i => s.orphanIfc i) s
  let s := s.failFlows o
  s.cores.keys.foldl (fun s c => match (s.cores.get c).inv with
    | some i => if i.owner = o ∧ i.frozen then s.discardInv c statusReset else s
    | none => s) s

/-- RESET (R385, R386). (DEDUCED, log 36) -/
def execReset (cmd : List Byte) (s : State) : Host.Outcome State Fault Refusal :=
  withGate s cmd 10 anyState (fun s o => (s.beginLong o 10 cmd).beginReset o)

/-- DESTROY resets first, so it is PENDING as RESET is (R385). (DEDUCED, log 36) -/
def execDestroy (cmd : List Byte) (s : State) : Host.Outcome State Fault Refusal :=
  withGate s cmd 11 anyState (fun s o => (s.beginLong o 11 cmd).beginReset o)

/-- Whether every launch and operation of an owner has ended. -/
def resetDone (s : State) (o : Nat) : Bool := !s.launches.any (fun e => e.2.owner == o && e.2.state != .none) && !ownerBusy s o

/-- Requests, waiters, invocations and mailbox records of an owner go. (DEDUCED, log 37) -/
def State.forgetRequests (s : State) (o : Nat) : State :=
  let s := s.cores.keys.foldl (fun s c => match (s.cores.get c).inv with
    | some i => if i.owner = o then s.closeInv c [] else s
    | none => s) s
  let s := (s.launches.filter (fun e => e.2.owner == o && e.2.state != .none)).foldl (fun s e => s.removeLaunch e.1) s
  let s := { s with
    walks := s.walks.filter (fun r => r.owner != o)
    faults := s.faults.filter (fun f => f.1 / 2 ^ 32 != o)
    held := s.held.filter (fun h => h.owner != o)
    tinvs := s.tinvs.filter (fun q => q.owner != o)
    contribs := s.contribs.filter (fun c => c.owner != o)
    port := s.port.filter (fun p => p.owner != o)
    hostL2 := s.hostL2.filter (fun e => e.2.owner != o) }
  (s.owners.get o).zones.keys.foldl (fun s z => s.freeZone o z) s

/-- An owner is as after CREATE but for its allotment; one that was evicted has an empty one, and no last EPOCH (R385, R386). (DEDUCED, log 37) -/
def State.resetOwner (s : State) (o : Nat) : State :=
  let evicted := (s.owners.get o).state == .evicted
  let s := if evicted then s else (s.drainPort (fun p => p.owner == o)).flushHost o
  let s := s.forgetRequests o
  let s := s.zeroFrames (inRanges (s.owners.get o).ranges)
  let s := s.setOwner o (fun x => { x with
    state := .stopped, memKey := Config.keyDraw s.crucible.drawn, frozen := [], keptCores := [], keptShares := [],
    keptRanges := [], keptPins := [], resumeBlob := [] })
  let s := if evicted then s.setOwner o (fun x => { x with
    cores := [], shares := [], ranges := [], windows := [], rsize := 0, epoch := 0 }) else s
  (s.setCrucible (fun c => { c with drawn := c.drawn + 1 })).writeGrant o

/-- Everything of an owner is freed and its handle is forgotten; a later owner of its number counts its launches from 0 (R316,
R385), and its windows of bench and accumulator are another's, which are cleared before use. (DESIGN CHOICE, log 66) -/
def State.destroyOwner (s : State) (o : Nat) : State :=
  let s := (s.owners.get o).ifcs.foldl (fun s i => s.unassign o i) s
  let s := (List.range 4).foldl (fun s d => s.setDie d (fun x => { x with devSeq := x.devSeq.del o })) s
  let s := s.cores.keys.foldl (fun s c => s.setCore c (fun x => { x with windows := x.windows.filter (fun w => w.2 != o + 1) })) s
  { s with
    tlb := s.tlb.keys.foldl (fun (m : SMap (List TlbEntry)) k => m.update k (fun es => es.filter (fun e => e.owner != o))) s.tlb
    flows := s.flows.filter (fun e => e.2.owner != o)
    sessions := s.sessions.del o
    owners := s.owners.del o }

/-- RESET_COMPLETE (R385). (DEDUCED, log 36) -/
def execResetComplete (owner : Nat) (s : State) : Host.Outcome State Fault Refusal :=
  if longCode s owner ≠ some 10 ∧ longCode s owner ≠ some 11 then .next s
  else if !resetDone s owner then .next (s.endOwned owner)
  else if !longFits s then .next s
  else if longCode s owner = some 10 then finish ((s.resetOwner owner).endLong owner resOk)
  else finish (((s.resetOwner owner).endLong owner resOk).destroyOwner owner)

/-! ### Flows (R388) -/

/-- A time within the window of R388, counted on the timebase (R7). (DEDUCED, log 40) -/
def withinGrant (s : State) (tick : Nat) : Bool := decide (periodsAt s.tick ≤ periodsAt tick + 2 ^ 30)

/-- What this Crucible sends to the peer for a grant of its own: the public key of its ephemeral key, and the signature of its identity
key over it and the two handles (R388). (DEDUCED, log 40) -/
def flowOffer (s : State) (a : FlowAsk) : Option (List Byte × Nat) :=
  let point := Config.publicKey (Config.keyDraw a.eph)
  s.crucible.identity.map (fun k => (point, Config.spdmSign k.priv [leNat point, a.handle, a.peer]))

/-- Whether a grant of a peer is authentic: the identity key of its certificate, which Lythisel has signed, has signed its point and
the two handles (R388). (DEDUCED, log 40) -/
def grantSigned (handle peer : Nat) (cert point sig : List Byte) : Bool :=
  match Config.certKey cert with
  | some k => Config.ecdsaOk k (point ++ leBytes 8 peer ++ leBytes 8 handle) sig
  | none => false

/-- Whether two grants match, each within the window of the other: the handles agree, and the peer's is from the device that the
certificate names (R388). (DEDUCED, log 40) -/
def grantsMatch (s : State) (a : FlowAsk) (g : FlowGrant) : Bool :=
  a.handle == g.handle && a.peer == g.peer && Config.certKey a.cert == Config.certKey g.cert && withinGrant s a.tick && withinGrant s g.tick

/-- A flow becomes live under the key that the two Crucibles agree by ECDH (R388). (DEDUCED, log 40) -/
def State.openFlow (s : State) (o : Nat) (a : FlowAsk) (point : List Byte) : State :=
  let k := ((List.range (s.flows.length + 1)).find? (fun i => !(s.flows.get i).live)).getD 0
  let f : Flow := { (default : Flow) with
    live := true, owner := o, peer := a.peer, key := a.key, secret := Config.ecdh (Config.keyDraw a.eph) point,
    side := Config.flowSide a.key, rate := 2 ^ 20 }
  { s with flows := s.flows.set k f }

/-- FLOW: the handle's side is granted to the device that the certificate names; the flow opens once the peer's grant is there too
(R388). (DEDUCED, log 40) -/
def execFlow (cmd : List Byte) (s : State) : Host.Outcome State Fault Refusal :=
  withGate s cmd 12 notEvicted (fun s o =>
      match s.pfRead (cmdArg cmd 0) Config.certBytes with
      | (none, s) => s.answerCmd cmd resHostFault none
      | (some cert, s) =>
        let n := s.crucible.drawn
        let a : FlowAsk := { handle := cmdHandle cmd, peer := cmdArg cmd 1, tick := s.tick, key := Config.flowKeyDraw n, cert := cert, eph := n + 1 }
        let s := s.setCrucible (fun c => { c with drawn := c.drawn + 2 })
        let s := match s.flowGot.find? (grantsMatch s a) with
          | some g => ({ s with flowGot := s.flowGot.erase g }).openFlow o a g.point
          | none => { s with flowAsk := s.flowAsk ++ [a] }
        s.answerCmd cmd resOk (some a.key))

/-- FLOW_PEER_GRANT: the peer's Crucible has sent its matching grant; one that is not authentic is dropped (R388). (DEDUCED, log 40) -/
def execFlowPeerGrant (handle : Nat) (grant : PeerGrant) (s : State) : Host.Outcome State Fault Refusal :=
  match ownerOf s handle with
  | none => .next s
  | some o =>
    let g : FlowGrant := { handle := handle, peer := grant.peer, tick := s.tick, cert := grant.cert, point := grant.point }
    if !grantSigned handle grant.peer grant.cert grant.point grant.sig then .next s
    else
      match s.flowAsk.find? (fun a => grantsMatch s a g) with
      | some a => .next (({ s with flowAsk := s.flowAsk.erase a }).openFlow o a grant.point)
      | none => .next { s with flowGot := s.flowGot ++ [g] }

/-- FLOW_GRANT_TIMEOUT: grants of a handle whose window has passed without the matching one go (R388). -/
def execFlowGrantTimeout (handle : Nat) (s : State) : Host.Outcome State Fault Refusal :=
  .next { s with
    flowAsk := s.flowAsk.filter (fun a => a.handle != handle || withinGrant s a.tick)
    flowGot := s.flowGot.filter (fun g => g.handle != handle || withinGrant s g.tick) }

/-! ### Attestation and firmware (R389, R390) -/

def devCode (d : DevState) : Nat :=
  match d with
  | .none => 0 | .stopped => 1 | .running => 2 | .paused => 3 | .evicted => 4
def lifecycleCode (l : Lifecycle) : Nat :=
  match l with
  | .manufacturing => 0 | .production => 1 | .debugUnlocked => 2 | .decommissioned => 3

/-- What a measurement index reports (R389): ROM version, each firmware stage's hash and security version, module configuration, lifecycle. -/
def measurement (s : State) (index : Nat) : List Nat :=
  match index with
  | 1 => [Config.romVersion]
  | 2 => s.crucible.stages.flatMap (fun x => [Config.sha384 x.body, x.version])
  | 3 => s.ports.flatMap (fun e => [e.1, e.2.speed, e.2.prtb, e.2.kdtClass, e.2.udpPort]) ++ s.crucible.mgmtKeys ++
      s.module.plan.map BitVec.toNat
  | 4 => [lifecycleCode s.crucible.lifecycle]
  | _ => []

/-- The device identity key that a boot derives: absent before production and destroyed by decommissioning (R376, R377). -/
def identityOf (l : Lifecycle) (unique : Nat) : Option IdKey :=
  match l with
  | .production | .debugUnlocked => some (deriveIdentity unique)
  | .manufacturing | .decommissioned => none

/-- Whether a management request is heard: over the network its key must hash to a management-key hash (R403). (DEDUCED, log 102) -/
def State.hears (s : State) (path : MgmtPath) : Bool :=
  match path with
  | .network key => key != 0 && s.crucible.mgmtKeys.contains key
  | .sideband | .host => true

/-- Answer a management request. -/
def State.report (s : State) (xs : List Nat) : State := s.setCrucible (fun c => { c with answer := xs, answerSig := none })

/-- Answer over SPDM, signed with the device identity key where there is one (R376, R389). (DEDUCED, log 102) -/
def State.attest (s : State) (xs : List Nat) : State :=
  s.setCrucible (fun c => { c with answer := xs, answerSig := c.identity.map (fun k => Config.spdmSign k.priv xs) })

/-- SPDM_REQUEST: a measurement request, signed with the device identity key (R389, R403). -/
def execSpdmRequest (path : MgmtPath) (index : Nat) (s : State) : Host.Outcome State Fault Refusal :=
  if s.hears path then .next (s.attest (measurement s index)) else .next s

/-- SPDM_HANDLE_QUERY: SERIAL, the hash of the policy body, state, PENDING command and EPOCH of a handle (R386, R389, R403). -/
def execSpdmHandleQuery (path : MgmtPath) (handle : Nat) (s : State) : Host.Outcome State Fault Refusal :=
  let a := match ownerOf s handle with
    | none => []
    | some o =>
      let x := s.owners.get o
      [x.pol 63 32, Config.sha384 (x.policy.take 512), devCode x.state, (longCode s o).getD 0, x.epoch]
  if s.hears path then .next (s.attest a) else .next s

/-- Whether a stage of firmware may run: its key hashes to the fused hash, its signature verifies under it, and its security version
is not below the fused minimum (R375). -/
def stageOk (c : Crucible) (x : FwStage) : Bool :=
  Config.sha384 x.key == c.fwKeyHash && Config.ecdsaOk x.key (x.body ++ leBytes 8 x.version) x.sig && decide (c.minVer ≤ x.version)

/-- The stages of an image. (DESIGN CHOICE, log 28) -/
def imageStages (image : List Byte) : List FwStage :=
  (Config.firmwareStages image).map (fun x => { key := x.1, body := x.2.1, sig := x.2.2.1, version := x.2.2.2 })

/-- FIRMWARE_UPDATE: an image whose every stage verifies is staged until the next module reset (R390, R403). -/
def execFirmwareUpdate (path : MgmtPath) (image : List Byte) (s : State) : Host.Outcome State Fault Refusal :=
  let xs := imageStages image
  if s.hears path ∧ xs ≠ [] ∧ xs.all (stageOk s.crucible) then .next (s.setCrucible (fun c => { c with staged := some xs })) else .next s

/-! ### Register writes of the host (R314, R382) -/

/-- Bytes of a register that a write at an offset covers. -/
def patchWord (old : Word) (reg offset : Nat) (bs : List Byte) : Word :=
  BitVec.ofNat 64 (leNat ((List.range 8).map (fun i =>
    if offset ≤ reg + i ∧ reg + i < offset + bs.length then bs.getD (reg + i - offset) 0
    else BitVec.ofNat 8 (old.toNat / 2 ^ (8 * i)))))

/-- Whether a write touches a field. -/
def touchesField (offset n at_ len : Nat) : Bool := rangesOverlap offset n at_ len

/-- The event that a command code stands for (R383). -/
def commandEvent (cmd : List Byte) : Option Instr :=
  match cmdF cmd 7 0 with
  | 1 => some (.create cmd) | 2 => some (.policy cmd) | 3 => some (.allot cmd) | 4 => some (.assign cmd)
  | 5 => some (.unassign cmd) | 6 => some (.run cmd) | 7 => some (.pause cmd) | 8 => some (.resume cmd)
  | 9 => some (.evict cmd) | 10 => some (.reset cmd) | 11 => some (.destroy cmd) | 12 => some (.flow cmd)
  | _ => none

/-- The doorbell submits CMDREC unless a record is being checked. An unassigned code answers BADCMD. -/
def State.doorbell (s : State) : State :=
  if s.crucible.busy then s
  else
    let cmd := s.crucible.cmdrec.getRange 0 256
    match commandEvent cmd with
    | none => s.answerCmd cmd resBadCmd none
    | some e => (s.setCrucible (fun c => { c with busy := true })).post e

/-- A write to the Crucible's command window (R382). -/
def State.windowWrite (s : State) (offset : Nat) (bs : List Byte) : State :=
  let n := bs.length
  let s := s.setCrucible (fun c => { c with
    cmdrec := (bs.zip (List.range n)).foldl (fun (m : SMap Byte) b => if offset + b.2 < 256 then m.set (offset + b.2) b.1 else m) c.cmdrec
    notify := patchWord c.notify 0x128 offset bs })
  if touchesField offset n 0x100 8 then s.doorbell else s

/-- A write to an interface's page (R314). One to SUBMIT that is no submission counts an error (R315). -/
def State.pageWrite (s : State) (ifc pasid offset : Nat) (bs : List Byte) : State :=
  let n := bs.length
  let x := s.ifcs.get ifc
  if touchesField offset n 0 128 then
    s.setIfc ifc (fun x => { x with errCnt := x.errCnt + 1, answer := 0 })
  else if x.owner.isNone ∨ pasid ≠ x.pasid then s
  else if offset = 0xC0 ∧ n = 8 then s.post (.cancel ifc pasid (BitVec.ofNat 64 (leNat bs)))
  else if touchesField offset n 0x80 8 then s.setIfc ifc (fun x => { x with naddr := patchWord x.naddr 0x80 offset bs })
  else s

/-- Whether a path carries command records: the host's always, the others during host loss (R403). -/
def takesRecords (s : State) (path : MgmtPath) : Bool :=
  match path with
  | .host => true
  | .sideband | .network _ => s.module.hostLost && s.hears path

/-- REGISTER_WRITE (R314, R382, R403). -/
def execRegisterWrite (target : HostTarget) (offset : Nat) (bytes : List Byte) (s : State) : Host.Outcome State Fault Refusal :=
  match target with
  | .ifcPage ifc pasid => .next (s.pageWrite ifc pasid offset bytes)
  | .commandWindow path => if takesRecords s path then .next (s.windowWrite offset bytes) else .next s

/-! ### Register reads of the host (R314, R382): they change nothing, so they are functions of the state -/

/-- A byte that a process reads of its interface's page (R314); a write-only field is no readable byte. -/
def State.pageRead (s : State) (ifc offset : Nat) : Option Byte :=
  let x := s.ifcs.get ifc
  let at_ := fun (n v base : Nat) => some ((leBytes n v).getD (offset - base) 0)
  if offset < 0x080 ∨ 0x0C0 ≤ offset ∧ offset < 0x0C8 then none
  else if offset < 0x088 then at_ 8 x.naddr.toNat 0x080
  else if offset < 0x090 then at_ 8 (seqNext s ifc).toNat 0x088
  else if offset < 0x094 then at_ 4 x.inflight 0x090
  else if offset < 0x098 then at_ 4 x.retryCnt.toNat 0x094
  else if offset < 0x09C then at_ 4 x.errCnt.toNat 0x098
  else if 0x0A0 ≤ offset ∧ offset < 0x0A8 then at_ 8 x.lastErr.toNat 0x0A0
  else some 0

/-- A byte that the host reads of the Crucible's window (R382); a field that is only written is no readable byte. -/
def State.windowRead (s : State) (offset : Nat) : Option Byte :=
  let c := s.crucible
  let at_ := fun (v base : Nat) => some ((leBytes 8 v).getD (offset - base) 0)
  if offset < 0x108 then none
  else if offset < 0x110 then at_ c.result.toNat 0x108
  else if offset < 0x118 then at_ c.resval.toNat 0x110
  else if offset < 0x120 then at_ (if c.busy then 1 else 0) 0x118
  else if offset < 0x128 then at_ c.doneCnt.toNat 0x120
  else if offset < 0x130 then at_ c.notify.toNat 0x128
  else if 0x200 ≤ offset ∧ offset < 0x600 then
    at_ (c.doneLog.get ((offset - 0x200) / 8)).toNat (0x200 + (offset - 0x200) / 8 * 8)
  else some 0

end Sys2Proof.Machine
end

