-- ==== Sys2Proof/Machine/Sched.lean ====
section
/-! DEFINITION. What a step runs: instruction fetch (R63, R64), illegal encodings (R79, R80), the bundler (R35–R39), the ends
of waits (R56), the internal events that may come about, and what issue adds around an instruction (R60, R363, R408–R410). -/

namespace Sys2Proof.Machine

/-! ### Instruction fetch (R63, R64) -/

/-- What a fetch comes to. -/
inductive Fetched
  | code (s : State) (bs : List Byte)
  | hold (s : State)
  | fault (rs : List Raise)

/-- The tick from which an owner's code stores may still be unseen: the launch's acceptance, or the handler's entry. (DEDUCED, log 8) -/
def codeSince (s : State) (w : Nat) : Nat :=
  if isSup w then invStart s (coreOf w) else (s.launches.get (s.launchOf w)).accepted

/-- The contents of a device word that a fetch of a warp may see: the newest, and older ones that stores replaced since
its launch was accepted. -/
def codeWords (s : State) (w k : Nat) : List Nat :=
  s.devWord k :: ((s.icache.get k).filter (fun o => decide (codeSince s w ≤ o.1))).map (·.2)

/-- Fetch the word at a place: old or new contents, when a store has changed it (R64). -/
def fetchAt (s : State) (w : Nat) (l : Loc) : List Byte × State :=
  match l with
  | .dev pa =>
    (match codeWords s w (pa / 4) with
     | [] => (s.devBytes pa 4, s.touch pa 4)
     | [x] => (leBytes 4 x, s.touch pa 4)
     | x :: r =>
       let i := Config.fetchChoice s.fresh % (r.length + 1)
       (leBytes 4 ((x :: r).getD i x), { s.touch pa 4 with fresh := s.fresh + 1 }))
  | l => s.readLoc (s.warp w).owner l 4

/-- Fetch one word for the issuing lanes; an address beyond 56 bits has no translation. (DEDUCED, log 8) (DEDUCED, log 72) -/
def fetchWord (s : State) (w : Nat) (lanes : List Nat) (va : Nat) : Fetched :=
  if 2 ^ 56 ≤ va then .fault (lanes.map (fun l => { lane := l, bit := causeTranslate, addr := va }))
  else
    match translation s w .global .exec (lanes.map (fun l => (l, va))) with
    | .hold t => .hold t
    | .trap rs => .fault rs
    | .ok t gs =>
      match gs with
      | [] => .hold t
      | g :: _ => let r := fetchAt t w g.loc; .code r.2 r.1

/-- Fetch the words that follow the first, in order. -/
def fetchRest (w : Nat) (lanes : List Nat) (pc : Nat) : Nat → Nat → Fetched → Fetched
  | 0, _, r => r
  | n + 1, k, r =>
    match r with
    | .code s bs =>
      (match fetchWord s w lanes (pc + 4 * k) with
       | .code t cs => fetchRest w lanes pc n (k + 1) (.code t (bs ++ cs))
       | x => x)
    | x => x

/-- Fetch every word of the instruction at the focus. (DEDUCED, log 81) -/
def fetch (s : State) : Fetched :=
  let w := s.cur.warp
  let lanes := issuing s
  let pc := s.cur.pc.toNat
  match fetchWord s w lanes pc with
  | .code t bs => fetchRest w lanes pc (lengthOf (bs.headD 0).toNat / 4 - 1) 1 (.code t bs)
  | x => x

/-- INSTRUCTION_FETCH: a fetch that has no translation waits for one, or raises TRANSLATE at the instruction (R64). (DEDUCED, log 81) -/
def execInstructionFetch (s : State) : Host.Outcome State Fault Refusal :=
  if issuing s = [] ∨ (s.warp s.cur.warp).held then .next s
  else
    match fetch s with
    | .code t _ => finish t
    | .hold t => finish t
    | .fault rs => .next (s.raise s.cur.warp rs)

/-- ILLEGAL_ENCODING: the bytes at the focus are no instruction; every thread that would issue raises ILLEGAL whatever its
guard (R79, R80). -/
def execIllegalEncoding (s : State) : Host.Outcome State Fault Refusal :=
  if issuing s = [] ∨ (s.warp s.cur.warp).held then .next s
  else .next (s.raise s.cur.warp (raiseAll causeIllegal (issuing s)))

/-! ### The ends of waits (R56) -/

/-- Whether the counter at an address meets a wait's target, or its page is no longer at hand. -/
def counterDue (s : State) (w addr target : Nat) : Bool :=
  match quietLoc s (dieOf w) (s.warp w).owner addr .read with
  | none => true
  | some l => (counterTest (s.readLoc (s.warp w).owner l 16).1 target).1

/-- What the thread of a warp waits for has come about. (DEDUCED, log 7) -/
def waitEnds (s : State) (w : Nat) (t : Thread) : Bool :=
  match t.wait with
  | .scoreboard m => (t.slots.toNat &&& m) == 0
  | .barrier set e ph => (match waitKey s w set e with
    | some k => (s.bars.get k).phase != ph
    | none => true)
  | .counter a target => counterDue s w a target
  | .presence marver lines => lines.all (fun k => if marver then !s.marvAbs.get k else !s.benchAbs.get k)
  | .monitor => mwaitDone t
  | .formation => true
  | _ => false

/-- A thread goes back into the ready set; a barrier wait keeps the phase it stood on (R167). -/
def Thread.wake (t : Thread) (tick : Nat) : Thread :=
  match t.wait with
  | .barrier set e ph => { t with wait := .ready, since := tick, urgent := false, awaited := some { set := set, entry := e, phase := ph } }
  | _ => { t with wait := .ready, since := tick, urgent := false }

/-- Live warps of a quad, the supervisor warp among them. -/
def warpsOnQuad (s : State) (quad : Nat) : List Nat := s.warps.keys.filter (fun w => quadOf w == quad && (s.warp w).live)

/-- End the waits of a quad that are over. (DEDUCED, log 7) -/
def State.pollQuad (s : State) (quad : Nat) : State :=
  (warpsOnQuad s quad).foldl (fun s w =>
    let ls := (s.liveLanes w).filter (fun l => waitEnds s w (s.thread w l))
    s.onLanes w ls (fun _ t => t.wake s.tick)) s

/-! ### The bundler (R35–R39) -/

/-- Whether a warp may issue: it is not stopped or on its way into its handler, and no freeze holds it (R196, R365). -/
def mayIssue (s : State) (w : Nat) : Bool :=
  !(s.warp w).held && !isFrozen s (s.warp w).owner (dieOf w) && !(isSup w && invFrozen s (coreOf w))

/-- A ready thread: its key, warp, lane, and the thread. -/
structure Ready where
  warp : Nat
  lane : Nat
  t    : Thread

/-- A thread of the supervisor warp stands with others of its bundle until their slots are clear (R37, R373). (DEDUCED, log 12) -/
def supStays (s : State) (w l : Nat) : Bool :=
  isSup w && (s.liveLanes w).any (fun k => (s.thread w k).pc == (s.thread w l).pc && (match (s.thread w k).wait with
    | .scoreboard _ => true
    | _ => false))

/-- Ready threads of warps that a condition names, the oldest first, urgent ones before all (R39). Where the supervisor warp had the
last issue slot of its quad, it stands back for the others (R39, R342). -/
def readyThreads (s : State) (quad : Nat) (c : Nat → Bool) : List Ready :=
  let all := ((warpsOnQuad s quad).filter c).flatMap (fun w =>
    ((s.liveLanes w).filter (fun l => (s.thread w l).wait = .ready && !supStays s w l)).map (fun l =>
      ({ warp := w, lane := l, t := s.thread w l } : Ready)))
  let others := if quad % 4 == 0 && (s.cores.get (quad / 4)).supLast then all.filter (fun r => !isSup r.warp) else []
  (if others.isEmpty then all else others).mergeSort (fun a b =>
    if a.t.urgent = b.t.urgent then decide (a.t.since ≤ b.t.since) else a.t.urgent)

/-- The entry of the PC table that a program counter hashes to (R35). -/
def pcHash (pc : Nat) : Nat := bitsOf pc 7 2 ^^^ bitsOf pc 13 8 ^^^ bitsOf pc 19 14

/-- A bundle: its program counter and its members. -/
structure Bundle where
  pc : Word
  ms : List (Nat × Nat)   -- warp and lane

/-- Put a thread into the first bundle of its program counter that has its lane free, or start one. -/
def joinBundle (r : Ready) : List Bundle → List Bundle
  | [] => [{ pc := r.t.pc, ms := [(r.warp, r.lane)] }]
  | b :: bs =>
    if b.pc = r.t.pc ∧ !(b.ms.any (fun m => m.2 == r.lane)) then { b with ms := b.ms ++ [(r.warp, r.lane)] } :: bs
    else b :: joinBundle r bs

/-- Whether a program counter's table entry is taken by another. -/
def pcTaken (bs : List Bundle) (pc : Word) : Bool := bs.any (fun b => b.pc != pc && pcHash b.pc.toNat == pcHash pc.toNat)

/-- Cut ready threads, oldest first, into bundles; threads whose table entry is taken wait (R35). -/
def bundles (rs : List Ready) : List Bundle :=
  rs.foldl (fun bs r => if pcTaken bs r.t.pc then bs else joinBundle r bs) []

/-- The parts of a bundle, one per warp, its lanes in increasing order. (DEDUCED, log 80) -/
def Bundle.parts (b : Bundle) : List Focus :=
  let ws := (b.ms.map (·.1)).eraseDups
  (ws.zip (List.range ws.length)).map (fun w =>
    { warp := w.1, pc := b.pc, lanes := lanes32.filter (fun l => b.ms.contains (w.1, l)), lead := w.2 == 0 })

/-- BUNDLE_FORMATION: waits that are over end, and the quad's ready threads are cut into bundles, which issue in the order
of their oldest threads (R35, R36, R39, R56). (DEDUCED, log 7) -/
def execBundleFormation (quad : Nat) (s : State) : Host.Outcome State Fault Refusal :=
  let s := s.pollQuad quad
  .next { s with issueQ := s.issueQ ++ (bundles (readyThreads s quad (mayIssue s))).flatMap Bundle.parts }

/-- The oldest ready thread of a quad, once waits that are over have ended. -/
def oldestOf (s : State) (quad : Nat) : Option Ready := (readyThreads (s.pollQuad quad) quad (mayIssue s)).head?

/-- Quads with a live warp. -/
def liveQuads (s : State) : List Nat := ((s.warps.filter (fun e => e.2.live)).map (fun e => quadOf e.1)).eraseDups

/-- The quad whose oldest thread has been ready longest. -/
def nextQuad (s : State) : Option Nat :=
  let xs := (liveQuads s).filterMap (fun q => (oldestOf s q).map (fun r => (r.t.since, q)))
  (xs.foldl (fun (best : Option (Nat × Nat)) x => match best with
    | none => some x
    | some b => if x.1 < b.1 then some x else some b) none).map (·.2)

/-! ### Internal events that may come about -/

/-- Events that complete what has been started. A step takes one of them when it changes the state. -/
def candidates (s : State) : List Instr :=
  List.flatten [
  (s.warps.keys.filter (trapDue s)).map .trapEntry,
  s.pending.flatMap (fun p => match p.unit with
    | .memory | .bsend => [.memoryAccessComplete p.pid]
    | .divider => [.dividerComplete p.pid]
    | .special => [.specialFunctionComplete p.pid]
    | .conversion => [.conversionComplete p.pid]
    | .tfill => [.tfillComplete p.pid]
    | .lnch => [.lnchAnswer p.pid]
    | _ => []),
  s.port.map (fun p => .memoryAccessComplete p.pid),
  s.wgs.flatMap (fun g => (g.2.savedP.filter (fun p => p.unit == .bsend)).map (fun p => .memoryAccessComplete p.pid)),
  s.xfer.keys.flatMap (fun k => [.transferLineLanded (k / 16) (k % 16), .transferPartComplete (k / 16) (k % 16)]),
  (s.cores.filter (fun c => !c.2.cube.isEmpty)).flatMap (fun c => [.cubePass c.1 [] false, .cubeOpComplete c.1]),
  s.bsends.map (fun b => .bsendDelivery b.id),
  (s.credits.filter (fun c => c.result.isNone)).map (fun c => .barrierCreditDelivery c.id),
  s.colls.map (fun x => .collOpComplete x.op false),
  s.owners.flatMap (fun o => o.2.zones.map (fun z => .zoneCounterAddition o.1 z.1 false)),
  s.tinvs.map (fun q => .tinvComplete q.id),
  (s.owners.flatMap (fun o => ownerCores o.2)).eraseDups.map .handlerInvocation,
  (s.owners.filter (fun o => o.2.live)).map (fun o => .autodispDispatch o.1),
  s.wgs.map (fun g => .workgroupEnd g.1),
  s.launches.flatMap (fun l => [.launchRecordCheck l.1 false, .dependenceCheck l.1 false, .launchEnd l.1]),
  (s.wgs.filter (fun g => g.2.phase == .saved)).flatMap (fun g =>
    (coreOrder s g.2.owner (s.launches.get g.2.launch).home).map (fun c => .workgroupRestore g.1 c)),
  s.launches.map (fun l => .workgroupPlacement l.1),
  ((s.warps.filter (fun e => e.2.live && e.2.stopped)).map (fun e => quadOf e.1)).eraseDups.map .bundleFormation,
  (s.wgs.filter (fun g => g.2.phase == .resident &&
      (longCode s g.2.owner == some 7 || longCode s g.2.owner == some 9 || g.2.dumpHeld))).map
    (fun g => .workgroupStop g.1),
  (s.owners.filter (fun o => o.2.pending.isSome)).flatMap (fun o =>
    [.pauseComplete o.1, .evictComplete o.1, .resumeEvictedComplete o.1, .resetComplete o.1]),
  (s.sessions.filter (fun x => x.2.asked || !x.2.dump.isEmpty || (x.2.out.isEmpty && !x.2.dumped.isEmpty))).map (fun x => .dumpPageCopy (s.owners.get x.1).handle)]

/-- Begin a list at another of its places. -/
def rotate {α : Type} (n : Nat) (xs : List α) : List α :=
  if xs.length = 0 then xs else xs.drop (n % xs.length) ++ xs.take (n % xs.length)

/-- The first internal event that changes the state, traps before all. (DESIGN CHOICE, log 2) -/
def firstEvent (changes : Instr → Bool) (s : State) : Option Instr :=
  let due := (s.warps.keys.filter (trapDue s)).map Instr.trapEntry
  match due.find? changes with
  | some i => some i
  | none => (rotate (s.turn / 2) (candidates s)).find? changes

/-! ### Around an instruction -/

/-- The guard fields of an instruction. -/
def guardFields (i : Instr) : Bool × Nat :=
  match shortForm i, longForm i with
  | some (_, _, f), _ => (f.neg, f.pred.toNat)
  | none, some (_, f) => (f.neg, f.pred.toNat)
  | none, none => (false, 7)

/-- The lanes of the focus that a breakpoint of the owner's session stops: guard-true threads in its mask (R407). -/
def breakLanes (s : State) (i : Instr) : List Nat :=
  let w := s.cur.warp
  let x := s.sessions.get (s.warp w).owner
  let g := guardFields i
  if !x.live || (s.warp w).stepping then []
  else (issuing s).filter (fun l => guardOf s w g.1 g.2 l && x.bps.any (fun b =>
    b.1 == s.cur.pc.toNat && bitOf b.2.1 l && (b.2.2 == 0 || b.2.2 == (s.warp w).vgid)))

/-- The trial that an issue of a warp counts in (R410). -/
def trialOf (s : State) (w : Nat) : Option CausalTrial :=
  let t := (s.dies.get (dieOf w)).trial
  if t.live ∧ t.owner = (s.warp w).owner then some t else none

/-- Whether a trial holds the focus back: it lies outside the range and its quad has not paid the debt (R410). -/
def trialHolds (s : State) : Bool :=
  match trialOf s s.cur.warp with
  | none => false
  | some t =>
    let pc := s.cur.pc.toNat
    !(decide (t.lo ≤ pc) && decide (pc < t.hi)) && decide (t.paid.get (quadOf s.cur.warp) < t.debt)

/-- The parts of the focus's bundle that have not had their turn. -/
def bundleRest (s : State) : List Focus := s.issueQ.takeWhile (fun f => !f.lead)

/-- A held bundle's quad pays for the time it waits, and the bundle goes behind the others (R410). (DESIGN CHOICE, log 49) -/
def State.payTrial (s : State) : State :=
  let q := quadOf s.cur.warp
  let s := s.setDie (dieOf s.cur.warp) (fun d => { d with trial := { d.trial with paid := d.trial.paid.update q (· + 1) } })
  { s with issueQ := s.issueQ.drop (bundleRest s).length ++ s.cur :: bundleRest s }

/-- Count an issue in a trial, once for each bundle (R410). (DESIGN CHOICE, log 49) -/
def State.countTrial (s : State) : State :=
  match trialOf s s.cur.warp with
  | none => s
  | some t =>
    if !s.cur.lead then s
    else
      let pc := s.cur.pc.toNat
      let q := quadOf s.cur.warp
      let t := { t with counts := (t.progress.zip t.counts).map (fun x => if x.1 = pc then x.2 + 1 else x.2) }
      let t := if t.lo ≤ pc ∧ pc < t.hi then
          { t with debt := t.debt + t.delay, issues := t.issues + 1, paid := t.paid.update q (· + t.delay) }
        else t
      s.setDie (dieOf s.cur.warp) (fun d => { d with trial := t })

/-- Whether a thread stands at the focus's instruction and waits for what lets it issue. -/
def standsOut (s t : State) (l : Nat) : Bool :=
  (t.thread s.cur.warp l).live && (t.thread s.cur.warp l).pc == s.cur.pc && (match (t.thread s.cur.warp l).wait with
    | .scoreboard _ | .resource | .translation _ _ | .presence _ _ | .rendezvous => true
    | _ => false)

/-- The lanes in which an instruction has issued, from the states before and after: those of the focus that it has not left waiting
at it, and with them the lanes that stood at the rendezvous which it completes (R38); none of the supervisor warp's where one of
them waits on its scoreboard (R37). (DEDUCED, log 12) -/
def issuedLanes (s t : State) : List Nat :=
  let w := s.cur.warp
  if isSup w ∧ (issuing s).any (fun l => (t.thread w l).pc == s.cur.pc && (match (t.thread w l).wait with
      | .scoreboard _ => true
      | _ => false)) then []
  else
    let ls := (issuing s).filter (fun l => !standsOut s t l)
    if ls = [] then []
    else lanes32.filter (fun l => ls.contains l ||
      ((s.thread w l).live && (s.thread w l).pc == s.cur.pc && (s.thread w l).wait == .rendezvous && !standsOut s t l))

/-- Whose the last issue slot of a core's first quad was (R39). -/
def State.noteSlot (s : State) (w : Nat) : State :=
  if quadOf w % 4 = 0 then s.setCore (coreOf w) (fun c => { c with supLast := isSup w }) else s

/-- A launch's first instruction is noted (R60), a handler's issue is charged (R363), trace and trial take their part
(R409, R410), for the lanes that issue. -/
def State.noteIssue (s : State) (lanes : List Nat) : State :=
  let w := s.cur.warp
  let s := s.trace 0 w (laneMask lanes) s.cur.pc
  let s := s.countTrial.noteSlot w
  if isSup w then s.chargeInv (coreOf w) 1 0
  else if (s.launches.get (s.launchOf w)).started.isSome ∨ s.launchOf w = 0 then s
  else s.setLaunch (s.launchOf w) (fun l => { l with started := some s.tick })

/-- After a debugger's step its warp stops again; a thread that entered a wait reports WAITING, and a cause is first
delivered (R408). -/
def State.endStep (s : State) (w : Nat) : State :=
  if !(s.warp w).stepping ∨ trapDue s w then s
  else
    let waits := s.cur.lanes.any (fun l => (s.thread w l).live && (s.thread w l).wait != .ready)
    let s := s.setWarp w (fun x => { x with stopped := true, stepping := false })
    if waits then { s with sessions := s.sessions.update (s.warp w).owner (fun x => { x with report := 2 }) } else s

/-- Monitors whose tracking entry is displaced now fire (R165). (DESIGN CHOICE, log 85) -/
def State.displaceTracks (s : State) : State :=
  { s with threads := s.threads.map (fun (e : Nat × Thread) =>
      if e.2.monLine.isSome && Config.trackDisplaced s.tick e.1 then (e.1, { e.2 with fired := true }) else e) }

/-- A record that waited for the host is checked once no parked write is left to replay (R404, R405). (DEDUCED, log 41) -/
def State.resumeCmd (s : State) : State :=
  match s.crucible.waiting with
  | none => s
  | some cmd =>
    if hostHeld s then s
    else
      let s := s.setCrucible (fun c => { c with waiting := none })
      match commandEvent cmd with
      | some e => s.post e
      | none => s

/-! ### The debugger's accesses to memory (R407) -/

def State.setSession (s : State) (o : Nat) (f : Session → Session) : State := { s with sessions := s.sessions.update o f }

/-- The die whose translations a debugger's accesses take: a stopped warp's of the owner, else the lowest with a core of it. (DEDUCED, log 50) -/
def debugDie (s : State) (o : Nat) : Nat :=
  match s.warps.find? (fun e => e.2.live && e.2.stopped && e.2.owner == o) with
  | some e => dieOf e.1
  | none => ((ownerCores (s.owners.get o)).foldl Nat.min 2047) / 512

/-- The debugger's access to a byte, as a handler's is: through the owner's translations, checked against locks and not by the race
directory (R188, R407). One that misses or meets a lock waits, and one whose translation is refused is dropped. (DEDUCED, log 50) -/
def State.debugAccess (s : State) (o va : Nat) (write : Option Byte) : State :=
  let a : Acc := if write.isSome then .write else .read
  match xlate s (dieReq s (debugDie s o) o 0 5 (.debug o) a) va with
  | (.refused, t) => t.setSession o (fun y => { y with access := none })
  | (.ok l, t) =>
    if (lockedAt t o .global a false 1 { lane := 0, addr := va, loc := l }).isSome then
      t.setSession o (fun y => { y with access := some (va, write) })
    else
      let t := t.setSession o (fun y => { y with access := none })
      match write with
      | some b => t.perform o 0 l [b]
      | none =>
        let r := t.readLoc o l 1
        r.2.setSession o (fun y => { y with value := BitVec.ofNat 64 (leNat r.1) })
  | (_, t) => t.setSession o (fun y => { y with access := some (va, write) })

/-- Accesses of debuggers that wait try again. (DEDUCED, log 50) -/
def State.pollDebug (s : State) : State :=
  s.sessions.foldl (fun s x => match x.2.access with
    | some a => s.debugAccess x.1 a.1 a.2
    | none => s) s

/-- What every step adds after what it ran: held posts that fit are written (R357), datagrams whose time has come leave (R293),
tracking entries are displaced (R165), what waits for the host or a debugger's translation goes on (R405,
R407), and device time goes on (R7). (DESIGN CHOICE, log 78) -/
def State.settle (s : State) : State :=
  let s := (s.settleHeld s.held.length).sendFlows.displaceTracks.resumeCmd.pollDebug
  { s with tick := s.tick + 1 }

/-- A bundle whose first part did not issue is counted by its next one (R410). -/
def State.passLead (s : State) : State :=
  match s.issueQ with
  | [] => s
  | f :: r => { s with issueQ := { f with lead := f.lead || s.cur.lead } :: r }

/-- Run an instruction at the focus; what accompanies an issue is noted only when it issues in some lane. (DEDUCED, log 80) -/
def issueOnce (run : State → Host.Outcome State Fault Refusal) (s : State) : Host.Outcome State Fault Refusal :=
  match run s with
  | .next t => if issuedLanes s t = [] then .next t.passLead else run (s.noteIssue (issuedLanes s t))
  | r => r

/-! ### What the next step runs -/

/-- Whether a formed part is the supervisor warp's and must leave the slot to another ready thread of its quad (R39, R342). -/
def supSkips (s : State) (w : Nat) : Bool :=
  isSup w && (s.cores.get (coreOf w)).supLast && (readyThreads s (quadOf w) (mayIssue s)).any (fun r => !isSup r.warp)

/-- Parts of bundles that can still issue. Of a bundle whose first part cannot, the next one comes first (R410). -/
def liveParts (s : State) : List Focus :=
  let out := fun (f : Focus) => (issuing { s with cur := f }).isEmpty || !mayIssue s f.warp || supSkips s f.warp
  match s.issueQ.dropWhile out with
  | [] => []
  | f :: r => { f with lead := f.lead || (s.issueQ.takeWhile out).any (·.lead) } :: r

/-- The first part of the focus's bundle that a breakpoint stops: no part of the bundle has any effect before it (R407). (DEDUCED, log 47) -/
def breakPart (s : State) (i : Instr) : Option Focus :=
  (s.cur :: (if s.cur.lead then bundleRest s else [])).find? (fun f => mayIssue s f.warp && !(breakLanes { s with cur := f } i).isEmpty)

/-- What the focus runs: the decoded instruction, or the event that takes its place. -/
def focusRun (s : State) : Instr × State :=
  match fetch s with
  | .code t bs =>
    (match decode bs with
     | .ok (i, _) =>
       (match breakPart t i with
        | some f => (.breakpointMatch f.warp (laneMask (breakLanes { t with cur := f } i)), t)
        | none => (i, t))
     | .error _ => (.illegalEncoding, t))
  | _ => (.instructionFetch, s)

/-- What a step does. -/
inductive Pick
  | run (i : Instr) (s : State)
  | issue (i : Instr) (s : State)  -- for the focus
  | idle (s : State)

/-- Whether the module is stopped: held in reset, or with its clocks off (R375, R412, R418, R420). (DEDUCED, log 54) -/
def haltedModule (s : State) : Bool := s.module.inReset || s.module.clocksOff

/-- Events that a stopped module takes: a reset, the releases and a change of the input; and, where it is held in reset, what
the management paths carry, since they answer there (R375, R403, R412). (DEDUCED, log 54) -/
def takenHalted (s : State) (i : Instr) : Bool :=
  match i with
  | .moduleReset | .thermalRelease _ | .freezeRelease | .undervoltage _ => true
  | .spdmRequest _ _ | .spdmHandleQuery _ _ | .errorLogRead _ | .firmwareUpdate _ _ | .portConfigWrite _ _ _ _ _ _
  | .managementKeyWrite _ _ _ | .clockPlanWrite _ _ | .powerLimitSet _ => s.module.inReset
  | _ => false

/-- The next event of the agenda that may be taken. -/
def nextAgenda (s : State) : Option (Instr × State) :=
  if haltedModule s then
    (s.agenda.find? (takenHalted s)).map (fun i => (i, { s with agenda := s.agenda.erase i }))
  else
    match s.agenda with
    | [] => none
    | i :: r => some (i, { s with agenda := r })

/-- What a step does with the focus: a breakpoint's match is no issue (R407). -/
def pickRun (x : Instr × State) : Pick :=
  match x.1 with
  | .breakpointMatch w ls => .run (.breakpointMatch w ls) x.2
  | i => .issue i x.2

/-- A bundle that is formed issues, unless a trial holds it back. -/
def pickIssue (s : State) : Option Pick :=
  match liveParts s with
  | [] => none
  | f :: r =>
    let s := { s with issueQ := r, cur := f }
    if trialHolds s then some (.idle s.payTrial) else some (pickRun (focusRun s))

/-- Choose between a formation and an internal event, each first in turn. (DESIGN CHOICE, log 2) -/
def pickOther (changes : Instr → Bool) (s : State) : Pick :=
  let form := (nextQuad s).map Instr.bundleFormation
  let ev := firstEvent changes s
  let turn := s.turn
  let s := { s with issueQ := [], turn := turn + 1 }
  match if turn % 2 = 0 then form <|> ev else ev <|> form with
  | some i => .run i s
  | none => .idle s

/-- What the next step does: an event of the agenda, a bundle that issues, or a formation or an internal event. (DESIGN CHOICE, log 2) -/
def pick (changes : Instr → Bool) (s : State) : Pick :=
  match nextAgenda s with
  | some x => .run x.1 x.2
  | none =>
    if haltedModule s then .idle s
    else
      match pickIssue s with
      | some p => p
      | none => pickOther changes s

end Sys2Proof.Machine
end

