-- ==== Sys2Proof/Machine/Debug.lean ====
section
/-! DEFINITION. Debug sessions: opening (R406), breakpoints and the debugger's access to a stopped scope (R407), steps
(R408), samples (R409), causal trials (R410), core dumps (R411) and the freeze pin (R412). -/

namespace Sys2Proof.Machine

/-! ### Sessions (R406) -/

/-- Whether a path may open a session for a requester's key: never the host's, and over the network the key is that of the
secured session (R403). (DEDUCED, log 102) -/
def debugPath (s : State) (p : MgmtPath) (keyHash : Nat) : Bool :=
  match p with
  | .sideband => true
  | .network key => s.hears p && key == keyHash
  | .host => false

/-- SHA-384 of the policy's TKEY (R380). -/
def tenantHash (pol : List Byte) : Nat := Config.sha384 ((pol.drop 248).take 96)

/-- DEBUG_SESSION_OPEN: the tenant's key, or any management requester in the debug-unlocked state (R406). A session with a
dump under way is not replaced. -/
def execDebugSessionOpen (path : MgmtPath) (handle keyHash scope : Nat) (hold : Bool) (bps : List (Nat × Nat × Nat))
    (trace : Option (Nat × Nat)) (s : State) : Host.Outcome State Fault Refusal :=
  match ownerOf s handle with
  | none => .next s
  | some o =>
    let x := s.sessions.get o
    let mayOpen := s.crucible.lifecycle == .debugUnlocked || keyHash == tenantHash (s.owners.get o).policy
    if !debugPath s path keyHash || !mayOpen || x.asked || !x.dump.isEmpty then .next s
    else
      .next { s with sessions := s.sessions.set o { (default : Session) with
        live := true, owner := o, scope := scope, hold := hold, bps := bps, ring := trace.map (fun r => (r.1, r.2, 0)) } }

/-! ### Breakpoints (R407) -/

/-- Whether some of the listed threads stands at a breakpoint of its owner's session (R407). -/
def atBreakpoint (s : State) (w lanes : Nat) : Bool :=
  (s.liveLanes w).any (fun l => bitOf lanes l && (s.sessions.get (s.warp w).owner).bps.any (fun b =>
    b.1 == (s.thread w l).pc.toNat && bitOf b.2.1 l && (b.2.2 == 0 || b.2.2 == (s.warp w).vgid)))

/-- BREAKPOINT_MATCH: the debugger stops the scope before the instruction has any effect; a deliver-mode session posts BREAK
to the owner's handler instead (R406, R407). (DEDUCED, log 47) -/
def execBreakpointMatch (warp lanes : Nat) (s : State) : Host.Outcome State Fault Refusal :=
  let o := (s.warp warp).owner
  if !(s.warp warp).live || !(s.sessions.get o).live || !atBreakpoint s warp lanes then .next s
  else if holdSession s o then .next (s.debugStop warp 3)
  else .next (s.raiseAsync warp causeBreak)

/-! ### Steps (R408) -/

/-- The warp-collective instructions (R38). -/
def warpCollective (i : Instr) : Bool :=
  match i with
  | .shfl _ _ | .bcast _ | .ptestAlike _ | .ptestEvery _ | .ptestSome _ | .pmask _ | .redAdd _ _ | .redMin _ _ | .redMax _ _
  | .redAnd _ | .redOr _ | .redXor _ | .elect _ | .regqImm _ | .regqReg _ | .mtsr _ | .causeclrReg _ | .causeclrLit _
  | .causeclrImm _ | .tret _ | .barSpill _ | .barFill _ | .hret _ => true
  | _ => false

/-- The instruction that a thread stands at, when its bytes are at hand. -/
def standsAt (s : State) (w lane : Nat) : Option Instr :=
  match fetch { s with cur := { warp := w, pc := (s.thread w lane).pc, lanes := [lane], lead := true } } with
  | .code _ bs => (match decode bs with
    | .ok (i, _) => some i
    | .error _ => none)
  | _ => none

/-- What a step issues: nothing because it is blocked, or the parts of a bundle. -/
inductive StepPlan
  | blocked
  | parts (fs : List Focus)

/-- The bundle that a group step forms: the named thread first, then the stopped, ready threads of the scope on its quad
that stand at its PC (R35, R408). -/
def groupBundle (s : State) (w lane : Nat) : List Focus :=
  let pc := (s.thread w lane).pc
  let scope := scopeWarps s w (s.sessions.get (s.warp w).owner).scope
  let rs := (readyThreads s (quadOf w) (fun v => (s.warp v).stopped && scope.contains v)).filter (fun r =>
    r.t.pc == pc && !(r.warp == w && r.lane == lane))
  let named : Ready := { warp := w, lane := lane, t := s.thread w lane }
  match (named :: rs).foldl (fun bs r => joinBundle r bs) [] with
  | b :: _ => b.parts
  | [] => []

/-- Plan a step of one lane; a warp-collective instruction issues the whole warp or not at all. -/
def stepPlan (s : State) (w lane : Nat) (alone : Bool) : StepPlan :=
  let pc := (s.thread w lane).pc
  let live := s.liveLanes w
  let coll := match standsAt s w lane with
    | some i => warpCollective i
    | none => false
  if coll then
    (if live.all (fun l => (s.thread w l).pc == pc && (s.thread w l).wait = .ready) then
      .parts [{ warp := w, pc := pc, lanes := live, lead := true }]
     else .blocked)
  else if alone then .parts [{ warp := w, pc := pc, lanes := [lane], lead := true }]
  else .parts (groupBundle s w lane)

/-- Let the warps of a bundle issue it once. -/
def State.issueStep (s : State) (fs : List Focus) : State :=
  let s := fs.foldl (fun s f => s.setWarp f.warp (fun x => { x with stopped := false, stepping := true })) s
  { s with issueQ := fs ++ s.issueQ }

/-- A step of one lane of a stopped warp: in hold mode the bundle issues, or BLOCKED or WAITING is reported; in deliver mode
STEP is posted to the owner's handler (R406, R408). A warp whose workgroup is being saved is the save's (R206). (DEDUCED, log 26) (DEDUCED, log 47) -/
def State.debugStep (s : State) (w lane : Nat) (alone : Bool) : State :=
  let o := (s.warp w).owner
  if !(s.sessions.get o).live || !(s.warp w).live || decide (32 ≤ lane) || !(s.thread w lane).live then s
  else if !holdSession s o then s.raiseAsync w causeStep
  else if !(s.warp w).stopped || !(isSup w || (s.wg w).phase == .resident) then s
  else if (s.thread w lane).wait ≠ .ready then s.setSession o (fun x => { x with report := 2 })
  else
    match stepPlan s w lane alone with
    | .blocked => s.setSession o (fun x => { x with report := 1 })
    | .parts fs => (s.setSession o (fun x => { x with report := 0 })).issueStep fs

/-- GROUP_STEP (R408). -/
def execGroupStep (warp lane : Nat) (s : State) : Host.Outcome State Fault Refusal := .next (s.debugStep warp lane false)

/-- LANE_EXCLUSIVE_STEP (R408). -/
def execLaneExclusiveStep (warp lane : Nat) (s : State) : Host.Outcome State Fault Refusal :=
  .next (s.debugStep warp lane true)

/-! ### Registers and memory of a stopped scope (R407) -/

/-- What a register number reads: 0–383 v registers, 384–447 w registers, then PC, the thread word, the monitor and WARPW
(R352, R353). (DEDUCED, log 26) -/
def debugRead (s : State) (w lane reg : Nat) : Word :=
  if reg < 384 then (if reg < 32 * (s.warp w).units.length then s.v w lane reg else 0)
  else if reg < 448 then s.wregs.get (wkey w (reg - 384))
  else if reg = 448 then (s.thread w lane).pc
  else if reg = 449 then BitVec.ofNat 64 (threadWord (s.thread w lane))
  else if reg = 450 then (s.thread w lane).monitor
  else if reg = 451 then BitVec.ofNat 64 (warpWord (s.warp w))
  else 0

/-- Registers, predicates and PCs may be written; of the thread word only the predicates are. (DEDUCED, log 26) -/
def State.debugWrite (s : State) (w lane reg : Nat) (x : Word) : State :=
  if reg < 384 then (if reg < 32 * (s.warp w).units.length then s.setV w lane reg x else s)
  else if reg < 448 then s.setW w (reg - 384) x
  else if reg = 448 then s.setThread w lane (fun t => { t with pc := x })
  else if reg = 449 then s.setThread w lane (fun t => { t with preds := BitVec.ofNat 7 x.toNat })
  else s

/-- DEBUG_REGISTER_ACCESS: of a lane of a stopped warp (R407). -/
def execDebugRegisterAccess (warp lane reg : Nat) (write : Option Word) (s : State) : Host.Outcome State Fault Refusal :=
  let o := (s.warp warp).owner
  if !(s.sessions.get o).live || !(s.warp warp).live || !(s.warp warp).stopped || decide (32 ≤ lane) then .next s
  else
    match write with
    | some x => .next (s.debugWrite warp lane reg x)
    | none => .next (s.setSession o (fun y => { y with value := debugRead s warp lane reg }))

/-- DEBUG_MEMORY_ACCESS: a byte of the owner's memory (R407); a new access takes the place of one that waits. (DEDUCED, log 50) -/
def execDebugMemoryAccess (handle va : Nat) (write : Option Byte) (s : State) : Host.Outcome State Fault Refusal :=
  match ownerOf s handle with
  | none => .next s
  | some o =>
    if !(s.sessions.get o).live || decide (2 ^ 56 ≤ va) then .next s
    else finish (((s.dropReqs (· == .debug o)).setSession o (fun y => { y with access := none })).debugAccess o va write)

/-! ### Samples and trials (R409, R410) -/

/-- TRACE_SAMPLE: the oldest ready thread of a quad (R409). (DEDUCED, log 46) -/
def execTraceSample (quad : Nat) (s : State) : Host.Outcome State Fault Refusal :=
  match readyThreads s quad (fun _ => true) with
  | r :: _ => .next (s.trace 1 r.warp (2 ^ r.lane) r.t.pc)
  | [] => .next s

/-- CAUSAL_TRIAL_START (R410): a die runs one trial at a time. -/
def execCausalTrialStart (handle die lo hi delay duration : Nat) (progress : List Nat) (s : State) :
    Host.Outcome State Fault Refusal :=
  match ownerOf s handle with
  | none => .next s
  | some o =>
    if (s.dies.get die).trial.live then .next s
    else
      .next (s.setDie die (fun d => { d with trial := {
        live := true, owner := o, lo := lo, hi := hi, delay := delay, duration := duration, progress := progress,
        start := s.tick, debt := 0, paid := [], issues := 0, counts := progress.map (fun _ => 0) } }))

/-- CAUSAL_TRIAL_END: the duration has passed, and T, D, C and the counts are reported (R410). (DESIGN CHOICE, log 49) -/
def execCausalTrialEnd (die : Nat) (s : State) : Host.Outcome State Fault Refusal :=
  let t := (s.dies.get die).trial
  if !t.live then .next s
  else
    let s := s.setDie die (fun d => { d with trial := default })
    .next (s.report ([t.duration, t.debt, t.issues] ++ t.counts))

/-! ### Core dumps (R411) -/

/-- The dies on which a session has stopped something. -/
def stoppedDies (s : State) (o : Nat) : List Nat :=
  ((s.warps.filter (fun e => e.2.live && e.2.stopped && e.2.owner == o)).map (fun e => dieOf e.1)).eraseDups

/-- The workgroups of a dump's scope: with owner scope every resident one on the die of a stopped warp, else those with a stopped
warp (R406). Where nothing is stopped, owner scope is every die. (DESIGN CHOICE, log 51) -/
def dumpScope (s : State) (o : Nat) : List Nat :=
  let all := s.wgs.filter (fun e => e.2.owner == o && e.2.phase == .resident)
  let ds := stoppedDies s o
  let xs := if (s.sessions.get o).scope = 2 then all.filter (fun e => ds.isEmpty || ds.contains (dieOfCore e.2.core))
    else all.filter (fun e => e.2.warps.any (fun w => (s.warp w).stopped))
  (xs.flatMap (fun e => together s e.1)).eraseDups

/-- The owner's pages, the reserve among them, in address order. -/
def dumpPages (s : State) (o : Nat) : List Nat :=
  ((s.owners.get o).ranges.flatMap (fun k => (List.range (k.len / 2 ^ 16)).map (fun i => k.base + i * 2 ^ 16))).mergeSort
    (fun a b => decide (a ≤ b))

/-- CORE_DUMP: the scope's workgroups stop and are saved, and then every page is dump-pending (R411). (DESIGN CHOICE, log 51) -/
def execCoreDump (handle : Nat) (s : State) : Host.Outcome State Fault Refusal :=
  match ownerOf s handle with
  | none => .next s
  | some o =>
    let x := s.sessions.get o
    if !x.live || x.asked || !x.dump.isEmpty then .next s
    else
      let s := (dumpScope s o).foldl (fun s v => s.setWg v (fun g => { g with dumpHeld := true })) s
      .next (s.setSession o (fun x => { x with asked := true, dumped := [], out := [] }))

/-- Every workgroup that a dump holds is saved. -/
def dumpSaved (s : State) (o : Nat) : Bool := s.wgs.all (fun e => !(e.2.owner == o && e.2.dumpHeld) || e.2.phase == .saved)

/-- The dump as it leaves the device: sealed as a context is, but in the debug-unlocked state (R411). -/
def dumpOut (s : State) (o : Nat) (pages : SMap (List Byte)) : List Byte :=
  let plain := pages.flatMap (·.2)
  let x := s.owners.get o
  if s.crucible.lifecycle = .debugUnlocked then plain
  else
    let hdr := sealHeader x x.epoch plain.length
    hdr ++ gcmSeal (Config.sealKey x.secret x.handle) x.epoch hdr plain

/-- DUMP_PAGE_COPY: the pages become pending once the scope is saved; then the lowest one is copied; after the last the dump
leaves the device (R411). -/
def execDumpPageCopy (handle : Nat) (s : State) : Host.Outcome State Fault Refusal :=
  match ownerOf s handle with
  | none => .next s
  | some o =>
    let x := s.sessions.get o
    if x.asked then
      (if dumpSaved s o then .next (s.setSession o (fun y => { y with asked := false, dump := dumpPages s o })) else .next s)
    else
      match x.dump with
      | [] =>
        if x.out = [] ∧ x.dumped ≠ [] then .next (s.setSession o (fun y => { y with out := dumpOut s o y.dumped })) else .next s
      | p :: _ => .next (s.setSession o (fun y => copyPage s y p))

/-- SESSION_RELEASE: what the session has stopped resumes (R411). (DEDUCED, log 52) -/
def execSessionRelease (handle : Nat) (s : State) : Host.Outcome State Fault Refusal :=
  match ownerOf s handle with
  | none => .next s
  | some o =>
    if !(s.sessions.get o).live then .next s
    else
      let ws := (s.warps.filter (fun e => e.2.live && e.2.owner == o && e.2.stopped &&
        (isSup e.1 || (s.wg e.1).phase == .resident))).map (·.1)
      let s := ws.foldl (fun s w => s.unstop w) s
      let s := { s with wgs := s.wgs.map (fun (e : Nat × Workgroup) =>
        if e.2.owner = o then (e.1, { e.2 with dumpHeld := false }) else e) }
      .next (s.setSession o (fun x => { x with report := 0, asked := false }))

/-! ### The freeze pin (R412) -/

/-- The lifecycle states in which FREEZE acts (R376). -/
def freezeActs (l : Lifecycle) : Bool :=
  match l with
  | .manufacturing | .debugUnlocked => true
  | _ => false

/-- Scan read-out: what it reads is the whole state, and only while the pin holds the clocks (R376, R412). What it destroys is gone by
the module reset without which nothing goes on. (DEDUCED, log 54) -/
def State.scanRead (s : State) : Option State :=
  if freezeActs s.crucible.lifecycle ∧ s.module.freezePin ∧ s.module.clocksOff then some s else none

/-- FREEZE_ASSERT: every clock stops (R412). -/
def execFreezeAssert (s : State) : Host.Outcome State Fault Refusal :=
  if freezeActs s.crucible.lifecycle then .next { s with module := { s.module with clocksOff := true, freezePin := true } }
  else .next s

/-- FREEZE_RELEASE: the module stays stopped until a module reset (R412). -/
def execFreezeRelease (s : State) : Host.Outcome State Fault Refusal :=
  .next { s with module := { s.module with freezePin := false } }

end Sys2Proof.Machine
end

