-- ==== Sys2Proof/Machine/HostLink.lean ====
section
/-! DEFINITION. The host link and management: function-level reset (R402), the loss of the host and its return (R404, R405),
and what the management paths write and read (R403). -/

namespace Sys2Proof.Machine

/-! ### Function-level reset (R402) -/

/-- RESET of an owner without a command record: a command that is PENDING ends first, unless it resets already. -/
def State.flrOwner (s : State) (o : Nat) : State :=
  match longCode s o with
  | some 10 => s
  | some 11 => s
  | some _ => (((s.endLong o resBadState).setOwner o (fun x => { x with pending := some (10, 0) })).beginReset o)
  | none => (s.setOwner o (fun x => { x with pending := some (10, 0) })).beginReset o

/-- FUNCTION_LEVEL_RESET: RESET of every owner; page requests may be sent again (R367, R402). The ends of PENDING commands are
notified, which waits for the parking buffer (R404). -/
def execFunctionLevelReset (s : State) : Host.Outcome State Fault Refusal :=
  if !(s.crucible.notify == 0 || parkFits s (8 * 64)) then .next (s.post .functionLevelReset) else
  let s := ((s.owners.filter (fun e => e.2.live)).map (·.1)).foldl (fun s o => s.flrOwner o) s
  .next (s.setCrucible (fun c => { c with prgEnded := false }))

/-! ### Loss and return (R404, R405) -/

def State.setModule (s : State) (f : Module → Module) : State := { s with module := f s.module }

/-- COMPLETION_TIMEOUT: the third in a row loses the host (R404). -/
def execCompletionTimeout (s : State) : Host.Outcome State Fault Refusal :=
  .next (s.setModule (fun m => { m with timeouts := m.timeouts + 1, hostLost := m.hostLost || decide (3 ≤ m.timeouts + 1) }))

/-- HOST_LOSS: the data link layer has been down for 1 ms (R404). -/
def execHostLoss (s : State) : Host.Outcome State Fault Refusal := .next (s.setModule (fun m => { m with hostLost := true }))

/-- Translations are asked for afresh: the cache is empty, open page-request indices are orphaned, and what waited on them
asks again (R405). -/
def State.dropTranslations (s : State) : State :=
  { s with
    dtc := []
    prgs := s.prgs.map (fun (e : Nat × PrgIndex) => if e.2.open_ then (e.1, { e.2 with orphan := true }) else e)
    ats := s.ats.map (fun (r : AtsReq) => { r with prg := none, denied := false }) }

/-- The IDE streams that were keyed before the loss are keyed again (R402, R405). (DESIGN CHOICE, log 105) -/
def State.rekeyIde (s : State) : State :=
  let n := s.crucible.drawn
  let s := { s with
    ifcs := s.ifcs.map (fun (e : Nat × Ifc) => (e.1, { e.2 with ide := (e.2.ide).map (fun _ => n + 1 + e.1) }))
    module := { s.module with linkIde := (s.module.linkIde).map (fun _ => n) } }
  s.setCrucible (fun c => { c with drawn := c.drawn + 4097 })

/-- HOST_RETURN (R405): IDE streams are keyed again, translations are dropped, parked writes are replayed, then waiting reads go on. (DEDUCED, log 67) -/
def execHostReturn (s : State) : Host.Outcome State Fault Refusal :=
  if !s.module.hostLost then .next s
  else
    let s := (s.setModule (fun m => { m with hostLost := false, timeouts := 0 })).rekeyIde.dropTranslations
    let s := s.replayParked
    let s := if s.module.parked = [] then s.wakeTranslations else s
    .next ((List.range 4).foldl (fun s d => s.wakeResources d) s)

/-! ### Management (R403) -/

/-- The speeds of a port in Gb/s (R1). -/
def portSpeeds : List Nat := [100, 200, 400, 800]

/-- PORT_CONFIG_WRITE: applied at the next module reset (R403). -/
def execPortConfigWrite (path : MgmtPath) (port speed prtb cls udp : Nat) (s : State) : Host.Outcome State Fault Refusal :=
  if path = .host ∨ !s.hears path ∨ !portSpeeds.contains speed ∨ 8 ≤ port then .next s
  else .next { s with ports := s.ports.update port (fun p => { p with nextCfg := some (speed, prtb, cls, udp) }) }

/-- MANAGEMENT_KEY_WRITE: over the side-band only (R403). -/
def execManagementKeyWrite (path : MgmtPath) (index hash : Nat) (s : State) : Host.Outcome State Fault Refusal :=
  if path = .sideband ∧ index < 4 then .next (s.setCrucible (fun c => { c with mgmtKeys := c.mgmtKeys.set index hash }))
  else .next s

/-- ERROR_LOG_READ: the log and the port counters, by the side-band and the network (R403). -/
def execErrorLogRead (path : MgmtPath) (s : State) : Host.Outcome State Fault Refusal :=
  if path = .host ∨ !s.hears path then .next s
  else .next (s.report (s.crucible.errorLog.flatten ++ s.ports.map (fun e => e.2.dropped)))

/-- What the PLDM sensors read: the coolant's inlet and outlet temperature and flow, and the input power, over the side-band and the
network alone (R403, R418). (DESIGN CHOICE, log 101) -/
def State.sensors (s : State) (path : MgmtPath) : Option (List Nat) :=
  let c := Config.coolant s.tick
  if path = .host ∨ !s.hears path then none else some [c.1, c.2.1, c.2.2, s.module.inputPower]

end Sys2Proof.Machine
end

