-- ==== Sys2Proof/Machine/Clocks.lean ====
section
/-! DEFINITION. Clock plans and operating points (R413–R417), power and temperature (R418–R420), module reset and the
lifecycle (R376, R390, R421). -/

namespace Sys2Proof.Machine

/-! ### Clock plans (R415, R416) -/

/-- A field of a plan. -/
def planF (plan : List Byte) (hi lo : Nat) : Nat := bitsOf (leNat plan) hi lo

def pointWord (plan : List Byte) (j : Nat) : Nat := planF plan (64 * j + 127) (64 * j + 64)

def pointCore (plan : List Byte) (j : Nat) : Nat := bitsOf (pointWord plan j) 63 48
def pointMemory (plan : List Byte) (j : Nat) : Nat := bitsOf (pointWord plan j) 47 32
def pointFabric (plan : List Byte) (j : Nat) : Nat := bitsOf (pointWord plan j) 31 16

/-- Points that are used: not all zero. -/
def usedPoints (plan : List Byte) : List Nat := (List.range 8).filter (fun j => pointWord plan j != 0)

/-- The used bands: LO and HI in kHz. -/
def bandsOf (plan : List Byte) : List (Nat × Nat) :=
  ((List.range 32).map (fun i => (planF plan (64 * i + 607) (64 * i + 576), planF plan (64 * i + 639) (64 * i + 608)))).filter
    (fun b => b.2 != 0)

/-- The SerDes reference in tenths of a hertz. -/
def serdesRef (sel : Nat) : Nat := if sel = 0 then 1562500000 else 1611328125

/-- The clocks of a point in tenths of a hertz: core, memory, fabric, SerDes reference (R413). -/
def clocksOf (plan : List Byte) (j : Nat) : List Nat :=
  [pointCore plan j * 10 ^ 7, pointMemory plan j * 10 ^ 7, pointFabric plan j * 10 ^ 7, serdesRef (pointWord plan j % 2)]

/-- Whether a harmonic of a clock meets a band widened by the guard; spread spectrum widens the clock by 0.5 % downward.
The bounds are in kHz, the clock in tenths of a hertz, and both sides are multiplied by 1,000. -/
def harmonicMeets (quiet : Bool) (guard : Nat) (b : Nat × Nat) (f k : Nat) : Bool :=
  let top := k * f * 1000
  let bottom := if quiet then top else k * f * 995
  decide (b.1 * 10 ^ 7 ≤ top + guard * 10 ^ 7) && decide (bottom ≤ (b.2 + guard) * 10 ^ 7)

/-- Every harmonic of every clock of a point lies outside every band (R416). -/
def clearOfBands (plan : List Byte) (j : Nat) : Bool :=
  (clocksOf plan j).all (fun f => (bandsOf plan).all (fun b => (List.range 64).all (fun k =>
    !harmonicMeets (bitOf (leNat plan) 32) (planF plan 31 16) b f (k + 1))))

/-- A point is valid (R416). (DESIGN CHOICE, log 56) -/
def pointValid (plan : List Byte) (j : Nat) : Bool :=
  pointWord plan j != 0 &&
  decide (1200 ≤ pointCore plan j) && decide (pointCore plan j ≤ 2500) &&
  decide (1600 ≤ pointFabric plan j) && decide (pointFabric plan j ≤ 2000) && Config.memoryClockOk (pointMemory plan j) &&
  (usedPoints plan).all (fun i => pointFabric plan i == pointFabric plan j) && clearOfBands plan j

/-- A plan is well formed: its version, and its reserved bits 0 (R415). (DEDUCED, log 55) -/
def planFormed (plan : List Byte) : Bool :=
  planF plan 15 0 == 1 && planF plan 63 33 == 0 && (List.range 8).all (fun j => bitsOf (pointWord plan j) 15 1 == 0)

/-- A plan is accepted (R416). (DEDUCED, log 55) -/
def planOk (plan : List Byte) : Bool := planFormed plan && (List.range 8).any (pointValid plan)

/-- The kind of an error-log entry for a refused plan. -/
def logPlanRefused : Nat := 3

/-- CLOCK_PLAN_WRITE: applied at the next module reset; a refusal is written to the error log (R415, R416). -/
def execClockPlanWrite (path : MgmtPath) (plan : List Byte) (s : State) : Host.Outcome State Fault Refusal :=
  if path = .host ∨ !s.hears path then .next s
  else if planOk plan then .next (s.setModule (fun m => { m with nextPlan := some plan }))
  else .next (s.setCrucible (fun c => { c with errorLog := c.errorLog ++ [[logPlanRefused]] }))

/-! ### Operating points (R417, R419, R420) -/

/-- POWER_LIMIT_SET: 1,200 to 2,800 W (R419). -/
def execPowerLimitSet (watts : Nat) (s : State) : Host.Outcome State Fault Refusal :=
  if 1200 ≤ watts ∧ watts ≤ 2800 then .next (s.setModule (fun m => { m with powerLimit := watts })) else .next s

/-- OPERATING_POINT_MOVE: a management request for a valid point (R417). -/
def execOperatingPointMove (die point : Nat) (s : State) : Host.Outcome State Fault Refusal :=
  if point < 8 ∧ pointValid s.module.plan point then .next (s.setDie die (fun d => { d with opPoint := point })) else .next s

/-- The valid points below a die's, the highest first. -/
def lowerPoints (s : State) (die : Nat) : List Nat :=
  let plan := s.module.plan
  let now := pointCore plan (s.dies.get die).opPoint
  ((List.range 8).filter (fun j => pointValid plan j && decide (pointCore plan j < now))).mergeSort
    (fun a b => decide (pointCore plan b ≤ pointCore plan a))

/-- Move a die to the next lower valid point, when there is one. (DESIGN CHOICE, log 56) -/
def State.lowerDie (s : State) (die : Nat) : State :=
  match lowerPoints s die with
  | [] => s
  | j :: _ => s.setDie die (fun d => { d with opPoint := j })

/-- POWER_LIMIT_CHECK: over the limit, the hottest die goes to the next lower valid point (R419). -/
def execPowerLimitCheck (watts hottest : Nat) (s : State) : Host.Outcome State Fault Refusal :=
  let s := s.setModule (fun m => { m with inputPower := watts })
  if s.module.powerLimit < watts then .next (s.lowerDie hottest) else .next s

/-- THERMAL_THROTTLE: at 100 °C a die goes to a lower valid point; below it is no longer throttled, and stays at its point
until R417 moves it (R420). -/
def execThermalThrottle (die celsius : Nat) (s : State) : Host.Outcome State Fault Refusal :=
  let s := s.setDie die (fun d => { d with celsius := celsius })
  if celsius < 100 then .next (s.setDie die (fun d => { d with throttled := false }))
  else
    let xs := lowerPoints s die
    let point := xs.getD (Config.throttleChoice s.fresh % xs.length) (s.dies.get die).opPoint
    .next { s.setDie die (fun d => { d with throttled := true, opPoint := point }) with fresh := s.fresh + 1 }

/-- THERMAL_SHUTDOWN: at 110 °C every launch ends with RESET, every clock stops, and the module is held in reset (R420). (DEDUCED, log 57) -/
def execThermalShutdown (die celsius : Nat) (s : State) : Host.Outcome State Fault Refusal :=
  let s := s.setDie die (fun d => { d with celsius := celsius })
  if celsius < 110 then .next s
  else finish (s.resetLaunches.setModule (fun m => { m with clocksOff := true, inReset := true, hot := true }))

/-- UNDERVOLTAGE: the input voltage; below 40 V the power stages hold the module in reset, and a module reset follows only with the
input back in range (R418, R421). -/
def execUndervoltage (millivolts : Nat) (s : State) : Host.Outcome State Fault Refusal :=
  .next (s.setModule (fun m => { m with inputMv := millivolts, inReset := m.inReset || decide (millivolts < 40000) }))

/-! ### Module reset (R390, R421) -/

/-- The lowest valid point of a plan; 0 where there is none. -/
def lowestPoint (plan : List Byte) : Nat :=
  (((List.range 8).filter (pointValid plan)).mergeSort (fun a b => decide (pointCore plan a ≤ pointCore plan b))).headD 0

/-- A port with the configuration that was written for it (R403). (DEDUCED, log 53) -/
def bootPort (p : Port) : Port :=
  match p.nextCfg with
  | none => { resetPort with speed := p.speed, prtb := p.prtb, kdtClass := p.kdtClass, udpPort := p.udpPort }
  | some (speed, prtb, cls, udp) => { resetPort with speed := speed, prtb := prtb, kdtClass := cls, udpPort := udp }

/-- The least security version of a list of stages: its image's. (DEDUCED, log 53) -/
def imageVersion (xs : List FwStage) : Nat := (xs.map (·.version)).foldl Nat.min ((xs.map (·.version)).headD 0)

/-- The Crucible after boot: the fuses and the module configuration stay; a staged image takes the place of the stages in force; each
stage is verified before it runs, an image that runs raises the fused minimum, and the identity key is derived afresh (R375, R377,
R390). (DEDUCED, log 53) -/
def bootCrucible (c : Crucible) : Crucible :=
  let xs := c.staged.getD c.stages
  let ok := xs.all (stageOk c)
  { resetCrucible with
    lifecycle := c.lifecycle, booted := ok, fwKeyHash := c.fwKeyHash, stages := xs, unique := c.unique,
    minVer := if ok && c.staged.isSome then Nat.max c.minVer (imageVersion xs) else c.minVer
    identity := identityOf c.lifecycle c.unique, cert := c.cert
    mgmtKeys := c.mgmtKeys, errorLog := c.errorLog, usedHandles := c.usedHandles, drawn := c.drawn }

/-- The retirement map of a core: what stays through a reset (R8, R254). (DEDUCED, log 53) -/
def bootCore (c : Core) : Core := { (default : Core) with retired := c.retired, spares := c.spares, spent := c.spent.map (fun _ => []) }

/-- The machine after a module reset from a state: every launch ends with RESET, and the sequence of R421 follows (R390, R412). (DEDUCED, log 53) -/
def State.boot (s : State) : State :=
  let t := s.resetLaunches
  let plan := s.module.nextPlan.getD s.module.plan
  let c := bootCrucible t.crucible
  let dies : SMap Die := (List.range 4).foldl (fun (m : SMap Die) d => m.set d { (default : Die) with opPoint := lowestPoint plan }) []
  { State.reset with
    tick := s.tick, turn := s.turn, fresh := t.fresh, serial := t.serial, agenda := s.agenda, host := t.host
    cores := s.cores.foldl (fun (m : SMap Core) e => m.set e.1 (bootCore e.2)) []
    dies := dies, ports := s.ports.map (fun (e : Nat × Port) => (e.1, bootPort e.2)), crucible := c
    module := { resetModule with plan := plan, inReset := !c.booted, inputMv := s.module.inputMv } }

/-- Whether the input lies in its range (R418). -/
def inputOk (s : State) : Bool := decide (40000 ≤ s.module.inputMv) && decide (s.module.inputMv ≤ 60000)

/-- Whether the module is held by its temperature, its freeze pin or its input, which a reset alone does not end (R412, R418,
R420, R421). (DEDUCED, log 54) -/
def heldDown (s : State) : Bool := s.module.hot || s.module.freezePin || !inputOk s

/-- MODULE_RESET (R421). (DEDUCED, log 54) -/
def execModuleReset (s : State) : Host.Outcome State Fault Refusal := if heldDown s then .next s else .next s.boot

/-- THERMAL_RELEASE: every die reads below 85 °C and a management command releases the module (R420). (DEDUCED, log 54) -/
def execThermalRelease (celsius : List Nat) (s : State) : Host.Outcome State Fault Refusal :=
  if s.module.hot ∧ !s.module.freezePin ∧ inputOk s ∧ celsius.length = 4 ∧ celsius.all (· < 85) then .next s.boot else .next s

/-- LIFECYCLE_TRANSITION: fuses move only forward (R376). The identity key is present from production on; the decommissioned state
holds no owners, and the secret that the key comes from is destroyed with it (R376, R377). -/
def execLifecycleTransition (dest : Lifecycle) (s : State) : Host.Outcome State Fault Refusal :=
  if lifecycleCode dest ≤ lifecycleCode s.crucible.lifecycle then .next s
  else
    let s := s.setCrucible (fun c => { c with
      lifecycle := dest, identity := identityOf dest c.unique, unique := if dest = .decommissioned then 0 else c.unique })
    if dest = .decommissioned then .next s.boot else .next s

end Sys2Proof.Machine
end

