-- ==== Sys2Proof/Machine/Lanes.lean ====
section
/-! DEFINITION. Cross-lane instructions (R153–R156). All are warp-collective (R38). -/

namespace Sys2Proof.Machine

/-- Write a result to a w register once, to a v register of each listed lane, or nowhere (R73, R154). -/
def writeVW (s : State) (w d : Nat) (xs : List (Nat × Word)) : State :=
  if d < 384 then writeLanes s w d xs
  else if d < 448 then
    match xs with
    | [] => s
    | x :: _ => s.setW w (d - 384) x.2
  else s

def laneHdr (i : Instr) (f : F64) : Hdr := { hdrOf i f with coll := true }

/-- The element that a selector names: lane in [4:0], sub-element above (R155). -/
def shflElem (s : State) (f : F64) (w n sel : Nat) : Nat :=
  (srcElems s f (sel % 32) w n false f.a.toNat).getD (sel / 32 % n) 0

def shflBody (t : ShTy) (f : F64) (s : State) (gl : List Nat) : Res :=
  let w := ShTy.width t
  let n := 64 / w
  let sels := fun l => if f.md.getLsbD 0 then List.replicate n f.c.toNat else srcElems s f l w n false f.b.toNat
  .next (writeLanes s s.cur.warp f.d.toNat (gl.map (fun l =>
    (l, packElems w ((sels l).map (fun sel => shflElem s f w n sel))))))

def execShfl (t : ShTy) (f : F64) (s : State) : Host.Outcome State Fault Refusal :=
  .next (issue (laneHdr (.shfl t f) f) (shflBody t f) s)

def bcastBody (f : F64) (s : State) (gl : List Nat) : Res :=
  let w := s.cur.warp
  let from_ := fun l => if f.md.getLsbD 0 then f.c.toNat % 32 else (opnd s w l f.lit f.b.toNat).toNat % 32
  .next (writeVW s w f.d.toNat (gl.map (fun l => (l, opnd s w (from_ l) f.lit f.a.toNat))))

def execBcast (f : F64) (s : State) : Host.Outcome State Fault Refusal :=
  .next (issue (laneHdr (.bcast f) f) (bcastBody f) s)

/-- Lanes whose source predicate is true (R155). -/
def votes (s : State) (f : F64) (gl : List Nat) : List Nat := gl.filter (fun l => predSrc s l f.a)

def ptestBody (f : F64) (op : List Nat → List Nat → Bool) (s : State) (gl : List Nat) : Res :=
  let r := op (votes s f gl) gl
  .next (writePreds s s.cur.warp (f.d.toNat % 8) (gl.map (fun l => (l, r))))

def execPtestSome (f : F64) (s : State) : Host.Outcome State Fault Refusal :=
  .next (issue (laneHdr (.ptestSome f) f) (ptestBody f (fun v _ => !v.isEmpty)) s)
def execPtestEvery (f : F64) (s : State) : Host.Outcome State Fault Refusal :=
  .next (issue (laneHdr (.ptestEvery f) f) (ptestBody f (fun v g => v.length == g.length)) s)
def execPtestAlike (f : F64) (s : State) : Host.Outcome State Fault Refusal :=
  .next (issue (laneHdr (.ptestAlike f) f) (ptestBody f (fun v g => v.isEmpty || v.length == g.length)) s)

def pmaskBody (f : F64) (s : State) (gl : List Nat) : Res :=
  let m := (votes s f gl).foldl (fun m l => m + 2 ^ l) 0
  .next (writeVW s s.cur.warp f.d.toNat (gl.map (fun l => (l, BitVec.ofNat 64 m))))

def execPmask (f : F64) (s : State) : Host.Outcome State Fault Refusal :=
  .next (issue (laneHdr (.pmask f) f) (pmaskBody f) s)

/-- The lowest guard-true lane is elected (R155). -/
def electBody (f : F64) (s : State) (gl : List Nat) : Res :=
  .next (writePreds s s.cur.warp (f.d.toNat % 8) (gl.map (fun l => (l, some l == gl.head?))))

def execElect (f : F64) (s : State) : Host.Outcome State Fault Refusal :=
  .next (issue (laneHdr (.elect f) f) (electBody f) s)

/-! ### Reductions (R156) -/

/-- How a reduction combines: width, positions, the combining step and the identity of an excluded lane. -/
structure RedSpec where
  width : Nat
  count : Nat
  op    : Nat → Nat → Nat × BitVec 9
  ident : Nat
  i64   : Bool := false   -- a literal operand is sign-extended (R72)

/-- The 32 values at one position, the identity in excluded lanes. -/
def redColumn (r : RedSpec) (s : State) (f : F64) (gl : List Nat) (pos : Nat) : List Nat :=
  lanes32.map (fun l =>
    if gl.contains l then (srcElems s f l r.width r.count r.i64 f.a.toNat).getD pos 0 else r.ident)

/-- The sums of the positions, and their flags: the tree over the lanes first (R156). -/
def redColumns (r : RedSpec) (s : State) (f : F64) (gl : List Nat) : List (Nat × BitVec 9) :=
  (List.range r.count).map (fun pos => treeF r.op 5 (redColumn r s f gl pos))

/-- The result register and the flags; `.lanes` is MOD[63]. -/
def redResult (r : RedSpec) (s : State) (f : F64) (gl : List Nat) : Word × BitVec 9 :=
  let cs := redColumns r s f gl
  let fl := cs.foldl (fun a c => a ||| c.2) 0
  if f.md.getLsbD 2 then (packElems r.width (cs.map (·.1)), fl)
  else
    let y := treeF r.op (Nat.log2 r.count) (cs.map (·.1))
    (BitVec.ofNat 64 (y.1 % 2 ^ r.width), fl ||| y.2)

def redBody (r : RedSpec) (f : F64) (s : State) (gl : List Nat) : Res :=
  let y := redResult r s f gl
  withFlags s s.cur.warp (gl.map (fun l => (l, y.2))) (fun s' =>
    .next (writeVW s' s.cur.warp f.d.toNat (gl.map (fun l => (l, y.1)))))

def redAddSpec (t : RedAddTy) (f : F64) : RedSpec :=
  let fl := fun (m : Fmt) n => ({ width := m.width, count := n, op := addF m (F64.mode f) false, ident := m.signBit } : RedSpec)
  match t with
  | .b32x2 => { width := 32, count := 2, op := fun a b => ((a + b) % 2 ^ 32, 0), ident := 0 }
  | .b64 => { width := 64, count := 1, op := fun a b => ((a + b) % 2 ^ 64, 0), ident := 0 }
  | .f32 => fl .f32 1
  | .f32x2 => fl .f32 2
  | .f16x4 => fl .f16 4
  | .bf16x4 => fl .bf16 4

/-- Integer minimum or maximum with the type's extreme as identity. -/
def redMmInt (isMax signed : Bool) (w n : Nat) : RedSpec :=
  let lt := fun a b => if signed then decide (sextInt w a < sextInt w b) else decide (a < b)
  { width := w, count := n, op := fun a b => (if lt a b = isMax then b else a, 0)
    ident := match isMax, signed with
      | true, true => 2 ^ (w - 1)
      | true, false => 0
      | false, true => 2 ^ (w - 1) - 1
      | false, false => 2 ^ w - 1 }

def redMmSpec (isMax : Bool) (t : RedMmTy) : RedSpec :=
  match t with
  | .i32x2 => redMmInt isMax true 32 2
  | .n32x2 => redMmInt isMax false 32 2
  | .i64 => { redMmInt isMax true 64 1 with i64 := true }
  | .n64 => redMmInt isMax false 64 1
  | .f32 => { width := 32, count := 1, op := minMaxF .f32 isMax, ident := infF .f32 isMax }
  | .f32x2 => { width := 32, count := 2, op := minMaxF .f32 isMax, ident := infF .f32 isMax }

def redBitSpec (op : Nat → Nat → Nat) (ident : Nat) : RedSpec :=
  { width := 64, count := 1, op := fun a b => (op a b, 0), ident := ident }

def execRedAdd (t : RedAddTy) (f : F64) (s : State) : Host.Outcome State Fault Refusal :=
  .next (issue (laneHdr (.redAdd t f) f) (redBody (redAddSpec t f) f) s)
def execRedMin (t : RedMmTy) (f : F64) (s : State) : Host.Outcome State Fault Refusal :=
  .next (issue (laneHdr (.redMin t f) f) (redBody (redMmSpec false t) f) s)
def execRedMax (t : RedMmTy) (f : F64) (s : State) : Host.Outcome State Fault Refusal :=
  .next (issue (laneHdr (.redMax t f) f) (redBody (redMmSpec true t) f) s)
def execRedAnd (f : F64) (s : State) : Host.Outcome State Fault Refusal :=
  .next (issue (laneHdr (.redAnd f) f) (redBody (redBitSpec (· &&& ·) (2 ^ 64 - 1)) f) s)
def execRedOr (f : F64) (s : State) : Host.Outcome State Fault Refusal :=
  .next (issue (laneHdr (.redOr f) f) (redBody (redBitSpec (· ||| ·) 0) f) s)
def execRedXor (f : F64) (s : State) : Host.Outcome State Fault Refusal :=
  .next (issue (laneHdr (.redXor f) f) (redBody (redBitSpec (· ^^^ ·) 0) f) s)

end Sys2Proof.Machine
end

