-- ==== Sys2Proof/Machine/Dispatch.lean ====
section
/-! DEFINITION. One arm per operation or event of the opcode table, each a call of its meaning. -/

namespace Sys2Proof.Machine

/-- The effect of an instruction or event. -/
def exec (i : Instr) (s : State) : Host.Outcome State Fault Refusal :=
  match i with
  | .nop f => Sys2Proof.Machine.execNop f s
  | .nopTwin f => Sys2Proof.Machine.execNopTwin f s
  | .bra f => Sys2Proof.Machine.execBra f s
  | .braTwin f => Sys2Proof.Machine.execBraTwin f s
  | .call f => Sys2Proof.Machine.execCall f s
  | .callTwin f => Sys2Proof.Machine.execCallTwin f s
  | .ret f => Sys2Proof.Machine.execRet f s
  | .retTwin f => Sys2Proof.Machine.execRetTwin f s
  | .exit f => Sys2Proof.Machine.execExit f s
  | .exitTwin f => Sys2Proof.Machine.execExitTwin f s
  | .yield f => Sys2Proof.Machine.execYield f s
  | .yieldTwin f => Sys2Proof.Machine.execYieldTwin f s
  | .wait f => Sys2Proof.Machine.execWait f s
  | .waitTwin f => Sys2Proof.Machine.execWaitTwin f s
  | .barArrive f => Sys2Proof.Machine.execBarArrive f s
  | .barArriveTwin f => Sys2Proof.Machine.execBarArriveTwin f s
  | .barWait f => Sys2Proof.Machine.execBarWait f s
  | .barWaitTwin f => Sys2Proof.Machine.execBarWaitTwin f s
  | .mov f => Sys2Proof.Machine.execMov f s
  | .movTwinReg f => Sys2Proof.Machine.execMovTwinReg f s
  | .movTwinImm f => Sys2Proof.Machine.execMovTwinImm f s
  | .movTwinLit f => Sys2Proof.Machine.execMovTwinLit f s
  | .trap f => Sys2Proof.Machine.execTrap f s
  | .trapTwin f => Sys2Proof.Machine.execTrapTwin f s
  | .brk f => Sys2Proof.Machine.execBrk f s
  | .brkTwin f => Sys2Proof.Machine.execBrkTwin f s
  | .jmp f => Sys2Proof.Machine.execJmp f s
  | .jmpTwinReg f => Sys2Proof.Machine.execJmpTwinReg f s
  | .jmpTwinLit f => Sys2Proof.Machine.execJmpTwinLit f s
  | .addInt t f => Sys2Proof.Machine.execAddInt t f s
  | .subInt t f => Sys2Proof.Machine.execSubInt t f s
  | .mulInt t f => Sys2Proof.Machine.execMulInt t f s
  | .mad t f => Sys2Proof.Machine.execMad t f s
  | .minInt t f => Sys2Proof.Machine.execMinInt t f s
  | .maxInt t f => Sys2Proof.Machine.execMaxInt t f s
  | .abs t f => Sys2Proof.Machine.execAbs t f s
  | .neg t f => Sys2Proof.Machine.execNeg t f s
  | .andB f => Sys2Proof.Machine.execAndB f s
  | .orB f => Sys2Proof.Machine.execOrB f s
  | .xorB f => Sys2Proof.Machine.execXorB f s
  | .andnB f => Sys2Proof.Machine.execAndnB f s
  | .notB f => Sys2Proof.Machine.execNotB f s
  | .shl t f => Sys2Proof.Machine.execShl t f s
  | .shr t f => Sys2Proof.Machine.execShr t f s
  | .sar t f => Sys2Proof.Machine.execSar t f s
  | .rot t f => Sys2Proof.Machine.execRot t f s
  | .bfx signed f => Sys2Proof.Machine.execBfx signed f s
  | .bfi f => Sys2Proof.Machine.execBfi f s
  | .popc f => Sys2Proof.Machine.execPopc f s
  | .clz f => Sys2Proof.Machine.execClz f s
  | .brev f => Sys2Proof.Machine.execBrev f s
  | .shrf f => Sys2Proof.Machine.execShrf f s
  | .cmp cc t f => Sys2Proof.Machine.execCmp cc t f s
  | .sel f => Sys2Proof.Machine.execSel f s
  | .selm f => Sys2Proof.Machine.execSelm f s
  | .pand f => Sys2Proof.Machine.execPand f s
  | .por f => Sys2Proof.Machine.execPor f s
  | .pxor f => Sys2Proof.Machine.execPxor f s
  | .pandn f => Sys2Proof.Machine.execPandn f s
  | .div t f => Sys2Proof.Machine.execDiv t f s
  | .rem t f => Sys2Proof.Machine.execRem t f s
  | .divm t f => Sys2Proof.Machine.execDivm t f s
  | .lea f => Sys2Proof.Machine.execLea f s
  | .mvh f => Sys2Proof.Machine.execMvh f s
  | .mvs f => Sys2Proof.Machine.execMvs f s
  | .addFloat t f => Sys2Proof.Machine.execAddFloat t f s
  | .subFloat t f => Sys2Proof.Machine.execSubFloat t f s
  | .mulFloat t f => Sys2Proof.Machine.execMulFloat t f s
  | .fma t f => Sys2Proof.Machine.execFma t f s
  | .fnma t f => Sys2Proof.Machine.execFnma t f s
  | .minFloat t f => Sys2Proof.Machine.execMinFloat t f s
  | .maxFloat t f => Sys2Proof.Machine.execMaxFloat t f s
  | .fcmp t f => Sys2Proof.Machine.execFcmp t f s
  | .fclass t f => Sys2Proof.Machine.execFclass t f s
  | .frnd packed f => Sys2Proof.Machine.execFrnd packed f s
  | .fexpf packed f => Sys2Proof.Machine.execFexpf packed f s
  | .fscale packed f => Sys2Proof.Machine.execFscale packed f s
  | .frcp packed f => Sys2Proof.Machine.execFrcp packed f s
  | .frsqrt packed f => Sys2Proof.Machine.execFrsqrt packed f s
  | .fsqrt packed f => Sys2Proof.Machine.execFsqrt packed f s
  | .flog2 packed f => Sys2Proof.Machine.execFlog2 packed f s
  | .cvt f => Sys2Proof.Machine.execCvt f s
  | .shfl t f => Sys2Proof.Machine.execShfl t f s
  | .bcast f => Sys2Proof.Machine.execBcast f s
  | .ptestSome f => Sys2Proof.Machine.execPtestSome f s
  | .ptestEvery f => Sys2Proof.Machine.execPtestEvery f s
  | .ptestAlike f => Sys2Proof.Machine.execPtestAlike f s
  | .pmask f => Sys2Proof.Machine.execPmask f s
  | .redAdd t f => Sys2Proof.Machine.execRedAdd t f s
  | .redMin t f => Sys2Proof.Machine.execRedMin t f s
  | .redMax t f => Sys2Proof.Machine.execRedMax t f s
  | .redAnd f => Sys2Proof.Machine.execRedAnd f s
  | .redOr f => Sys2Proof.Machine.execRedOr f s
  | .redXor f => Sys2Proof.Machine.execRedXor f s
  | .elect f => Sys2Proof.Machine.execElect f s
  | .ld sp t f => Sys2Proof.Machine.execLd sp t f s
  | .st sp t f => Sys2Proof.Machine.execSt sp t f s
  | .stA f => Sys2Proof.Machine.execStA f s
  | .push f => Sys2Proof.Machine.execPush f s
  | .pop f => Sys2Proof.Machine.execPop f s
  | .bsend f => Sys2Proof.Machine.execBsend f s
  | .atomAdd t f => Sys2Proof.Machine.execAtomAdd t f s
  | .atomAnd t f => Sys2Proof.Machine.execAtomAnd t f s
  | .atomOr t f => Sys2Proof.Machine.execAtomOr t f s
  | .atomXor t f => Sys2Proof.Machine.execAtomXor t f s
  | .atomMin t f => Sys2Proof.Machine.execAtomMin t f s
  | .atomMax t f => Sys2Proof.Machine.execAtomMax t f s
  | .atomExch t f => Sys2Proof.Machine.execAtomExch t f s
  | .atomCas t f => Sys2Proof.Machine.execAtomCas t f s
  | .atomFadd t f => Sys2Proof.Machine.execAtomFadd t f s
  | .fence f => Sys2Proof.Machine.execFence f s
  | .watch f => Sys2Proof.Machine.execWatch f s
  | .mwait f => Sys2Proof.Machine.execMwait f s
  | .barArm f => Sys2Proof.Machine.execBarArm f s
  | .barCredit f => Sys2Proof.Machine.execBarCredit f s
  | .barQuery f => Sys2Proof.Machine.execBarQuery f s
  | .barSpill f => Sys2Proof.Machine.execBarSpill f s
  | .barFill f => Sys2Proof.Machine.execBarFill f s
  | .sbarArrive f => Sys2Proof.Machine.execSbarArrive f s
  | .sbarWait f => Sys2Proof.Machine.execSbarWait f s
  | .cntAdd f => Sys2Proof.Machine.execCntAdd f s
  | .cntFail f => Sys2Proof.Machine.execCntFail f s
  | .cntWait f => Sys2Proof.Machine.execCntWait f s
  | .cntPoll f => Sys2Proof.Machine.execCntPoll f s
  | .svc f => Sys2Proof.Machine.execSvc f s
  | .mfsr f => Sys2Proof.Machine.execMfsr f s
  | .mtsr f => Sys2Proof.Machine.execMtsr f s
  | .causeclrReg f => Sys2Proof.Machine.execCauseclrReg f s
  | .causeclrLit f => Sys2Proof.Machine.execCauseclrLit f s
  | .causeclrImm f => Sys2Proof.Machine.execCauseclrImm f s
  | .tret f => Sys2Proof.Machine.execTret f s
  | .tabort f => Sys2Proof.Machine.execTabort f s
  | .cubeMmaBench f => Sys2Proof.Machine.execCubeMmaBench f s
  | .cubeMmaReg f => Sys2Proof.Machine.execCubeMmaReg f s
  | .cubeOutBench f => Sys2Proof.Machine.execCubeOutBench f s
  | .cubeOutReg f => Sys2Proof.Machine.execCubeOutReg f s
  | .cubeArd f => Sys2Proof.Machine.execCubeArd f s
  | .cubeAwr f => Sys2Proof.Machine.execCubeAwr f s
  | .cubeAzero f => Sys2Proof.Machine.execCubeAzero f s
  | .cubeBld f => Sys2Proof.Machine.execCubeBld f s
  | .cubeQuery f => Sys2Proof.Machine.execCubeQuery f s
  | .xqueryReg f => Sys2Proof.Machine.execXqueryReg f s
  | .xqueryImm f => Sys2Proof.Machine.execXqueryImm f s
  | .xcancelReg f => Sys2Proof.Machine.execXcancelReg f s
  | .xcancelImm f => Sys2Proof.Machine.execXcancelImm f s
  | .collRun f => Sys2Proof.Machine.execCollRun f s
  | .collArm f => Sys2Proof.Machine.execCollArm f s
  | .collRelReg f => Sys2Proof.Machine.execCollRelReg f s
  | .collRelImm f => Sys2Proof.Machine.execCollRelImm f s
  | .collDisarmReg f => Sys2Proof.Machine.execCollDisarmReg f s
  | .collDisarmImm f => Sys2Proof.Machine.execCollDisarmImm f s
  | .collQueryReg f => Sys2Proof.Machine.execCollQueryReg f s
  | .collQueryImm f => Sys2Proof.Machine.execCollQueryImm f s
  | .collCancel f => Sys2Proof.Machine.execCollCancel f s
  | .lnch f => Sys2Proof.Machine.execLnch f s
  | .lcancel f => Sys2Proof.Machine.execLcancel f s
  | .lquery f => Sys2Proof.Machine.execLquery f s
  | .regqImm f => Sys2Proof.Machine.execRegqImm f s
  | .regqReg f => Sys2Proof.Machine.execRegqReg f s
  | .tfill f => Sys2Proof.Machine.execTfill f s
  | .tinv f => Sys2Proof.Machine.execTinv f s
  | .tprobe f => Sys2Proof.Machine.execTprobe f s
  | .treplayReg f => Sys2Proof.Machine.execTreplayReg f s
  | .treplayImm f => Sys2Proof.Machine.execTreplayImm f s
  | .hret f => Sys2Proof.Machine.execHret f s
  | .csave f => Sys2Proof.Machine.execCsave f s
  | .crestore f => Sys2Proof.Machine.execCrestore f s
  | .sreply f => Sys2Proof.Machine.execSreply f s
  | .bundleFormation quad => Sys2Proof.Machine.execBundleFormation quad s
  | .threadUrgent thread => Sys2Proof.Machine.execThreadUrgent thread s
  | .memoryAccessComplete pid => Sys2Proof.Machine.execMemoryAccessComplete pid s
  | .dividerComplete pid => Sys2Proof.Machine.execDividerComplete pid s
  | .specialFunctionComplete pid => Sys2Proof.Machine.execSpecialFunctionComplete pid s
  | .conversionComplete pid => Sys2Proof.Machine.execConversionComplete pid s
  | .engineResourceFreed die => Sys2Proof.Machine.execEngineResourceFreed die s
  | .trapEntry warp => Sys2Proof.Machine.execTrapEntry warp s
  | .workgroupStop vgid => Sys2Proof.Machine.execWorkgroupStop vgid s
  | .handlerInvocation core => Sys2Proof.Machine.execHandlerInvocation core s
  | .saveDeadlineExpiry vgid => Sys2Proof.Machine.execSaveDeadlineExpiry vgid s
  | .workgroupRestore vgid core => Sys2Proof.Machine.execWorkgroupRestore vgid core s
  | .workgroupPlacement launch => Sys2Proof.Machine.execWorkgroupPlacement launch s
  | .workgroupEnd vgid => Sys2Proof.Machine.execWorkgroupEnd vgid s
  | .timeSliceExpiry core => Sys2Proof.Machine.execTimeSliceExpiry core s
  | .displacement die owner => Sys2Proof.Machine.execDisplacement die owner s
  | .launchRecordCheck launch ecc => Sys2Proof.Machine.execLaunchRecordCheck launch ecc s
  | .dependenceCheck launch ecc => Sys2Proof.Machine.execDependenceCheck launch ecc s
  | .launchEnd launch => Sys2Proof.Machine.execLaunchEnd launch s
  | .transferLineLanded core chan => Sys2Proof.Machine.execTransferLineLanded core chan s
  | .transferPartComplete core chan => Sys2Proof.Machine.execTransferPartComplete core chan s
  | .transferOpFail core chan bit => Sys2Proof.Machine.execTransferOpFail core chan bit s
  | .cubePass core mismatch ecc => Sys2Proof.Machine.execCubePass core mismatch ecc s
  | .cubeOpComplete core => Sys2Proof.Machine.execCubeOpComplete core s
  | .bsendDelivery send => Sys2Proof.Machine.execBsendDelivery send s
  | .barrierCreditDelivery credit => Sys2Proof.Machine.execBarrierCreditDelivery credit s
  | .collOpComplete op ecc => Sys2Proof.Machine.execCollOpComplete op ecc s
  | .collTimeout op => Sys2Proof.Machine.execCollTimeout op s
  | .kdtData head ecn body => Sys2Proof.Machine.execKdtData head ecn body s
  | .kdtAck head body => Sys2Proof.Machine.execKdtAck head body s
  | .kdtNack head body => Sys2Proof.Machine.execKdtNack head body s
  | .kdtRetransmitTimeout flow => Sys2Proof.Machine.execKdtRetransmitTimeout flow s
  | .kdtRateRecovery flow => Sys2Proof.Machine.execKdtRateRecovery flow s
  | .ingestFrame port frame fcsOk ecc => Sys2Proof.Machine.execIngestFrame port frame fcsOk ecc s
  | .zoneCounterAddition owner zone ecc => Sys2Proof.Machine.execZoneCounterAddition owner zone ecc s
  | .pfcPauseRepeat port cls => Sys2Proof.Machine.execPfcPauseRepeat port cls s
  | .pfcFrameReceived port classes times => Sys2Proof.Machine.execPfcFrameReceived port classes times s
  | .autodispDispatch owner => Sys2Proof.Machine.execAutodispDispatch owner s
  | .fqdone owner w => Sys2Proof.Machine.execFqdone owner w s
  | .dispatch owner w => Sys2Proof.Machine.execDispatch owner w s
  | .fillgo owner w => Sys2Proof.Machine.execFillgo owner w s
  | .invgo owner w => Sys2Proof.Machine.execInvgo owner w s
  | .atsCompletion pasid page read write => Sys2Proof.Machine.execAtsCompletion pasid page read write s
  | .pageRequestResponse index pasid code => Sys2Proof.Machine.execPageRequestResponse index pasid code s
  | .hostInvalidation pasid page pages => Sys2Proof.Machine.execHostInvalidation pasid page pages s
  | .prgOrphanTimeout index => Sys2Proof.Machine.execPrgOrphanTimeout index s
  | .submit ifc offset pasid deferrable bytes => Sys2Proof.Machine.execSubmit ifc offset pasid deferrable bytes s
  | .cancel ifc pasid w => Sys2Proof.Machine.execCancel ifc pasid w s
  | .registerWrite target offset bytes => Sys2Proof.Machine.execRegisterWrite target offset bytes s
  | .create cmd => Sys2Proof.Machine.execCreate cmd s
  | .policy cmd => Sys2Proof.Machine.execPolicy cmd s
  | .allot cmd => Sys2Proof.Machine.execAllot cmd s
  | .assign cmd => Sys2Proof.Machine.execAssign cmd s
  | .unassign cmd => Sys2Proof.Machine.execUnassign cmd s
  | .run cmd => Sys2Proof.Machine.execRun cmd s
  | .pause cmd => Sys2Proof.Machine.execPause cmd s
  | .resume cmd => Sys2Proof.Machine.execResume cmd s
  | .evict cmd => Sys2Proof.Machine.execEvict cmd s
  | .reset cmd => Sys2Proof.Machine.execReset cmd s
  | .destroy cmd => Sys2Proof.Machine.execDestroy cmd s
  | .flow cmd => Sys2Proof.Machine.execFlow cmd s
  | .pauseComplete owner => Sys2Proof.Machine.execPauseComplete owner s
  | .evictComplete owner => Sys2Proof.Machine.execEvictComplete owner s
  | .resumeEvictedComplete owner => Sys2Proof.Machine.execResumeEvictedComplete owner s
  | .resetComplete owner => Sys2Proof.Machine.execResetComplete owner s
  | .flowPeerGrant handle grant => Sys2Proof.Machine.execFlowPeerGrant handle grant s
  | .flowGrantTimeout handle => Sys2Proof.Machine.execFlowGrantTimeout handle s
  | .spdmRequest path index => Sys2Proof.Machine.execSpdmRequest path index s
  | .spdmHandleQuery path handle => Sys2Proof.Machine.execSpdmHandleQuery path handle s
  | .firmwareUpdate path image => Sys2Proof.Machine.execFirmwareUpdate path image s
  | .functionLevelReset => Sys2Proof.Machine.execFunctionLevelReset s
  | .completionTimeout => Sys2Proof.Machine.execCompletionTimeout s
  | .hostLoss => Sys2Proof.Machine.execHostLoss s
  | .hostReturn => Sys2Proof.Machine.execHostReturn s
  | .portConfigWrite path port speed prtb cls udp => Sys2Proof.Machine.execPortConfigWrite path port speed prtb cls udp s
  | .managementKeyWrite path index hash => Sys2Proof.Machine.execManagementKeyWrite path index hash s
  | .errorLogRead path => Sys2Proof.Machine.execErrorLogRead path s
  | .clockPlanWrite path plan => Sys2Proof.Machine.execClockPlanWrite path plan s
  | .powerLimitSet watts => Sys2Proof.Machine.execPowerLimitSet watts s
  | .debugSessionOpen path handle keyHash scope hold bps trace => Sys2Proof.Machine.execDebugSessionOpen path handle keyHash scope hold bps trace s
  | .breakpointMatch warp lanes => Sys2Proof.Machine.execBreakpointMatch warp lanes s
  | .groupStep warp lane => Sys2Proof.Machine.execGroupStep warp lane s
  | .laneExclusiveStep warp lane => Sys2Proof.Machine.execLaneExclusiveStep warp lane s
  | .debugRegisterAccess warp lane reg write => Sys2Proof.Machine.execDebugRegisterAccess warp lane reg write s
  | .debugMemoryAccess handle va write => Sys2Proof.Machine.execDebugMemoryAccess handle va write s
  | .traceSample quad => Sys2Proof.Machine.execTraceSample quad s
  | .causalTrialStart handle die lo hi delay duration progress => Sys2Proof.Machine.execCausalTrialStart handle die lo hi delay duration progress s
  | .causalTrialEnd die => Sys2Proof.Machine.execCausalTrialEnd die s
  | .coreDump handle => Sys2Proof.Machine.execCoreDump handle s
  | .dumpPageCopy handle => Sys2Proof.Machine.execDumpPageCopy handle s
  | .sessionRelease handle => Sys2Proof.Machine.execSessionRelease handle s
  | .freezeAssert => Sys2Proof.Machine.execFreezeAssert s
  | .freezeRelease => Sys2Proof.Machine.execFreezeRelease s
  | .operatingPointMove die point => Sys2Proof.Machine.execOperatingPointMove die point s
  | .powerLimitCheck watts hottest => Sys2Proof.Machine.execPowerLimitCheck watts hottest s
  | .thermalThrottle die celsius => Sys2Proof.Machine.execThermalThrottle die celsius s
  | .thermalShutdown die celsius => Sys2Proof.Machine.execThermalShutdown die celsius s
  | .thermalRelease celsius => Sys2Proof.Machine.execThermalRelease celsius s
  | .undervoltage millivolts => Sys2Proof.Machine.execUndervoltage millivolts s
  | .moduleReset => Sys2Proof.Machine.execModuleReset s
  | .illegalEncoding => Sys2Proof.Machine.execIllegalEncoding s
  | .instructionFetch => Sys2Proof.Machine.execInstructionFetch s
  | .tinvComplete inv => Sys2Proof.Machine.execTinvComplete inv s
  | .tfillComplete pid => Sys2Proof.Machine.execTfillComplete pid s
  | .lnchAnswer pid => Sys2Proof.Machine.execLnchAnswer pid s
  | .lifecycleTransition dest => Sys2Proof.Machine.execLifecycleTransition dest s
  | .serviceHartAccess owner addr write => Sys2Proof.Machine.execServiceHartAccess owner addr write s

end Sys2Proof.Machine
end

