-- ==== Sys2Proof/Machine/Place.lean ====
section
/-! DEFINITION. A warp that stands at code, for `withFetchWord`: what a step needs to fetch given bytes next. -/

namespace Sys2Proof.Machine

/-- A 64 KiB page at virtual address 0, readable and executable, in the first frame of GDDR-7. (DEDUCED, log 1) -/
def placePage : TlbEntry where
  owner := 0
  va := 0
  frame := 0
  size := 0
  tier := 0
  ifc := 0
  uc := false
  r := true
  w := true
  x := true
  pin := false
  epoch := 0

/-- A live warp with a quota of 384 registers. (DEDUCED, log 1) -/
def placeWarp : Warp := { (default : Warp) with live := true, vgid := 1, units := List.range 12 }

/-- Lane 0 of warp 0 of owner 0 stands at bytes at virtual address 0, and its part of a bundle issues next; nothing else
waits to be taken, and no session or trial holds it back. (DEDUCED, log 1) -/
def State.placeCode (s : State) (bs : List Byte) : State :=
  { s with
    agenda := []
    issueQ := [{ warp := 0, pc := 0, lanes := [0], lead := true }]
    threads := s.threads.set 0 { (default : Thread) with live := true }
    warps := s.warps.set 0 placeWarp
    mem := SMap.setRange (α := BitVec 8) s.mem 0 bs
    icache := ((s.icache.del 0).del 1).del 2
    tlb := s.tlb.set (tlbQuad 0) [placePage]
    owners := s.owners.update 0 (fun x => { x with frozen := [] })
    dies := s.dies.update 0 (fun d => { d with trial := default })
    sessions := s.sessions.del 0
    module := { s.module with inReset := false, clocksOff := false } }

end Sys2Proof.Machine
end

