-- ==== Sys2Proof/Machine/Step.lean ====
section
/-! DEFINITION. One step of the machine, and the placement of one instruction where a step fetches. -/

namespace Sys2Proof.Machine

/-- Whether an instruction or event changes the state. -/
def changes (s : State) (i : Instr) : Bool :=
  match exec i s with
  | .next t => decide (t ≠ s)
  | _ => true

/-- One step: an event that has come about, the issue of a part of a bundle, a formation or an internal event. A step that
reaches an address without memory stops the machine (R9). (DESIGN CHOICE, log 2) -/
def step (s : State) : Host.Outcome State Fault Refusal :=
  match pick (changes s) s with
  | .run i t =>
    (match exec i t with
     | .next u => finish u.settle
     | .fault r => .fault r
     | .refused r => .refused r)
  | .issue i t =>
    (match issueOnce (exec i) t with
     | .next u => finish (u.endStep t.cur.warp).settle
     | .fault r => .fault r
     | .refused r => .refused r)
  | .idle t => finish t.settle

/-- The state with one instruction where the next step fetches; the bits above `nbits` are 0. (DEDUCED, log 1) -/
def State.withFetchWord (s : State) (nbits w : Nat) : State := s.placeCode (leBytes 12 (w % 2 ^ nbits))

end Sys2Proof.Machine
end

