-- ==== Sys2Proof/Safety.lean ====
section
/-! DEFINITION. The terms in which claims about the machine are stated: when an instruction issues in every thread of its
focus, what an instruction that writes registers leaves, and the forms that a well-formed state keeps. -/

namespace Sys2Proof.Machine

/-! ### When an instruction issues -/

/-- The threads of the focus in which the guard of an instruction is true (R67). -/
def guarded (h : Hdr) (s : State) : List Nat := (issuing s).filter (guardOf s s.cur.warp h.neg h.pred)

/-- An instruction with header `h` issues in every thread of the focus: the warp is not held (R196), the core and the
quota allow the instruction (R79, R80), every slot it waits for is clear (R68), where its guard is true in some thread no register
it writes is write-locked (R67, R267), and a warp-collective instruction finds every live thread of the warp there (R38). -/
structure Issues (h : Hdr) (s : State) : Prop where
  some  : issuing s ≠ []
  lanes : ∀ l ∈ s.cur.lanes, l < 32
  nodup : s.cur.lanes.Nodup
  free  : (s.warp s.cur.warp).held = false
  priv  : h.priv = true → isSup s.cur.warp = true
  quota : h.vTop ≤ 32 * (s.warp s.cur.warp).units.length
  slots : ∀ l ∈ issuing s, (s.thread s.cur.warp l).slots &&& slotMask s h s.cur.warp l = 0
  bhold : guarded h s ≠ [] → h.dests.any (bholdLocked s s.cur.warp) = false
  all   : h.coll = true → ∀ l ∈ s.liveLanes s.cur.warp, l ∈ issuing s

/-! ### Instructions that write registers only -/

/-- What an instruction writes: vector registers by lane and number, w registers by number, predicates by lane and number,
and sticky flags. -/
structure Writes where
  vec : Nat → Nat → Option Word := fun _ _ => none
  sca : Nat → Option Word := fun _ => none
  prd : Nat → Nat → Option Bool := fun _ _ => none
  flg : BitVec 9 := 0

/-- A thread that an instruction of `len` bytes at `pc` has left behind it (R63): ready at the next instruction. -/
def Thread.past (t : Thread) (pc : Word) (len tick : Nat) : Thread :=
  { t with pc := pc + BitVec.ofNat 64 len, wait := .ready, since := tick, urgent := false, awaited := none, passed := false,
           wcode := 0 }

/-- The threads of the focus move past the instruction, the guard-true ones take the writes, and everything else of the
machine is as it was: memory of every kind, the other warps, every other register and predicate. -/
structure RegEffect (h : Hdr) (s t : State) (x : Writes) : Prop where
  rest  : t = { s with threads := t.threads, vregs := t.vregs, wregs := t.wregs, warps := t.warps }
  vregs : ∀ w l n, l < 32 → n < 512 →
    t.v w l n = if w = s.cur.warp ∧ l ∈ guarded h s then (x.vec l n).getD (s.v w l n) else s.v w l n
  wregs : ∀ w n, n < 64 →
    t.w w n = if w = s.cur.warp ∧ guarded h s ≠ [] then (x.sca n).getD (s.w w n) else s.w w n
  warps : ∀ w, t.warp w =
    if w = s.cur.warp ∧ guarded h s ≠ [] then { s.warp w with flags := (s.warp w).flags ||| x.flg } else s.warp w
  threads : ∀ w l, l < 32 → t.thread w l =
    if w = s.cur.warp ∧ l ∈ issuing s then
      ({ s.thread w l with preds := (t.thread w l).preds }).past s.cur.pc h.len s.tick
    else s.thread w l
  preds : ∀ l p, l ∈ issuing s → p < 8 → (t.thread s.cur.warp l).p p =
    if l ∈ guarded h s then (x.prd l p).getD ((s.thread s.cur.warp l).p p) else (s.thread s.cur.warp l).p p

/-- A write of `d`, a v register or nothing for the discarding code (R70, R73), of a value per lane. -/
def toVec (d : Nat) (val : Nat → Word) : Nat → Nat → Option Word :=
  fun l n => if n = d ∧ d < 384 then some (val l) else none

/-- A write of predicate `d`; a write of p7 is discarded (R73). -/
def toPred (d : Nat) (val : Nat → Bool) : Nat → Nat → Option Bool :=
  fun l p => if p = d ∧ d < 7 then some (val l) else none

/-- The union of the lanes' flags (R101). -/
def unionFlags (ls : List Nat) (fl : Nat → BitVec 9) : BitVec 9 := ls.foldl (fun a l => a ||| fl l) 0

/-- A well-formed instruction that computes register `d` in each guard-true lane completes: where it issues and no flag
that it raises has its trap enabled (R102), `exec` answers the state in which `d` holds a value that `P` describes, the flags
that `P` describes are sticky, and nothing else has changed. -/
def ComputesH (h : Hdr) (d : Nat) (i : Instr) (s : State) (P : Nat → Word → BitVec 9 → Prop) : Prop :=
  i.wf = true → Issues h s → ∃ (val : Nat → Word) (fl : Nat → BitVec 9), (∀ l ∈ guarded h s, P l (val l) (fl l)) ∧
    ((∀ l ∈ guarded h s, (s.warp s.cur.warp).fen &&& fl l = 0) →
      ∃ t, exec i s = .next t ∧ RegEffect h s t { vec := toVec d val, flg := unionFlags (guarded h s) fl })

/-- The same for a 64-bit or 96-bit instruction, whose destination is its field D. -/
def ComputesD (i : Instr) (f : F64) (s : State) (P : Nat → Word → BitVec 9 → Prop) : Prop :=
  ComputesH (hdrOf i f) f.d.toNat i s P

/-- A well-formed instruction that computes predicate D in each guard-true lane completes. -/
def ComputesP (i : Instr) (f : F64) (s : State) (P : Nat → Bool → Prop) : Prop :=
  i.wf = true → Issues (hdrOf i f) s → ∃ val : Nat → Bool, (∀ l ∈ guarded (hdrOf i f) s, P l (val l)) ∧
    ∃ t, exec i s = .next t ∧ RegEffect (hdrOf i f) s t { prd := toPred (f.d.toNat % 8) val }

/-! ### Operands as the statements read them -/

/-- Sub-element `k` of a source operand. -/
def srcAt (s : State) (f : F64) (lane w n : Nat) (i64 : Bool) (code k : Nat) : Nat := (srcElems s f lane w n i64 code).getD k 0
/-- Sub-element `k` of the second source, B or the immediate (R113). -/
def secondAt (s : State) (f : F64) (lane w n : Nat) (i64 : Bool) (k : Nat) : Nat := (second s f lane w n i64).getD k 0
/-- Sub-element `k` of the third source (R113). -/
def thirdAt (s : State) (f : F64) (lane w n : Nat) (i64 : Bool) (k : Nat) : Nat := (third s f lane w n i64).getD k 0

/-- The sub-elements of an integer type as integers (R118): of A, of B, of the second and of the third source. -/
def intA (t : IntTy) (f : F64) (s : State) (lane k : Nat) : Int :=
  extInt (IntTy.signed t) (IntTy.width t) (srcAt s f lane (IntTy.width t) (64 / (IntTy.width t)) (t = .i64) f.a.toNat k)
def intB (t : IntTy) (f : F64) (s : State) (lane k : Nat) : Int :=
  extInt (IntTy.signed t) (IntTy.width t) (srcAt s f lane (IntTy.width t) (64 / (IntTy.width t)) (t = .i64) f.b.toNat k)
def intSecond (t : IntTy) (f : F64) (s : State) (lane k : Nat) : Int :=
  extInt (IntTy.signed t) (IntTy.width t) (secondAt s f lane (IntTy.width t) (64 / (IntTy.width t)) (t = .i64) k)
def intThird (t : IntTy) (f : F64) (s : State) (lane k : Nat) : Int :=
  extInt (IntTy.signed t) (IntTy.width t) (thirdAt s f lane (IntTy.width t) (64 / (IntTy.width t)) (t = .i64) k)

/-- The nearest value of an integer format (R84, R97). -/
def clampInt (signed : Bool) (w : Nat) (x : Int) : Int :=
  if signed then max (-(2 ^ (w - 1) : Nat)) (min (((2 ^ (w - 1) : Nat) : Int) - 1) x) else max 0 (min (((2 ^ w : Nat) : Int) - 1) x)

/-- Each sub-element holds the low `w` bits of an exact result, and no flag is raised. -/
def WrappedElems (w : Nat) (x : Nat → Int) (y : Word) (fl : BitVec 9) : Prop :=
  (∀ k, k < 64 / w → elem w y k = wrapInt w (x k)) ∧ fl = 0

/-- Each sub-element holds the nearest value of the format, and SAT is raised where one is not exact (R97). -/
def SaturatedElems (signed : Bool) (w : Nat) (x : Nat → Int) (y : Word) (fl : BitVec 9) : Prop :=
  (∀ k, k < 64 / w → elem w y k = wrapInt w (clampInt signed w (x k))) ∧
  fl = if (List.range (64 / w)).any (fun k => clampInt signed w (x k) != x k) then flagSat else 0

/-- Wrapped, or saturated when MOD[62] asks for it (R117, R118). -/
def NarrowedElems (t : IntTy) (f : F64) (x : Nat → Int) (y : Word) (fl : BitVec 9) : Prop :=
  if f.md.getLsbD 1 then SaturatedElems (IntTy.signed t) (IntTy.width t) x y fl else WrappedElems (IntTy.width t) x y fl

/-! ### Floating-point results, results of a unit, results of the warp as a whole -/

/-- The first `n` sub-elements hold the listed results, the rest of the register is 0, and the flags are theirs together. -/
def FloatElems (w n : Nat) (r : Nat → Nat × BitVec 9) (y : Word) (fl : BitVec 9) : Prop :=
  (∀ k, k < n → elem w y k = (r k).1 % 2 ^ w) ∧ y.toNat < 2 ^ (w * n) ∧ fl = unionFlags (List.range n) (fun k => (r k).2)

/-- An instruction with a slot has started: its slot is set in the guard-true threads (R68), its work is with its unit, and
its threads are past it. Nothing else has changed. -/
structure StartEffect (h : Hdr) (s t : State) (p : Pending) : Prop where
  rest  : t = { s with threads := t.threads, pending := s.pending ++ [p], serial := s.serial + 1 }
  warp  : p.warp = s.cur.warp
  lanes : p.lanes = guarded h s
  threads : ∀ w l, l < 32 → t.thread w l =
    if w = s.cur.warp ∧ l ∈ guarded h s then ((s.thread w l).slotSet p.slot).past s.cur.pc h.len s.tick
    else if w = s.cur.warp ∧ l ∈ issuing s then (s.thread w l).past s.cur.pc h.len s.tick
    else s.thread w l

/-- The registers that a list of numbers and values writes; only v registers are written (R70, R73). -/
def writesOf (xs : List (Nat × Word)) (n : Nat) : Option Word :=
  if n < 384 then (xs.find? (fun x => x.1 == n)).map (·.2) else none

/-- An instruction of a unit that may set a slot completes or starts: with SET = 0 its registers and flags are written at
once; with a slot they wait, whole, for the unit (R68, R115). `P` describes what it computes in a lane. -/
def ComputesInUnit (u : WorkUnit) (i : Instr) (f : F64) (s : State) (P : Nat → List (Nat × Word) → BitVec 9 → Prop) : Prop :=
  i.wf = true → Issues (hdrOf i f) s → ∃ (val : Nat → List (Nat × Word)) (fl : Nat → BitVec 9),
    (∀ l ∈ guarded (hdrOf i f) s, P l (val l) (fl l)) ∧
    ((∀ l ∈ guarded (hdrOf i f) s, (s.warp s.cur.warp).fen &&& fl l = 0) →
      (f.set = 0 → ∃ t, exec i s = .next t ∧ RegEffect (hdrOf i f) s t
        { vec := fun l => writesOf (val l), flg := unionFlags (guarded (hdrOf i f) s) fl }) ∧
      (f.set ≠ 0 → guarded (hdrOf i f) s ≠ [] → ∃ t p, exec i s = .next t ∧ StartEffect (hdrOf i f) s t p ∧
        p.unit = u ∧ p.slot = f.set.toNat ∧ p.flags = unionFlags (guarded (hdrOf i f) s) fl ∧
        p.work = .writeRegs ((guarded (hdrOf i f) s).flatMap (fun l => (val l).map (fun x => (l, x.1, x.2))))))

/-- The guard-true live lanes of the issuing warp, in lane order. -/
def guardLanes (h : Hdr) (s : State) : List Nat := (s.liveLanes s.cur.warp).filter (guardOf s s.cur.warp h.neg h.pred)

/-- A write of D by the warp: a v register in each guard-true lane, a w register once, from the lowest of them (R154). -/
def toVW (d : Nat) (ls : List Nat) (val : Nat → Word) (fl : BitVec 9) : Writes where
  vec := toVec d val
  sca := fun n => if d = 384 + n ∧ n < 64 then ls.head?.map val else none
  flg := fl

/-- A warp-collective instruction that computes D completes, and changes nothing else. -/
def ComputesVW (i : Instr) (f : F64) (s : State) (P : Nat → Word → BitVec 9 → Prop) : Prop :=
  i.wf = true → Issues (laneHdr i f) s → ∃ (val : Nat → Word) (fl : BitVec 9), (∀ l ∈ guardLanes (laneHdr i f) s, P l (val l) fl) ∧
    ((s.warp s.cur.warp).fen &&& fl = 0 →
      ∃ t, exec i s = .next t ∧ RegEffect (laneHdr i f) s t (toVW f.d.toNat (guardLanes (laneHdr i f) s) val fl))

/-- A warp-collective instruction that computes predicate D completes, and changes nothing else. -/
def ComputesVote (i : Instr) (f : F64) (s : State) (P : Nat → Bool → Prop) : Prop :=
  i.wf = true → Issues (laneHdr i f) s → ∃ val : Nat → Bool, (∀ l ∈ guardLanes (laneHdr i f) s, P l (val l)) ∧
    ∃ t, exec i s = .next t ∧ RegEffect (laneHdr i f) s t { prd := toPred (f.d.toNat % 8) val }

/-! ### The pairwise tree (R111) and the reductions (R156) -/

/-- Combine two values with their flags. -/
def joinF (op : Nat → Nat → Nat × BitVec 9) (x y : Nat × BitVec 9) : Nat × BitVec 9 :=
  ((op x.1 y.1).1, x.2 ||| y.2 ||| (op x.1 y.1).2)

/-- The tree over the 2^n terms from a place on: the tree of the first half and that of the second, combined. -/
def treeOver (op : Nat → Nat → Nat × BitVec 9) : Nat → (Nat → Nat × BitVec 9) → Nat × BitVec 9
  | 0, x => x 0
  | n + 1, x => joinF op (treeOver op n x) (treeOver op n (fun i => x (i + 2 ^ n)))

/-- What a reduction of `n` sub-elements of width `w` (2^k of them) computes: over lanes at each position, excluded lanes
giving the identity, then over the positions unless MOD[63] asks for one result per position. `i64`: a literal operand is
sign-extended (R72). -/
def ReducedBy (w n k : Nat) (i64 : Bool) (op : Nat → Nat → Nat × BitVec 9) (ident : Nat) (i : Instr) (f : F64) (s : State)
    (y : Word) (fl : BitVec 9) : Prop :=
  let gl := guardLanes (laneHdr i f) s
  let col := fun pos => treeOver op 5 (fun l => (if gl.contains l then srcAt s f l w n i64 f.a.toNat pos else ident, 0))
  if f.md.getLsbD 2 then FloatElems w n col y fl
  else y.toNat = (treeOver op k col).1 % 2 ^ w ∧ fl = (treeOver op k col).2

/-- An exact step raises no flag. -/
def exactStep (op : Nat → Nat → Nat) : Nat → Nat → Nat × BitVec 9 := fun a b => (op a b, 0)

/-- The smaller or the greater of two `w`-bit codes (R156). -/
def codeMin (signed : Bool) (w a b : Nat) : Nat := if extInt signed w a ≤ extInt signed w b then a else b
def codeMax (signed : Bool) (w a b : Nat) : Nat := if extInt signed w a ≤ extInt signed w b then b else a

/-! ### Control (R151, R177) and causes (R196) -/

/-- The guard-true threads go to targets of their own and the others past the instruction; nothing else changes. -/
structure BranchEffect (h : Hdr) (s t : State) (target : Nat → Word) : Prop where
  rest    : t = { s with threads := t.threads }
  threads : ∀ w l, l < 32 → t.thread w l =
    if w = s.cur.warp ∧ l ∈ guarded h s then (s.thread w l).past (target l) 0 s.tick
    else if w = s.cur.warp ∧ l ∈ issuing s then (s.thread w l).past s.cur.pc h.len s.tick
    else s.thread w l

/-- The warp has raised one synchronous cause: it is recorded in the warp and in its launch, the listed threads hold the
ADDR and the CODE of their trap frames and stand where they stood, and the instruction has had no other effect (R84, R196). -/
structure Raised (s t : State) (bit : Nat) (ls : List Nat) (addr code : Nat → Nat) : Prop where
  rest    : t = { s with threads := t.threads, warps := t.warps, launches := t.launches }
  warps   : ∀ w, t.warp w =
    if w = s.cur.warp then { s.warp w with cause := (s.warp w).cause ||| (1#32 <<< bit), syncNew := true } else s.warp w
  threads : ∀ w l, l < 32 → t.thread w l =
    if w = s.cur.warp ∧ l ∈ ls then
      { s.thread w l with raised := true, faultVa := BitVec.ofNat 64 (addr l), code := code l, wait := .ready }
    else s.thread w l
  launch  : ∀ k, t.launches.get k =
    if k = s.launchOf s.cur.warp ∧ k ≠ 0 then
      { s.launches.get k with causes := (s.launches.get k).causes ||| (1#32 <<< bit) }
    else s.launches.get k

/-! ### What an instruction leaves of a state -/

/-- `t` is `u`, but for the listed threads of a warp, each of which `f` has changed. -/
structure Leaves (t u : State) (w : Nat) (ls : List Nat) (f : Nat → Thread → Thread) : Prop where
  rest    : t = { u with threads := t.threads, warps := t.warps }
  warps   : ∀ v, t.warp v = u.warp v
  threads : ∀ v l, l < 32 → t.thread v l = if v = w ∧ l ∈ ls then f l (u.thread v l) else u.thread v l

/-- The instruction completes: the state is `u`, in which the guard-true threads have also been changed by `f`, and every
thread of the focus has moved past the instruction. -/
def Completes (h : Hdr) (i : Instr) (s u : State) (f : Nat → Thread → Thread) : Prop :=
  ∃ t, exec i s = .next t ∧ Leaves t u s.cur.warp (issuing s)
    (fun l x => (if l ∈ guarded h s then f l x else x).past s.cur.pc h.len s.tick)

/-- One byte at a place; a host place names the byte at the host. -/
def State.byteAt (s : State) (l : Loc) : Byte :=
  match l with
  | .dev pa => SMap.get (α := BitVec 8) s.mem pa
  | .host _ p a _ => s.host.get (hostKey p a)
  | .bench k => s.bench.get k
  | .marver k => s.marver.get k

/-- A place on the device: memory with a home (R9), bench or marver. -/
def Loc.onDevice (l : Loc) (n : Nat) : Prop :=
  match l with
  | .dev pa => (homeOf pa).isSome = true ∧ (homeOf (pa + n - 1)).isSome = true
  | .host _ _ _ _ => False
  | _ => True

/-- The bytes at a place have been replaced, and no other byte of any memory has changed. -/
def StoresAt (s t : State) (l : Loc) (bs : List Byte) : Prop :=
  (∀ i, i < bs.length → t.byteAt (l.plus i) = bs.getD i 0) ∧
  ∀ l', (∀ i, i < bs.length → l' ≠ l.plus i) → t.byteAt l' = s.byteAt l'

/-- No register of any thread or warp, and no other memory than that of `StoresAt`, differs. -/
def SameRegs (s t : State) : Prop :=
  t.vregs = s.vregs ∧ t.wregs = s.wregs ∧ t.acc = s.acc ∧ ∀ w, t.warp w = s.warp w

/-! ### Forms that a well-formed state keeps -/

/-- A part of a bundle names lanes of a warp, in increasing order. -/
def Focus.ok (f : Focus) : Bool := f.lanes.all (fun l => decide (l < 32)) && decide (f.lanes.Pairwise (· < ·))

/-- Device memory is in its canonical form, no absent address has been reached, and every formed part names lanes
of a warp in increasing order. -/
structure State.WellFormed (s : State) : Prop where
  mem   : Memory.wf s.mem = true
  there : s.absent = none
  focus : s.cur.ok = true
  queue : s.issueQ.all Focus.ok = true

end Sys2Proof.Machine
end

