-- ==== Sys2Proof/Certificates/Slice0/Obligations.lean ====
section
/-! DEFINITION. The statements for the provers. Each is a proposition about the model that a rule of the spec, or a
convention named in the assumption log, makes. -/

section

open Sys2Proof Sys2Proof.Machine

/-! ### Encoding (R63–R66, R70–R79) -/

/-- Decode and encode agree: the decoder reads every well-formed instruction that has an encoding back from its bytes,
whatever bytes follow, with every operand at every value the encoding admits. What the model reads or chooses here:
assumption log 25. -/
def Obligations.EncodeDecodeRoundTrip : Prop :=
  ∀ (i : Instr) (rest : List Byte), i.wf = true → ((shortForm i).isSome = true ∨ (longForm i).isSome = true) →
    decode (encode i ++ rest) = .ok (i, rest)

/-- What the decoder yields is well-formed, and its bytes are those that the encoder writes: no bit of an accepted encoding is
dropped, so every reserved field of it is zero (R79). What the model reads or chooses here: assumption log 25. -/
def Obligations.DecodedBytesEncodeBack : Prop :=
  ∀ (bs rest : List Byte) (i : Instr), decode bs = .ok (i, rest) →
    i.wf = true ∧ bs = encode i ++ rest ∧ ((shortForm i).isSome = true ∨ (longForm i).isSome = true)

/-- Words that the spec prints decode to the instructions they stand for, one of each length among them (R63–R66). -/
def Obligations.DecodeWords : Prop :=
  let f : F64 := { md := 0, set := 0, wait := 0, neg := false, pred := 7, c := 0, b := 0, a := 0, d := 0, lit := none }
  decode (leBytes 8 0x200701803860112D) = .ok (.shl .b64 { f with md := 1, c := 3, a := 451, d := 1 }, []) ∧
  decode (leBytes 8 0x000700600020201D) = .ok (.addInt .n64 { f with b := 384, a := 1, d := 2 }, []) ∧
  decode (leBytes 8 0x2007080038401255) = .ok (.cmp .lt .n32 { f with md := 1, c := 16, a := 450, d := 1 }, []) ∧
  decode (leBytes 8 0x003702E080805435) = .ok (.fma .f32x2 { f with wait := 3, c := 5, b := 386, a := 4, d := 5 }, []) ∧
  decode (leBytes 12 0x3F80007007040804102) = .ok (.andB { f with b := 449, a := 4, d := 4, lit := some 0x3F8 }, []) ∧
  decode (leBytes 8 0x240700000040480D) = .ok (.ld .global .b64 { f with md := 1, set := 1, a := 2, d := 4 }, []) ∧
  decode (leBytes 8 0x20010180780008C1) = .ok (.stA { f with md := 1, pred := 1, c := 3, b := 1, a := 448 }, []) ∧
  decode (leBytes 8 0x00070CE0B0202A49) = .ok (.cntWait { f with c := 0x19, b := 386, a := 385, d := 2 }, []) ∧
  decode (leBytes 4 0x00012704) = .ok (.bra { neg := false, pred := 7, body := 18 }, [])

/-! ### Fetch, issue and the step (R37, R38, R63, R64, R67, R68, R79, R80, R102) -/

/-- A fetch reads the bytes of device memory at the program counter: where the quad's TLB holds an executable page over the
instruction, and no store has changed its words, it yields them and changes nothing but the TLB's order (R64, R334). What
the model reads or chooses here: assumption log 8. -/
def Obligations.FetchReadsMemory : Prop :=
  ∀ (s : State) (e : TlbEntry),
    let w := s.cur.warp
    let pc := s.cur.pc.toNat
    let pa := e.frame + (pc - e.va)
    issuing s ≠ [] → tlbFind s (tlbQuad (quadOf w)) (s.warp w).owner pc .exec = some e → e.tier ≠ 2 →
    pc + 12 ≤ e.va + e.bytes → pc + 12 ≤ 2 ^ 56 → pa % 4 = 0 →
    (∀ k, k < 12 → (homeOf (pa + k)).isSome = true) → (∀ k, k < 3 → s.icache.get (pa / 4 + k) = []) →
    ∃ t, fetch s = .code t (s.devBytes pa (max 4 (lengthOf (s.devBytes pa 1).head!.toNat))) ∧ t = { s with tlb := t.tlb }

/-- A step runs the decoded instruction: where the next part of a bundle may issue, no event waits, and its bytes decode, the
step is `exec` of that instruction, a second time from a state in which the issue is noted where some lane issues; the
ends of a step follow. What the model reads or chooses here: assumption log 2 and 80. -/
def Obligations.StepRunsDecoded : Prop :=
  ∀ (s t : State) (f : Focus) (r : List Focus) (bs rest : List Byte) (i : Instr),
    s.agenda = [] → haltedModule s = false → liveParts s = f :: r →
    trialHolds { s with issueQ := r, cur := f } = false → fetch { s with issueQ := r, cur := f } = .code t bs →
    decode bs = .ok (i, rest) → breakPart t i = none →
    (∀ u, exec i t = .next u → issuedLanes t u = [] → step s = finish (u.passLead.endStep t.cur.warp).settle) ∧
    (∀ u v, exec i t = .next u → issuedLanes t u ≠ [] → exec i (t.noteIssue (issuedLanes t u)) = .next v →
      step s = finish (v.endStep t.cur.warp).settle) ∧
    (∀ e, exec i t = .fault e → step s = .fault e)

/-- Bytes that do not decode run `ILLEGAL_ENCODING`, a fetch without a translation runs `INSTRUCTION_FETCH`, and a breakpoint
in the way of some part of a bundle runs `BREAKPOINT_MATCH` before any part of it issues (R64, R79, R407).
`ILLEGAL_ENCODING` raises ILLEGAL in every thread that would issue, whatever its guard, and `INSTRUCTION_FETCH` raises
TRANSLATE at an address that no translation can serve (R64, R79, R80). What the model reads or chooses here: assumption
log 47 and 81. -/
def Obligations.WhatRunsInPlaceOfAnInstruction : Prop :=
  (∀ (s : State) (f : Focus) (r : List Focus), s.agenda = [] → haltedModule s = false → liveParts s = f :: r →
    let t := { s with issueQ := r, cur := f }
    let runs := fun (i : Instr) (t : State) => step s = match issueOnce (exec i) t with
      | .next u => finish (u.endStep t.cur.warp).settle
      | .fault e => .fault e
      | .refused e => .refused e
    trialHolds t = false →
    (∀ u bs e, fetch t = .code u bs → decode bs = .error e → runs .illegalEncoding u) ∧
    (∀ u, fetch t = .hold u → runs .instructionFetch t) ∧ (∀ rs, fetch t = .fault rs → runs .instructionFetch t) ∧
    (∀ u bs i x f, fetch t = .code u bs → decode bs = .ok (i, x) → breakPart u i = some f →
      ∀ v, exec (.breakpointMatch f.warp (laneMask (breakLanes { u with cur := f } i))) u = .next v → step s = finish v.settle)) ∧
  (∀ (s : State) (l : Nat), issuing s = [l] → l < 32 → (s.warp s.cur.warp).held = false →
    (∃ t, exec .illegalEncoding s = .next t ∧ Raised s t causeIllegal [l] (fun _ => 0) (fun _ => 0)) ∧
    (2 ^ 56 ≤ s.cur.pc.toNat →
      ∃ t, exec .instructionFetch s = .next t ∧ Raised s t causeTranslate [l] (fun _ => s.cur.pc.toNat) (fun _ => 0)) ∧
    (∀ u bs, fetch s = .code u bs → u.absent = none → exec .instructionFetch s = .next u) ∧
    (∀ u, fetch s = .hold u → u.absent = none → exec .instructionFetch s = .next u))

/-- What comes before an instruction's effect, whatever the instruction: PRIV outside the supervisor warp, REGQUOTA for a
register beyond the quota, the wait for slots, and the rendezvous of a warp-collective instruction; an instruction whose
guard is false in every thread has no effect but the next program counter (R37, R38, R67, R68, R79, R80). A flag whose
trap is enabled makes its instruction raise the flag's cause instead of taking effect (R102): shown for an integer sum
that saturates in the one thread that issues, and so INTOVF. -/
def Obligations.IssueRulesAndFlagTraps : Prop :=
  (∀ (h : Hdr) (body : State → List Nat → Res) (s : State) (l : Nat),
    let w := s.cur.warp
    issuing s = [l] → l < 32 → (s.warp w).held = false →
    let top : Prop := h.vTop ≤ 32 * (s.warp w).units.length
    let allowed : Prop := h.priv = true → isSup w = true
    let busy := (s.thread w l).slots &&& slotMask s h w l
    (h.priv = true → isSup w = false → Raised s (issue h body s) causePriv [l] (fun _ => 0) (fun _ => 0)) ∧
    (allowed → ¬ top → Raised s (issue h body s) causeRegquota [l] (fun _ => 0) (fun _ => 0)) ∧
    (allowed → top → busy ≠ 0 → issue h body s = s.enter w l (.scoreboard (slotMask s h w l).toNat)) ∧
    (allowed → top → busy = 0 → h.coll = false → guarded h s = [] →
      RegEffect h s (issue h body s) {}) ∧
    (allowed → top → busy = 0 → h.coll = true → (∃ k ∈ s.liveLanes w, k ≠ l ∧ (s.thread w k).wait ≠ .rendezvous) →
      issue h body s = s.enter w l .rendezvous)) ∧
  (∀ (t : IntTy) (f : F64) (s : State) (l : Nat),
    let i : Instr := .addInt t f
    i.wf = true → Issues (hdrOf i f) s → issuing s = [l] → guarded (hdrOf i f) s = [l] → f.md.getLsbD 1 = true →
    (s.warp s.cur.warp).fen.getLsbD 7 = true →
    (∃ k, k < 64 / IntTy.width t ∧ clampInt (IntTy.signed t) (IntTy.width t) (intA t f s l k + intSecond t f s l k) ≠
      intA t f s l k + intSecond t f s l k) →
    ∃ u, exec i s = .next u ∧ Raised s u causeIntOverflow [l] (fun _ => 0) (fun _ => 0))

/-! ### Invariants (R9, R35) -/

/-- Every step of a well-formed state leaves a well-formed state. What the model reads or chooses here: assumption log 71. -/
def Obligations.StepKeepsWellFormed : Prop := ∀ s t : State, s.WellFormed → step s = .next t → t.WellFormed

/-- The machine is well-formed after reset, with no warp, no launch, and device memory zeroed (R421). -/
def Obligations.ResetWellFormed : Prop :=
  State.reset.WellFormed ∧ (∀ w, (State.reset.warp w).live = false) ∧ (∀ l, (State.reset.launches.get l).state = .none) ∧
  (∀ a n, State.reset.devBytes a n = List.replicate n 0) ∧ State.reset.module.inReset = false

/-! ### Integer arithmetic, logic, shifts and bit fields (R117–R124) -/

/-- The integer instructions complete with the exact result of each sub-element wrapped, or saturated with SAT when MOD[62]
asks, or its high half for `mul.hi`; their frame is that of `RegEffect` (R118). -/
def Obligations.IntegerArithmetic : Prop :=
  ∀ (t : IntTy) (g : SgnTy) (f : F64) (s : State),
    ComputesD (.addInt t f) f s (fun l => NarrowedElems t f (fun k => intA t f s l k + intSecond t f s l k)) ∧
    ComputesD (.subInt t f) f s (fun l => NarrowedElems t f (fun k => intA t f s l k - intSecond t f s l k)) ∧
    ComputesD (.mulInt t f) f s (fun l =>
      if f.md.getLsbD 2 then WrappedElems (IntTy.width t) (fun k => (intA t f s l k * intSecond t f s l k) / (2 ^ (IntTy.width t) : Nat))
      else NarrowedElems t f (fun k => intA t f s l k * intSecond t f s l k)) ∧
    ComputesD (.mad t f) f s (fun l => NarrowedElems t f (fun k => intA t f s l k * intB t f s l k + intThird t f s l k)) ∧
    ComputesD (.minInt t f) f s (fun l => WrappedElems (IntTy.width t) (fun k => min (intA t f s l k) (intSecond t f s l k))) ∧
    ComputesD (.maxInt t f) f s (fun l => WrappedElems (IntTy.width t) (fun k => max (intA t f s l k) (intSecond t f s l k))) ∧
    ComputesD (.abs g f) f s (fun l => NarrowedElems (SgnTy.toInt g) f (fun k => ((intA (SgnTy.toInt g) f s l k).natAbs : Int))) ∧
    ComputesD (.neg g f) f s (fun l => NarrowedElems (SgnTy.toInt g) f (fun k => -intA (SgnTy.toInt g) f s l k))

/-- Logic and bit counting act on all 64 bits, bit by bit (R121). -/
def Obligations.BitwiseLogic : Prop :=
  ∀ (f : F64) (s : State),
    let a := fun l => opnd s s.cur.warp l f.lit f.a.toNat
    let b := fun l : Nat => if f.md.getLsbD 0 then f.c.zeroExtend 64 else opnd s s.cur.warp l f.lit f.b.toNat
    ComputesD (.andB f) f s (fun l y fl => fl = 0 ∧ ∀ i, i < 64 → y.getLsbD i = ((a l).getLsbD i && (b l).getLsbD i)) ∧
    ComputesD (.orB f) f s (fun l y fl => fl = 0 ∧ ∀ i, i < 64 → y.getLsbD i = ((a l).getLsbD i || (b l).getLsbD i)) ∧
    ComputesD (.xorB f) f s (fun l y fl => fl = 0 ∧ ∀ i, i < 64 → y.getLsbD i = xor ((a l).getLsbD i) ((b l).getLsbD i)) ∧
    ComputesD (.andnB f) f s (fun l y fl => fl = 0 ∧ ∀ i, i < 64 → y.getLsbD i = ((a l).getLsbD i && !(b l).getLsbD i)) ∧
    ComputesD (.notB f) f s (fun l y fl => fl = 0 ∧ ∀ i, i < 64 → y.getLsbD i = !(a l).getLsbD i) ∧
    ComputesD (.popc f) f s (fun l y fl => fl = 0 ∧ y.toNat = ((List.range 64).filter (fun i => (a l).getLsbD i)).length) ∧
    ComputesD (.clz f) f s (fun l y fl => fl = 0 ∧ y.toNat ≤ 64 ∧ (∀ i, i < 64 → 64 - y.toNat ≤ i → (a l).getLsbD i = false) ∧
      (y.toNat < 64 → (a l).getLsbD (63 - y.toNat) = true)) ∧
    ComputesD (.brev f) f s (fun l y fl => fl = 0 ∧ ∀ i, i < 64 → y.getLsbD i = (a l).getLsbD (63 - i))

/-- Shifts act on each sub-element with the count of the second source's sub-element; a count at or above the width gives
zeros or the sign, and a rotation reduces it (R122). Bit fields follow their specification, cut at bit 63 (R123), and the
funnel shift takes 64 bits of the 128-bit value {B, A} (R124). A literal that `bfx.i64` reads is sign-extended (R72). -/
def Obligations.ShiftsAndBitFields : Prop :=
  ∀ (t : ShTy) (f : F64) (s : State),
    let w := ShTy.width t
    let a := fun l k => srcAt s f l w (64 / w) false f.a.toNat k
    let c := fun l k => secondAt s f l w (64 / w) false k
    let bit := fun (x i : Nat) => bitOf x i
    let A := fun l => (opnd s s.cur.warp l f.lit f.a.toNat).toNat
    let A' := fun l => (opndI64 s s.cur.warp l f.lit f.a.toNat).toNat
    let B := fun l => (opnd s s.cur.warp l f.lit f.b.toNat).toNat
    let C := fun l => (opnd s s.cur.warp l f.lit f.c.toNat).toNat
    let p := fun l => bitsOf (C l) 5 0
    let n := fun l => min (bitsOf (C l) 14 8) (64 - p l)
    ComputesD (.shl t f) f s (fun l y fl => fl = 0 ∧ ∀ k i, k < 64 / w → i < w →
      bit (elem w y k) i = (decide (c l k ≤ i) && bit (a l k) (i - c l k))) ∧
    ComputesD (.shr t f) f s (fun l y fl => fl = 0 ∧ ∀ k i, k < 64 / w → i < w →
      bit (elem w y k) i = (decide (i + c l k < w) && bit (a l k) (i + c l k))) ∧
    ComputesD (.sar t f) f s (fun l y fl => fl = 0 ∧ ∀ k i, k < 64 / w → i < w →
      bit (elem w y k) i = bit (a l k) (min (i + c l k) (w - 1))) ∧
    ComputesD (.rot t f) f s (fun l y fl => fl = 0 ∧ ∀ k i, k < 64 / w → i < w →
      bit (elem w y k) ((i + c l k) % w) = bit (a l k) i) ∧
    ComputesD (.bfx false f) f s (fun l y fl => fl = 0 ∧ ∀ i, i < 64 →
      y.getLsbD i = (decide (i < n l) && bit (A l) (p l + i))) ∧
    ComputesD (.bfx true f) f s (fun l y fl => fl = 0 ∧ ∀ i, i < 64 →
      y.getLsbD i = (decide (0 < n l) && bit (A' l) (p l + min i (n l - 1)))) ∧
    ComputesD (.bfi f) f s (fun l y fl => fl = 0 ∧ ∀ i, i < 64 →
      y.getLsbD i = if p l ≤ i ∧ i < p l + n l then bit (B l) (i - p l) else bit (A l) i) ∧
    ComputesD (.shrf f) f s (fun l y fl => fl = 0 ∧ ∀ i, i < 64 →
      let c := if f.md.getLsbD 0 then f.c.toNat else C l
      y.getLsbD i = (decide (i + c < 128) && (if i + c < 64 then bit (A l) (i + c) else bit (B l) (i + c - 64))))

/-! ### Compares, selection, predicate logic, address formation and moves (R77, R126, R133, R176) -/

/-- `cmp` and predicate logic write predicate D, a write to p7 being discarded (R73); `sel` and `selm` choose whole values and
single bits (R126). Address formation and wide constants wrap modulo 2^64 and raise no flag (R133); the moves copy their
source (R77), and `mfsr` writes the value of a system register (R176). -/
def Obligations.ComparesSelectsAndMoves : Prop :=
  (∀ (cc : Cc) (t : CmpTy) (f : F64) (s : State),
    let a := fun l => extInt (CmpTy.signed t) (CmpTy.width t) (srcAt s f l (CmpTy.width t) 1 (t = .i64) f.a.toNat 0)
    let b := fun l => extInt (CmpTy.signed t) (CmpTy.width t) (secondAt s f l (CmpTy.width t) 1 (t = .i64) 0)
    let p := fun (l : Nat) (x : BitVec 9) => (s.thread s.cur.warp l).p (x.toNat % 8)
    let v := fun (l : Nat) (x : BitVec 9) => opnd s s.cur.warp l f.lit x.toNat
    ComputesP (.cmp cc t f) f s (fun l r => (r = true ↔ match cc with
      | .eq => a l = b l | .ne => a l ≠ b l | .lt => a l < b l | .le => a l ≤ b l | .gt => b l < a l | .ge => b l ≤ a l)) ∧
    ComputesD (.sel f) f s (fun l y fl => fl = 0 ∧ y = if p l f.c then v l f.a else v l f.b) ∧
    ComputesD (.selm f) f s (fun l y fl => fl = 0 ∧
      ∀ i, i < 64 → y.getLsbD i = if (v l f.c).getLsbD i then (v l f.a).getLsbD i else (v l f.b).getLsbD i) ∧
    ComputesP (.pand f) f s (fun l r => r = (p l f.a && p l f.b)) ∧
    ComputesP (.por f) f s (fun l r => r = (p l f.a || p l f.b)) ∧
    ComputesP (.pxor f) f s (fun l r => r = xor (p l f.a) (p l f.b)) ∧
    ComputesP (.pandn f) f s (fun l r => r = (p l f.a && !p l f.b))) ∧
  (∀ (f : F64) (g : F32) (s : State),
    let a := fun l => opnd s s.cur.warp l f.lit f.a.toNat
    let b := fun l => opnd s s.cur.warp l f.lit f.b.toNat
    let lit : BitVec 32 := f.lit.getD 0
    ComputesD (.lea f) f s (fun l y fl => fl = 0 ∧ y = a l + b l <<< f.c.toNat) ∧
    ComputesD (.mvh f) f s (fun l y fl => fl = 0 ∧ y = (lit.zeroExtend 64 <<< 32) ||| ((a l).truncate 32).zeroExtend 64) ∧
    ComputesD (.mvs f) f s (fun _ y fl => fl = 0 ∧ y = lit.signExtend 64) ∧
    ComputesH (hdrOf32 (.mov g) g) (g.body.toNat % 512) (.mov g) s (fun l y fl => fl = 0 ∧
      y = opnd s s.cur.warp l none (g.body.toNat / 512)) ∧
    ComputesD (.movTwinReg f) f s (fun l y fl => fl = 0 ∧ y = a l) ∧
    ComputesD (.movTwinImm f) f s (fun _ y fl => fl = 0 ∧ y = f.c.zeroExtend 64) ∧
    ComputesD (.movTwinLit f) f s (fun _ y fl => fl = 0 ∧ y = lit.zeroExtend 64) ∧
    ComputesD (.mfsr f) f s (fun l y fl => fl = 0 ∧ y = readSr s s.cur.warp l f.c.toNat))


/-! ### Floating point, the divider, special functions and conversions (R86–R100, R128–R147) -/

/-- `add` to `max` of floating point compute each sub-element on its own with the one operation of its kind (R94, R135) and
raise the flags of all; the scalar type writes the rest of D as 0. `fclass` sets one class bit, and raises nothing (R140).
`fcmp` writes the relation of R139 to predicate D, with INVALID on a signalling NaN, or on any NaN where the relation
orders; with a trap enabled for what it raises it has no effect but the cause (R102). -/
def Obligations.FloatArithmeticAndCompare : Prop :=
  (∀ (t : FpTy) (g : FcTy) (f : F64) (s : State),
    let m := FpTy.fmt t
    let n := FpTy.count t
    let a := fun l k => srcAt s f l m.width n false f.a.toNat k
    let b := fun l k => srcAt s f l m.width n false f.b.toNat k
    let c := fun l k => srcAt s f l m.width n false f.c.toNat k
    ComputesD (.addFloat t f) f s (fun l => FloatElems m.width n (fun k => addF m (F64.mode f) false (a l k) (b l k))) ∧
    ComputesD (.subFloat t f) f s (fun l => FloatElems m.width n (fun k => addF m (F64.mode f) true (a l k) (b l k))) ∧
    ComputesD (.mulFloat t f) f s (fun l => FloatElems m.width n (fun k => mulF m (F64.mode f) (a l k) (b l k))) ∧
    ComputesD (.fma t f) f s (fun l => FloatElems m.width n (fun k => fmaF m (F64.mode f) false (a l k) (b l k) (c l k))) ∧
    ComputesD (.fnma t f) f s (fun l => FloatElems m.width n (fun k => fmaF m (F64.mode f) true (a l k) (b l k) (c l k))) ∧
    ComputesD (.minFloat t f) f s (fun l => FloatElems m.width n (fun k => minMaxF m false (a l k) (b l k))) ∧
    ComputesD (.maxFloat t f) f s (fun l => FloatElems m.width n (fun k => minMaxF m true (a l k) (b l k))) ∧
    ComputesD (.fclass g f) f s (fun l y fl => fl = 0 ∧
      y = BitVec.ofNat 64 (2 ^ classOf (FcTy.fmt g) (srcAt s f l (FcTy.fmt g).width 1 false f.a.toNat 0)))) ∧
  (∀ (t : FcTy) (f : F64) (s : State),
    let a := fun l => srcAt s f l (FcTy.fmt t).width 1 false f.a.toNat 0
    let b := fun l => srcAt s f l (FcTy.fmt t).width 1 false f.b.toNat 0
    let nan := fun l => isNanF (FcTy.fmt t) (a l) || isNanF (FcTy.fmt t) (b l)
    let snan := fun l => isSnan (FcTy.fmt t) (a l) || isSnan (FcTy.fmt t) (b l)
    let c := fun l => compareF (FcTy.fmt t) (a l) (b l)
    let rel := fun l => match f.md.toNat with
      | 0 => !nan l && c l == 0
      | 1 => nan l || c l != 0
      | 2 => !nan l && decide (c l < 0)
      | 3 => !nan l && decide (c l ≤ 0)
      | 4 => !nan l && decide (0 < c l)
      | 5 => !nan l && decide (0 ≤ c l)
      | 6 => !nan l
      | _ => nan l
    let inv := fun l => if 2 ≤ f.md.toNat ∧ f.md.toNat ≤ 5 then nan l else snan l
    let h := hdrOf (.fcmp t f) f
    let fl := unionFlags (guarded h s) (fun l => if inv l then flagInvalid else 0)
    Issues h s →
      ((s.warp s.cur.warp).fen &&& fl = 0 → ∃ u, exec (.fcmp t f) s = .next u ∧
        RegEffect h s u { prd := toPred (f.d.toNat % 8) rel, flg := fl }) ∧
      ((s.warp s.cur.warp).fen &&& fl ≠ 0 → ∃ u, exec (.fcmp t f) s = .next u ∧ u.vregs = s.vregs ∧
        (∀ l, l ∈ issuing s → (u.thread s.cur.warp l).preds = (s.thread s.cur.warp l).preds ∧
          (u.thread s.cur.warp l).pc = s.cur.pc) ∧
        (u.warp s.cur.warp).flags = (s.warp s.cur.warp).flags ∧ (u.warp s.cur.warp).syncNew = true ∧
        (u.warp s.cur.warp).cause = (s.warp s.cur.warp).cause ||| (1#32 <<< 6)))

/-- The special values of floating-point arithmetic (R91, R94): the first NaN operand is returned quieted, with INVALID when
an operand signals; with none, ∞ − ∞ and 0 × ∞ give the default NaN with INVALID; and an exact zero sum takes the sign of
its rounding mode: -0 in RDN, +0 otherwise. -/
def Obligations.FloatSpecialValues : Prop :=
  ∀ (t : Fmt) (mode : RMode) (flip : Bool) (a b c : Nat), t ≠ .e4m3 → a < 2 ^ t.width → b < 2 ^ t.width → c < 2 ^ t.width →
    let sig := fun xs : List Nat => if xs.any (isSnan t) then flagInvalid else 0
    (isNanF t a = true → (addF t mode flip a b).1 = quietF t a ∧ (mulF t mode a b).1 = quietF t a ∧
      (fmaF t mode flip a b c).1 = quietF t a ∧ minMaxF t flip a b = (quietF t a, sig [a, b])) ∧
    (isNanF t a = false → isNanF t b = true → (addF t mode flip a b) = (quietF t b, sig [b]) ∧
      (mulF t mode a b) = (quietF t b, sig [b]) ∧ (fmaF t mode flip a b c).1 = quietF t b) ∧
    (isNanF t a = false → isNanF t b = false → isNanF t c = true → (fmaF t mode flip a b c).1 = quietF t c) ∧
    (∀ n : Bool, addF t mode flip (infF t n) (infF t (!xor n flip)) = (t.defNan, flagInvalid)) ∧
    (∀ n k : Bool, mulF t mode (zeroF t n) (infF t k) = (t.defNan, flagInvalid) ∧
      mulF t mode (infF t k) (zeroF t n) = (t.defNan, flagInvalid)) ∧
    (isNanF t a = false → a % t.signBit ≠ t.infCode → a % t.signBit ≠ 0 →
      addF t mode false a (a ^^^ t.signBit) = (zeroF t (mode = .rdn), 0))

/-- The value of a finite code, as a rational number; 0 for the codes that have none. -/
def finValue (t : Fmt) (x : Nat) : ℚ :=
  match unpackF t x with
  | .fin neg m e => (if neg then -1 else 1) * (m : ℚ) * (2 : ℚ) ^ e
  | _ => 0

/-- Rounding is correct (R89, R92): an exact value that does not overflow becomes the code that its mode names among all
finite codes of the format, INEXACT says exactly whether it has changed, and OVERFLOW is not raised. -/
def Obligations.RoundingIsCorrect : Prop :=
  ∀ (t : Fmt) (mode : RMode) (neg : Bool) (m : Nat) (e : Int), m ≠ 0 →
    let x : ℚ := (if neg then -1 else 1) * (m : ℚ) * (2 : ℚ) ^ e
    let r := roundF t mode neg m e false
    let y := finValue t r.1
    let isFin := fun z : Nat => z < 2 ^ t.width ∧ (∃ n k j, unpackF t z = .fin n k j)
    r.2.getLsbD 2 = false →
      isFin r.1 ∧ (r.2.getLsbD 4 = true ↔ y ≠ x) ∧
      ∀ z, isFin z → match mode with
        | .rne => |x - y| ≤ |x - finValue t z| ∧ (|x - y| = |x - finValue t z| → finValue t z ≠ y → r.1 % 2 = 0)
        | .rtz => |y| ≤ |x| ∧ (|finValue t z| ≤ |x| → |finValue t z| ≤ |y|)
        | .rup => x ≤ y ∧ (x ≤ finValue t z → y ≤ finValue t z)
        | .rdn => y ≤ x ∧ (finValue t z ≤ x → finValue t z ≤ y)

/-- Division truncates toward zero and the remainder takes the dividend's sign; a zero divisor and the signed overflow give
the values and the flags of R129. With a slot the results wait whole for the divider (R116). -/
def Obligations.Division : Prop :=
  ∀ (t : DivTy) (f : F64) (s : State),
    let w := (DivTy.width t)
    let a := fun l k => extInt (DivTy.signed t) w (srcAt s f l w (64 / w) (t = .i64) f.a.toNat k)
    let b := fun l k => extInt (DivTy.signed t) w (secondAt s f l w (64 / w) (t = .i64) k)
    let ovf := fun l k => decide ((DivTy.signed t) = true ∧ a l k = -(2 ^ (w - 1) : Nat) ∧ b l k = -1)
    let q := fun (l k : Nat) => if b l k = 0 then (-1 : Int) else if ovf l k then -(2 ^ (w - 1) : Nat) else Int.tdiv (a l k) (b l k)
    let r := fun (l k : Nat) => if b l k = 0 then a l k else if ovf l k then 0 else a l k - Int.tdiv (a l k) (b l k) * b l k
    let fl := fun l => unionFlags (List.range (64 / w)) (fun k => if b l k = 0 then flagIdivzero else if ovf l k then flagIdivovf else 0)
    let holds := fun (x : Nat → Int) (y : Word) => ∀ k, k < 64 / w → elem w y k = wrapInt w (x k)
    ComputesInUnit .divider (.div t f) f s (fun l xs g => g = fl l ∧ ∃ y, xs = [(f.d.toNat, y)] ∧ holds (q l) y) ∧
    ComputesInUnit .divider (.rem t f) f s (fun l xs g => g = fl l ∧ ∃ y, xs = [(f.d.toNat, y)] ∧ holds (r l) y) ∧
    ComputesInUnit .divider (.divm t f) f s (fun l xs g => g = fl l ∧
      ∃ y z, xs = [(f.d.toNat, y), (f.d.toNat + 1, z)] ∧ holds (q l) y ∧ holds (r l) z)

/-- The special functions and `cvt` compute each sub-element or element on its own and raise the flags of all of them; with a
slot their results wait whole for their unit (R142, R144, R145). What the model reads or chooses here: assumption log 87. -/
def Obligations.SpecialFunctionsAndConversions : Prop :=
  ∀ (packed : Bool) (f : F64) (s : State),
    let n := if packed then 2 else 1
    let a := fun l k => srcAt s f l 32 n false f.a.toNat k
    let b := fun l k => srcAt s f l 32 n false f.b.toNat k
    let m := F64.mode f
    let sf := fun (op : Nat → Nat × BitVec 9) (l : Nat) (xs : List (Nat × Word)) (fl : BitVec 9) =>
      ∃ y, xs = [(f.d.toNat, y)] ∧ FloatElems 32 n (fun k => op (a l k)) y fl
    ComputesInUnit .special (.frnd packed f) f s (sf (frndF m)) ∧
    ComputesInUnit .special (.fexpf packed f) f s (sf (fexpfF m)) ∧
    ComputesInUnit .special (.fscale packed f) f s (fun l xs fl =>
      ∃ y, xs = [(f.d.toNat, y)] ∧ FloatElems 32 n (fun k => fscaleF m (a l k) (b l k)) y fl) ∧
    ComputesInUnit .special (.frcp packed f) f s (sf (frcpF m)) ∧
    ComputesInUnit .special (.frsqrt packed f) f s (sf (frsqrtF m)) ∧
    ComputesInUnit .special (.fsqrt packed f) f s (sf (fsqrtF m)) ∧
    ComputesInUnit .special (.flog2 packed f) f s (sf (flog2F m)) ∧
    ComputesInUnit .conversion (.cvt f) f s (fun l xs fl =>
      let dc := f.c.toNat % 16
      let sc := f.c.toNat / 16 % 16
      let wd := cvtWidth dc
      let ws := cvtWidth sc
      let k := 64 / max ws wd
      let x := opnd s s.cur.warp l f.lit f.a.toNat
      let r := fun i => cvtElem (cvtFmt sc) (cvtFmt dc) m (elem ws x ((if ws < wd then f.b.toNat * k else 0) + i))
      ∃ y, xs = [(f.d.toNat, y)] ∧
        (∀ j, j < 64 / wd → elem wd y j =
          let at_ := if wd < ws then f.b.toNat * k else 0
          if at_ ≤ j ∧ j < at_ + k then (r (j - at_)).1 % 2 ^ wd else 0) ∧
        fl = unionFlags (List.range k) (fun i => (r i).2))

/-! ### Cross-lane instructions (R153–R156) -/

/-- Shuffles, broadcasts, votes and elections read every live lane at the rendezvous and write D (R155). The reductions take
the pairwise tree over the 32 lanes and then over the positions, with the identity of the operation in excluded lanes
(R156), and raise the flags of every step. -/
def Obligations.CrossLaneAndReductions : Prop :=
  (∀ (t : ShTy) (f : F64) (s : State),
    let w := ShTy.width t
    let n := 64 / w
    let gl := fun i => guardLanes (laneHdr i f) s
    let pa := fun l => (s.thread s.cur.warp l).p (f.a.toNat % 8)
    ComputesVW (.shfl t f) f s (fun l y fl => fl = 0 ∧ ∀ k, k < n →
      let sel := if f.md.getLsbD 0 then f.c.toNat else srcAt s f l w n false f.b.toNat k
      elem w y k = srcAt s f (sel % 32) w n false f.a.toNat (sel / 32 % n)) ∧
    ComputesVW (.bcast f) f s (fun l y fl => fl = 0 ∧
      y = opnd s s.cur.warp (if f.md.getLsbD 0 then f.c.toNat % 32 else (opnd s s.cur.warp l f.lit f.b.toNat).toNat % 32)
        f.lit f.a.toNat) ∧
    ComputesVote (.ptestSome f) f s (fun _ r => (r = true ↔ ∃ l ∈ gl (.ptestSome f), pa l = true)) ∧
    ComputesVote (.ptestEvery f) f s (fun _ r => (r = true ↔ ∀ l ∈ gl (.ptestEvery f), pa l = true)) ∧
    ComputesVote (.ptestAlike f) f s (fun _ r => (r = true ↔
      (∀ l ∈ gl (.ptestAlike f), pa l = true) ∨ (∀ l ∈ gl (.ptestAlike f), pa l = false))) ∧
    ComputesVW (.pmask f) f s (fun _ y fl => fl = 0 ∧ ∀ i, i < 64 →
      y.getLsbD i = ((gl (.pmask f)).contains i && pa i)) ∧
    ComputesVote (.elect f) f s (fun l r => (r = true ↔ ∀ k ∈ gl (.elect f), l ≤ k))) ∧
  (∀ (f : F64) (s : State),
    let by_ := fun (i64 : Bool) (i : Instr) (w n k : Nat) op ident => ComputesVW i f s (fun _ => ReducedBy w n k i64 op ident i f s)
    let reds := by_ false
    let add := fun w => exactStep (fun a b => (a + b) % 2 ^ w)
    reds (.redAdd .b32x2 f) 32 2 1 (add 32) 0 ∧ reds (.redAdd .b64 f) 64 1 0 (add 64) 0 ∧
    reds (.redAdd .f32 f) 32 1 0 (addF .f32 (F64.mode f) false) (2 ^ 31) ∧
    reds (.redAdd .f32x2 f) 32 2 1 (addF .f32 (F64.mode f) false) (2 ^ 31) ∧
    reds (.redAdd .f16x4 f) 16 4 2 (addF .f16 (F64.mode f) false) (2 ^ 15) ∧
    reds (.redAdd .bf16x4 f) 16 4 2 (addF .bf16 (F64.mode f) false) (2 ^ 15) ∧
    reds (.redMin .i32x2 f) 32 2 1 (exactStep (codeMin true 32)) (2 ^ 31 - 1) ∧
    reds (.redMin .n32x2 f) 32 2 1 (exactStep (codeMin false 32)) (2 ^ 32 - 1) ∧
    by_ true (.redMin .i64 f) 64 1 0 (exactStep (codeMin true 64)) (2 ^ 63 - 1) ∧
    reds (.redMin .n64 f) 64 1 0 (exactStep (codeMin false 64)) (2 ^ 64 - 1) ∧
    reds (.redMin .f32 f) 32 1 0 (minMaxF .f32 false) 0x7F800000 ∧
    reds (.redMin .f32x2 f) 32 2 1 (minMaxF .f32 false) 0x7F800000 ∧
    reds (.redMax .i32x2 f) 32 2 1 (exactStep (codeMax true 32)) (2 ^ 31) ∧
    reds (.redMax .n32x2 f) 32 2 1 (exactStep (codeMax false 32)) 0 ∧
    by_ true (.redMax .i64 f) 64 1 0 (exactStep (codeMax true 64)) (2 ^ 63) ∧
    reds (.redMax .n64 f) 64 1 0 (exactStep (codeMax false 64)) 0 ∧
    reds (.redMax .f32 f) 32 1 0 (minMaxF .f32 true) 0xFF800000 ∧
    reds (.redMax .f32x2 f) 32 2 1 (minMaxF .f32 true) 0xFF800000 ∧
    reds (.redAnd f) 64 1 0 (exactStep (· &&& ·)) (2 ^ 64 - 1) ∧ reds (.redOr f) 64 1 0 (exactStep (· ||| ·)) 0 ∧
    reds (.redXor f) 64 1 0 (exactStep (· ^^^ ·)) 0)


/-! ### Control (R77, R151, R152, R177) -/

/-- `nop`, `wait` and their twins have no effect beyond their issue condition, which for `wait` names the slots in BODY or
WAIT (R77); `yield` and its twin leave the ready set until the next formation (R36, R151). `exit` waits for every slot, is
a release at `.sys`, for which the parking buffer must have room while the host is lost (R404), and ends its guard-true
threads; with a thread left and none of the others at a rendezvous, the rest of the warp goes on (R33, R151, R152). What
the model reads or chooses here: assumption log 10. -/
def Obligations.NopWaitYieldAndExit : Prop :=
  (∀ (g : F32) (f : F64) (s : State),
    let past := fun (h : Hdr) (i : Instr) => Issues h s → ∃ t, exec i s = .next t ∧ RegEffect h s t {}
    let yields := fun (h : Hdr) (i : Instr) => Issues h s → ∃ t, exec i s = .next t ∧ t = { s with threads := t.threads } ∧
      ∀ w l, l < 32 → t.thread w l =
        if w = s.cur.warp ∧ l ∈ guarded h s then { (s.thread w l).past s.cur.pc h.len s.tick with wait := .formation }
        else if w = s.cur.warp ∧ l ∈ issuing s then (s.thread w l).past s.cur.pc h.len s.tick
        else s.thread w l
    past (hdrOf32 (.nop g) g) (.nop g) ∧ past (hdrOf (.nopTwin f) f) (.nopTwin f) ∧
    past { hdrOf32 (.wait g) g with wait := g.body.truncate 6 } (.wait g) ∧
    past (hdrOf (.waitTwin f) f) (.waitTwin f) ∧
    yields (hdrOf32 (.yield g) g) (.yield g) ∧ yields (hdrOf (.yieldTwin f) f) (.yieldTwin f)) ∧
  (∀ (g : F32) (f : F64) (s : State),
    let w := s.cur.warp
    let exits := fun (h : Hdr) (i : Instr) => i.wf = true → Issues h s → guarded h s ≠ [] →
      sysRoom s w (8 * scopeSys) = true → (s.release w scopeSys).absent = none →
      ∃ t, exec i s = .next t ∧ t.vregs = s.vregs ∧ t.mem = (s.release w scopeSys).mem ∧
        (∀ l ∈ guarded h s, (t.thread w l).live = false ∧ (t.thread w l).pc = s.cur.pc) ∧
        (∀ l ∈ issuing s, l ∉ guarded h s → (t.thread w l).live = true ∧
          (t.thread w l).pc = s.cur.pc + BitVec.ofNat 64 h.len) ∧
        (∀ p ∈ t.port, p.core ≠ coreOf w) ∧
        (s.launchOf w ≠ 0 → (∀ l, l < 32 → (s.thread w l).live = true → l ∈ guarded h s) →
          (t.launches.get (s.launchOf w)).flags =
            ((s.release w scopeSys).launches.get (s.launchOf w)).flags ||| (s.warp w).flags)
    exits { hdrOf32 (.exit g) g with drain := true, rel := some scopeSys } (.exit g) ∧
    exits { hdrOf (.exitTwin f) f with drain := true, rel := some scopeSys } (.exitTwin f))

/-- Branches go to PC + 4·o and jumps to the value of A; a far target raises BOUNDS and a misaligned jump ALIGN, with no
thread moved (R151, R152). A call pushes the next PC as a relaxed store of its thread and goes to its target; a call to a
far target raises BOUNDS, before it looks at the spill stack, which is the model's reading (log 19). A return pops a PC
and goes there, or raises ALIGN where that PC is misaligned and BOUNDS where it is far. STACK is raised at the depth limit
and at depth 0, with no effect (R150–R152). The access checks are those of R26. What the model reads or chooses here:
assumption log 13, 19 and 98. -/
def Obligations.BranchesJumpsCallsAndReturns : Prop :=
  (∀ (g : F32) (f : F64) (s : State),
    let jumps := fun (h : Hdr) (i : Instr) (align : Bool) (tgt : Nat → Word) => i.wf = true → Issues h s →
      ((∀ l ∈ guarded h s, (tgt l).toNat < 2 ^ 56 ∧ (align = true → (tgt l).toNat % 4 = 0)) →
        ∃ t, exec i s = .next t ∧ BranchEffect h s t tgt) ∧
      (∀ l, guarded h s = [l] → align = true → (tgt l).toNat % 4 ≠ 0 →
        ∃ t, exec i s = .next t ∧ Raised s t causeAlign [l] (fun l => (tgt l).toNat) (fun _ => 0)) ∧
      (∀ l, guarded h s = [l] → (align = true → (tgt l).toNat % 4 = 0) → 2 ^ 56 ≤ (tgt l).toNat →
        ∃ t, exec i s = .next t ∧ Raised s t causeBounds [l] (fun l => (tgt l).toNat) (fun _ => 0))
    jumps (hdrOf32 (.bra g) g) (.bra g) false (fun _ => s.cur.pc + BitVec.ofInt 64 (4 * g.body.toInt)) ∧
    jumps (hdrOf (.braTwin f) f) (.braTwin f) false (fun _ => s.cur.pc + BitVec.ofInt 64 (4 * (f.lit.getD 0).toInt)) ∧
    jumps (hdrOf32 (.jmp g) g) (.jmp g) true (fun l => opnd s s.cur.warp l none (g.body.toNat / 512)) ∧
    jumps (hdrOf (.jmpTwinReg f) f) (.jmpTwinReg f) true (fun l => opnd s s.cur.warp l f.lit f.a.toNat) ∧
    jumps (hdrOf (.jmpTwinLit f) f) (.jmpTwinLit f) true (fun l => opnd s s.cur.warp l f.lit f.a.toNat)) ∧
  (∀ (g : F32) (f : F64) (s s1 : State) (gs : List Got),
    let w := s.cur.warp
    let calls := fun (h : Hdr) (i : Instr) (tgt : Word) => i.wf = true → Issues h s → guarded h s ≠ [] →
      (∀ l, guarded h s = [l] → 2 ^ 56 ≤ tgt.toNat → s.absent = none →
        ∃ t, exec i s = .next t ∧ Raised s t causeBounds [l] (fun _ => tgt.toNat) (fun _ => 0)) ∧
      (tgt.toNat < 2 ^ 56 → (∀ l ∈ guarded h s, (s.thread w l).spd < spillLimit s w) →
        checkAccess s w .global .write 8 8 false
          ((guarded h s).map (fun l => (l, spillAddr s w l (s.thread w l).spd))) = .ok s1 gs →
        (chargeAccess s1 w (8 * gs.length)).absent = none → (∀ x ∈ gs, ∃ pa, x.loc = .dev pa) →
        ∃ t, exec i s = .next t ∧ t.vregs = s1.vregs ∧ t.mem = s1.mem ∧
          t.port.map (fun p => (p.core, p.va, p.loc, p.bytes)) = s1.port.map (fun p => (p.core, p.va, p.loc, p.bytes)) ++
            gs.map (fun x => (coreOf w, x.addr, x.loc, leBytes 8 (s.cur.pc + BitVec.ofNat 64 h.len).toNat)) ∧
          ∀ l ∈ guarded h s, (t.thread w l).pc = tgt ∧ (t.thread w l).spd = (s1.thread w l).spd + 1) ∧
      (∀ l, tgt.toNat < 2 ^ 56 → guarded h s = [l] → spillLimit s w ≤ (s.thread w l).spd → s.absent = none →
        ∃ t, exec i s = .next t ∧ Raised s t causeStack [l] (fun _ => 0) (fun _ => 0))
    let rets := fun (h : Hdr) (i : Instr) => i.wf = true → Issues h s →
      (∀ l pa, guarded h s = [l] → (s.thread w l).spd ≠ 0 →
        checkAccess s w .global .read 8 8 false [(l, spillAddr s w l ((s.thread w l).spd - 1))] =
          .ok s1 [{ lane := l, addr := spillAddr s w l ((s.thread w l).spd - 1), loc := .dev pa }] →
        let s2 := (chargeAccess s1 w 8).drainLine (coreOf w) (.dev pa)
        let top := leNat (s2.devBytes pa 8)
        (s2.absent = none → top % 4 = 0 → top < 2 ^ 56 →
          ∃ t, exec i s = .next t ∧ t.vregs = s2.vregs ∧ t.mem = s2.mem ∧ (t.thread w l).pc = BitVec.ofNat 64 top ∧
            (t.thread w l).spd = (s2.thread w l).spd - 1) ∧
        (s.absent = none → top % 4 ≠ 0 → ∃ t, exec i s = .next t ∧ Raised s t causeAlign [l] (fun _ => top) (fun _ => 0)) ∧
        (s.absent = none → top % 4 = 0 → 2 ^ 56 ≤ top →
          ∃ t, exec i s = .next t ∧ Raised s t causeBounds [l] (fun _ => top) (fun _ => 0))) ∧
      (∀ l, guarded h s = [l] → (s.thread w l).spd = 0 → s.absent = none →
        ∃ t, exec i s = .next t ∧ Raised s t causeStack [l] (fun _ => 0) (fun _ => 0))
    calls { hdrOf32 (.call g) g with mem := true } (.call g) (s.cur.pc + BitVec.ofInt 64 (4 * g.body.toInt)) ∧
    calls { hdrOf (.callTwin f) f with mem := true } (.callTwin f) (s.cur.pc + BitVec.ofInt 64 (4 * (f.lit.getD 0).toInt)) ∧
    rets { hdrOf32 (.ret g) g with mem := true } (.ret g) ∧ rets { hdrOf (.retTwin f) f with mem := true } (.retTwin f))

/-- `trap` raises TRAP and `brk` BREAK, in their guard-true threads, with their code and with the next instruction as the
frame's PC; while a hold-mode session is open on the owner `brk` goes to the debugger instead, and its scope stops (R177,
R199, R406). `tret` restores a handler's threads from their frames and the warp's FEN from its first, and leaves the
handler; outside a handler it raises ILLEGAL (R198, R203). Stated for a warp with one live thread. `tabort` ends its
launch with ABORTED and its code, naming its workgroup, and the launch's warps issue no more; in the supervisor warp it
raises ILLEGAL (R61, R62, R203). What the model reads or chooses here: assumption log 18. -/
def Obligations.TrapBreakReturnAndAbort : Prop :=
  (∀ (g : F32) (f : F64) (s : State),
    let w := s.cur.warp
    let traps := fun (h : Hdr) (i : Instr) (bit code : Nat) => ∃ t, exec i s = .next t ∧ t.vregs = s.vregs ∧ t.mem = s.mem ∧
      (t.warp w).cause = (s.warp w).cause ||| (1#32 <<< bit) ∧ (t.warp w).syncNew = true ∧
      (∀ l ∈ guarded h s, (t.thread w l).raised = true ∧ (t.thread w l).code = code ∧
        (t.thread w l).pc = s.cur.pc + BitVec.ofNat 64 h.len) ∧
      (∀ l, l < 32 → l ∉ guarded h s → (t.thread w l).raised = (s.thread w l).raised ∧ (t.thread w l).pc = (s.thread w l).pc)
    let trapI := fun (h : Hdr) (i : Instr) (code : Nat) => i.wf = true → Issues h s → guarded h s ≠ [] → traps h i 18 code
    let brkI := fun (h : Hdr) (i : Instr) (code : Nat) => i.wf = true → Issues h s → guarded h s ≠ [] →
      (holdSession s (s.warp w).owner = false → traps h i 13 code) ∧
      (holdSession s (s.warp w).owner = true → ∃ t, exec i s = .next t ∧ t.vregs = s.vregs ∧ t.mem = s.mem ∧
        (w ∈ scopeWarps s w (s.sessions.get (s.warp w).owner).scope → (t.warp w).stopped = true) ∧
        (t.sessions.get (s.warp w).owner).report = 3 ∧ (t.warp w).cause = (s.warp w).cause ∧
        ∀ l ∈ guarded h s, (t.thread w l).pc = s.cur.pc + BitVec.ofNat 64 h.len)
    trapI (hdrOf32 (.trap g) g) (.trap g) (g.body.toNat % 2 ^ 16) ∧
    trapI (hdrOf (.trapTwin f) f) (.trapTwin f) ((f.lit.getD 0).toNat % 2 ^ 16) ∧
    brkI (hdrOf32 (.brk g) g) (.brk g) (g.body.toNat % 2 ^ 16) ∧
    brkI (hdrOf (.brkTwin f) f) (.brkTwin f) ((f.lit.getD 0).toNat % 2 ^ 16)) ∧
  ((∀ (f : F64) (s s1 : State) (l : Nat) (gs : List Got),
    let w := s.cur.warp
    let i : Instr := .tret f
    let h : Hdr := { hdrOf i f with coll := true, mem := true }
    let d := (s.thread w l).spd
    let word := fun (k : Nat) => leNat ((List.range 8).map (fun j => s1.byteAt (((gs.map (fun (g : Got) => g.loc)).getD k default).plus j)))
    i.wf = true → Issues h s → s.liveLanes w = [l] → guardLanes h s = [l] → s.absent = none →
    ((s.warp w).inHandler = false →
      ∃ t, exec i s = .next t ∧ Raised s t causeIllegal [l] (fun _ => 0) (fun _ => 0)) ∧
    ((s.warp w).inHandler = true → 4 ≤ d →
      checkAccess s w .global .read 8 8 false ((List.range 4).map (fun k => (l, spillAddr s w l (d - 4 + k)))) = .ok s1 gs →
      s1.port = [] → (∀ g ∈ gs, g.loc.onDevice 8) → s1.absent = none → word 0 % 4 = 0 → word 0 < 2 ^ 56 →
      ∃ t, exec i s = .next t ∧ t.vregs = s1.vregs ∧ t.wregs = s1.wregs ∧ (∀ l', t.byteAt l' = s1.byteAt l') ∧
        t.warp w = { s.warp w with fen := BitVec.ofNat 9 (bitsOf (word 2) 40 32), inHandler := false } ∧
        (t.thread w l).pc = BitVec.ofNat 64 (word 0) ∧ (t.thread w l).preds = BitVec.ofNat 7 (bitsOf (word 1) 13 7) ∧
        (t.thread w l).spd = d - 4 ∧ (t.thread w l).wait = .ready ∧ (t.thread w l).raised = false ∧
        (t.thread w l).slots = (s.thread w l).slots)) ∧
  (∀ (f : F64) (s : State),
    let w := s.cur.warp
    let i : Instr := .tabort f
    let h := hdrOf i f
    let k := s.launchOf w
    let aborted := { s.launches.get k with
      ending := true, endTick := s.tick, state := .ending, status := statusAborted, detail := f.c.toNat,
      failWg := some (s.wg w).index, refused := [] }
    i.wf = true → Issues h s →
    (∀ l, guarded h s = [l] → isSup w = true → ∃ t, exec i s = .next t ∧ Raised s t causeIllegal [l] (fun _ => 0) (fun _ => 0)) ∧
    (guarded h s ≠ [] → isSup w = false → (s.launches.get k).state ≠ .none → (s.launches.get k).ending = false →
      ∃ t, exec i s = .next t ∧ t.launches = s.launches.set k aborted ∧
        t.agenda = s.agenda ++ [.launchEnd k] ∧ t.vregs = s.vregs ∧ t.mem = s.mem ∧
        ∀ v, t.warp v = if v ∈ warpsOfLaunch s k then { s.warp v with stopped := true } else s.warp v)))
/-! ### Checks of a thread's access (R26) -/

/-- The five checks of an access, in their order, in one lane: ALIGN or BOUNDS, then translation, then RANGELOCK, then a wait
for presence, then MEMRACE; an access that passes them all goes on (R20, R24, R26, R84, R190). What the model reads or
chooses here: assumption log 73. -/
def Obligations.AccessChecks : Prop :=
  ∀ (s : State) (w l a n : Nat) (sp : Space) (acc : Acc) (cnt : Bool) (e : TlbEntry), 0 < n → acc ≠ .exec →
    let owner := (s.warp w).owner
    let loc := if sp = .global then Loc.dev (e.frame + (a - e.va)) else localLoc s w sp a
    let g : Got := { lane := l, addr := a, loc := loc }
    let hit : Prop := sp = .global → tlbFind s (tlbQuad (quadOf w)) owner a acc = some e ∧ e.tier ≠ 2
    let free : Prop := ∀ k ∈ s.locks, lockStops k sp acc cnt = true → lockMeets k owner loc a n = none
    let there : Prop := acc = .write ∨ absentLine s loc = none
    let quiet : Prop := cnt = true ∨ raceAt s (s.warp w).vgid loc n = none
    let fits : Prop := a + n ≤ allotment s w sp ∧ isSup w = false
    let chk := checkAccess s w sp acc n n cnt [(l, a)]
    (a % n ≠ 0 → chk = .trap [{ lane := l, bit := causeAlign, addr := a }]) ∧
    (a % n = 0 → allotment s w sp < a + n → chk = .trap [{ lane := l, bit := causeBounds, addr := a }]) ∧
    (a % n = 0 → fits → hit → ∀ i, lockedAt s owner sp acc cnt n g = some i →
      chk = .trap [{ lane := l, bit := causeRangelock, addr := a + i }]) ∧
    (a % n = 0 → fits → sp ≠ .global → free → acc ≠ .write → ∀ k, absentLine s loc = some k →
      chk = .hold (s.enter w l (.presence (sp == .marver) [k]))) ∧
    (a % n = 0 → fits → hit → free → there → cnt = false → ∀ i, raceAt s (s.warp w).vgid loc n = some i →
      chk = .trap [{ lane := l, bit := causeMemrace, addr := a + i }]) ∧
    (a % n = 0 → fits → hit → free → there → quiet → ∃ t, chk = .ok t [g] ∧ t = { s with tlb := t.tlb }) ∧
    (a % n = 0 → fits → sp ≠ .global → free → there → quiet → chk = .ok s [g])

/-! ### Loads, stores, atomics (R157, R158, R162, R163, R178) -/

/-- A relaxed load without a slot, where its checks pass and no accepted store waits at a memory port, writes D (and D + 1 for
`.b128`) in each guard-true lane with the zero-extended or sign-extended bytes at its address, and changes nothing else
but the lines its own translation touched (R157, R158). -/
def Obligations.LoadsReadMemory : Prop :=
  ∀ (sp : Space) (t : MemTy) (f : F64) (s s1 : State) (gs : List Got),
    let w := s.cur.warp
    let n := MemTy.bytes t
    let i : Instr := .ld sp t f
    let h := memHdr i f (memOrder f)
    let bytes := fun (g : Got) => leNat ((List.range n).map (fun k => s1.byteAt (g.loc.plus k)))
    let value := fun (g : Got) (k : Nat) =>
      if k = f.d.toNat ∧ k < 384 then
        some (BitVec.ofInt 64 (if MemTy.signed t then sextInt (8 * n) (bytes g) else (bytes g : Int)))
      else if t = .b128 ∧ k = f.d.toNat + 1 then some (BitVec.ofNat 64 (bytes g / 2 ^ 64))
      else none
    let vec := fun (l k : Nat) => (gs.find? (fun g => g.lane == l)).bind (fun g => value g k)
    i.wf = true → Issues h s → guarded h s ≠ [] → isSup w = false → f.set = 0 → memOrder f = 0 → s1.absent = none →
    checkAccess s w sp .read n n false ((guarded h s).map (fun l => (l, memAddr s w f l))) = .ok s1 gs →
    s1.port = [] → (∀ g ∈ gs, g.loc.onDevice n) →
    ∃ u, exec i s = .next u ∧ RegEffect h s1 u { vec := vec }

/-- A store without a slot in one lane, relaxed or a release: to the bench, to marver, or to global memory beyond the scope
`.wg`, it replaces the bytes at its address, and no other byte (at `.sys` too, when the owner has no host line to flush);
at `.wg` a global store goes to the core's memory port, and at `.die` one to a line that another die homes to the ordered
path there, and no byte changes yet. Registers stay; D writes nothing (R157, R158, R178). What the model reads or chooses
here: assumption log 9. -/
def Obligations.StoresWriteMemory : Prop :=
  ∀ (sp : Space) (t : StTy) (f : F64) (s s1 : State) (g : Got),
    let w := s.cur.warp
    let n := StTy.bytes t
    let i : Instr := .st sp t f
    let h := memHdr i f (memOrder f)
    let lo := opnd s w g.lane f.lit f.b.toNat
    let hi := opnd s w g.lane f.lit (f.b.toNat + 1)
    let data := leBytes n (if t = .b128 then lo.toNat + 2 ^ 64 * hi.toNat else lo.toNat % 2 ^ (8 * n))
    let s2 := if ordRel (memOrder f) then s1.release w (ordScope (memOrder f)) else s1
    let crossing := decide (ordScope (memOrder f) = scopeDie)
    let atPort : Prop := ∃ pa, g.loc = .dev pa ∧ (ordScope (memOrder f) = scopeWg ∨ (crossing = true ∧ g.loc.home ≠ dieOf w))
    i.wf = true → Issues h s → guarded h s = [g.lane] → isSup w = false → f.set = 0 →
    checkAccess s w sp .write n n false [(g.lane, memAddr s w f g.lane)] = .ok s1 [g] →
    s1.port = [] → s1.absent = none → g.loc.onDevice n → (ordScope (memOrder f) = scopeSys → s1.hostL2 = []) →
    sysRoom s w (memOrder f) = true →
    ∃ u, exec i s = .next u ∧ SameRegs s1 u ∧ u.absent = none ∧ u.pending = s1.pending ∧
      (atPort → (∀ l', u.byteAt l' = s1.byteAt l') ∧ u.opened = s2.opened ∧
        u.port.map (fun p => (p.core, p.owner, p.vgid, p.va, p.loc, p.bytes, p.cross)) =
          [(coreOf w, (s1.warp w).owner, (s1.warp w).vgid, g.addr, g.loc, data, crossing)]) ∧
      (¬ atPort → StoresAt s1 u g.loc data ∧ u.port = []) ∧
      ∀ v l, l < 32 → (u.thread v l).pc = (if v = w ∧ l ∈ issuing s then s.cur.pc + BitVec.ofNat 64 h.len else (s1.thread v l).pc)
        ∧ (u.thread v l).preds = (s1.thread v l).preds

/-- A relaxed atomic without a slot in one lane returns the old value in D and replaces it with the operation's new value, in
one step; it opens no line, and only `fadd` raises flags (R162, R163). Nothing else changes. -/
def Obligations.AtomicsReturnTheOldValue : Prop :=
  ∀ (t : AtTy) (fa : FaTy) (f : F64) (s s1 : State) (g : Got),
    let w := s.cur.warp
    let b := (if t = .i64 then opndI64 s w g.lane f.lit f.b.toNat else opnd s w g.lane f.lit f.b.toNat).toNat
    let x := (opnd s w g.lane f.lit f.b.toNat).toNat
    let c := (s.v w g.lane (f.b.toNat + 1)).toNat
    let ext := extInt (AtTy.signed t) (AtTy.width t)
    let atom := fun (i : Instr) (bits : Nat) (new : Nat → Nat) (fl : Nat → BitVec 9) =>
      let h := memHdr i f f.c.toNat
      let n := bits / 8
      let old := leNat ((List.range n).map (fun k => s1.byteAt (g.loc.plus k)))
      i.wf = true → Issues h s → guarded h s = [g.lane] → isSup w = false → f.set = 0 → f.c.toNat % 8 = 0 →
      sysRoom s w f.c.toNat = true → checkAccess s w (modSpace f) .atomic n n false [(g.lane, atomAddr s w f g.lane)] = .ok s1 [g] →
      s1.port = [] → s1.absent = none → g.loc.onDevice n →
      (s1.warp w).fen &&& fl old = 0 →
      ∃ u, exec i s = .next u ∧ StoresAt s1 u g.loc (leBytes n (new old)) ∧ u.opened = s1.opened ∧ u.port = [] ∧
        u.wregs = s1.wregs ∧ u.acc = s1.acc ∧
        (∀ v k m, k < 32 → m < 512 → u.v v k m =
          if v = w ∧ k = g.lane ∧ m = f.d.toNat ∧ m < 384 then BitVec.ofNat 64 old else s1.v v k m) ∧
        (∀ v, u.warp v = if v = w then { s1.warp w with flags := (s1.warp w).flags ||| fl old } else s1.warp v) ∧
        ∀ l, l ∈ issuing s → (u.thread w l).pc = s.cur.pc + BitVec.ofNat 64 h.len
    let plain := fun (i : Instr) (new : Nat → Nat) => atom i (AtTy.width t) new (fun _ => 0)
    let wd := AtTy.width t
    plain (.atomAdd t f) (fun old => (old + b) % 2 ^ wd) ∧
    plain (.atomAnd t f) (fun old => (old &&& b) % 2 ^ wd) ∧
    plain (.atomOr t f) (fun old => (old ||| b) % 2 ^ wd) ∧
    plain (.atomXor t f) (fun old => (old ^^^ b) % 2 ^ wd) ∧
    plain (.atomMin t f) (fun old => if ext (b % 2 ^ wd) < ext old then b % 2 ^ wd else old) ∧
    plain (.atomMax t f) (fun old => if ext old < ext (b % 2 ^ wd) then b % 2 ^ wd else old) ∧
    plain (.atomExch t f) (fun _ => b % 2 ^ wd) ∧
    plain (.atomCas t f) (fun old => if old = b % 2 ^ wd then c % 2 ^ wd else old) ∧
    (fa = .f32 → atom (.atomFadd fa f) 32 (fun old => (addF .f32 .rne false old (x % 2 ^ 32)).1)
      (fun old => (addF .f32 .rne false old (x % 2 ^ 32)).2)) ∧
    (fa = .bf16x2 → atom (.atomFadd fa f) 32
      (fun old => (addF .bf16 .rne false (old % 2 ^ 16) (x % 2 ^ 16)).1 +
        2 ^ 16 * (addF .bf16 .rne false (old / 2 ^ 16) (x / 2 ^ 16 % 2 ^ 16)).1)
      (fun old => (addF .bf16 .rne false (old % 2 ^ 16) (x % 2 ^ 16)).2 |||
        (addF .bf16 .rne false (old / 2 ^ 16) (x / 2 ^ 16 % 2 ^ 16)).2))

/-- Every ordering code and every slot of loads, stores and atomics: what a release orders comes before the access; without a
slot the work is done at once, a release closes its workgroup's lines then, and an acquire follows; with a slot the work
waits for the memory. An acquire holds later accesses back for its own slot and for those of the thread's earlier accesses
(R149, R158, R163, R182, R189). What the model reads or chooses here: assumption log 10 and 13. -/
def Obligations.MemoryWorkIsOrdered : Prop :=
  ∀ (sp : Space) (lt : MemTy) (t : StTy) (a : AtTy) (fa : FaTy) (f : F64) (s s1 : State) (gs : List Got),
    let w := s.cur.warp
    let works := fun (i : Instr) (sp : Space) (acc : Acc) (n align : Nat) (cnt : Bool) (ord charge : Nat) (adr : Nat → Nat)
        (wk : State → Work) =>
      let h := memHdr i f ord
      let s2 := if charge = 0 then s1 else chargeAccess s1 w (charge * gs.length)
      let s3 := if ordRel ord then s2.settleFor w (ordScope ord) else s2
      let acq := if ordAcq ord then some (ordScope ord) else none
      let p : Pending :=
        { pid := s3.serial, unit := .memory, warp := w, lanes := guarded h s, slot := f.set.toNat, flags := 0, acq := acq,
          rel := ordRel ord, work := wk s }
      let s4 := if ordRel ord then (s3.doWork p).closeFor w else s3.doWork p
      i.wf = true → Issues h s → guarded h s ≠ [] → sysRoom s w ord = true →
      checkAccess s w sp acc n align cnt ((guarded h s).map (fun l => (l, adr l))) = .ok s1 gs →
      (f.set = 0 → s4.absent = none →
        Completes h i s (if ordAcq ord then s4.acquireIn w (ordScope ord) (guarded h s) else s4) (fun _ x => x)) ∧
      (f.set ≠ 0 → s3.absent = none →
        Completes h i s { s3 with pending := s3.pending ++ [p], serial := s3.serial + 1 } (fun l x =>
          if ordAcq ord then { x.slotSet f.set.toNat with
            acqSlots := x.acqSlots ||| (1#6 <<< (f.set.toNat - 1)) ||| accessSlots s3 w l }
          else x.slotSet f.set.toNat))
    let lanes := fun (d : Nat → Word × Word) => gs.map (fun g =>
      ({ lane := g.lane, va := g.addr, loc := g.loc, data := (d g.lane).1, data2 := (d g.lane).2 } : LaneWork))
    let atomic := fun (i : Instr) (op : Nat) =>
      works i (modSpace f) .atomic (AtTy.width a / 8) (AtTy.width a / 8) false f.c.toNat (AtTy.width a / 8) (atomAddr s w f)
        (fun s => .atomic (modSpace f) op (AtTy.idx a) f.d.toNat (ordScope f.c.toNat) (lanes (fun l =>
          (if a = .i64 then opndI64 s w l f.lit f.b.toNat else opnd s w l f.lit f.b.toNat, if op = 7 then s.v w l (f.b.toNat + 1) else 0))))
    let counter := fun (i : Instr) (wk : List LaneWork → Work) =>
      works i .global .atomic 16 16 true f.c.toNat 0 (fun l => (opnd s w l f.lit f.a.toNat).toNat)
        (fun s => wk (lanes (fun l => (opnd s w l f.lit f.b.toNat, 0))))
    works (.ld sp lt f) sp .read (MemTy.bytes lt) (MemTy.bytes lt) false (memOrder f) (MemTy.bytes lt) (memAddr s w f)
      (fun _ => .load sp lt f.d.toNat (lanes (fun _ => (0, 0)))) ∧
    works (.st sp t f) sp .write (StTy.bytes t) (StTy.bytes t) false (memOrder f) (StTy.bytes t) (memAddr s w f)
      (fun s => .store sp (StTy.bytes t) (ordScope (memOrder f)) (lanes (storeData s w t f))) ∧
    atomic (.atomAdd a f) 0 ∧ atomic (.atomAnd a f) 1 ∧ atomic (.atomOr a f) 2 ∧ atomic (.atomXor a f) 3 ∧
    atomic (.atomMin a f) 4 ∧ atomic (.atomMax a f) 5 ∧ atomic (.atomExch a f) 6 ∧ atomic (.atomCas a f) 7 ∧
    ((s.warp w).fen &&& faddFlags = 0 →
      works (.atomFadd fa f) (modSpace f) .atomic 4 4 false f.c.toNat 4 (atomAddr s w f)
        (fun s => .atomic (modSpace f) 8 (FaTy.idx fa) f.d.toNat (ordScope f.c.toNat) (lanes (fun l =>
          (opnd s w l f.lit f.b.toNat, 0))))) ∧
    counter (.cntAdd f) (.cntAdd (ordScope f.c.toNat)) ∧ counter (.cntFail f) (.cntFail (ordScope f.c.toNat))

/-! ### The spill stack (R150, R161), fences and monitors (R164, R165) -/

/-- `push` stores C words of each guard-true thread above its depth, as relaxed stores that the core's memory port takes, and
`pop` loads them back into D on; beyond the limit, and below depth 0, STACK is raised with no effect (R150, R161). What
the model reads or chooses here: assumption log 13. -/
def Obligations.SpillStack : Prop :=
  ∀ (f : F64) (s s1 : State) (gs : List Got),
    let w := s.cur.warp
    let n := f.c.toNat
    let hPush := memHdr (.push f) f 0
    let hPop := memHdr (.pop f) f 0
    let words := fun (h : Hdr) (c : Nat → Nat → (Nat × Nat) × Nat) =>
      (guarded h s).flatMap (fun l => (List.range n).map (fun i => c l i))
    let up := words hPush (fun l i => ((l, spillAddr s w l ((s.thread w l).spd + i)), (opnd s w l none (f.a.toNat + i)).toNat))
    let down := words hPop (fun l i => ((l, spillAddr s w l ((s.thread w l).spd - n + i)), f.d.toNat + i))
    ((Instr.push f).wf = true → Issues hPush s → guarded hPush s ≠ [] →
      (∀ l ∈ guarded hPush s, (s.thread w l).spd + n ≤ spillLimit s w) →
      checkAccess s w .global .write 8 8 false (up.map (·.1)) = .ok s1 gs → (∀ g ∈ gs, ∃ pa, g.loc = .dev pa) →
      (chargeAccess s1 w (8 * gs.length)).absent = none →
      ∃ u, exec (.push f) s = .next u ∧ SameRegs s1 u ∧ (∀ l', u.byteAt l' = s1.byteAt l') ∧
        u.port.map (fun p => (p.core, p.va, p.loc, p.bytes)) = s1.port.map (fun p => (p.core, p.va, p.loc, p.bytes)) ++
          (gs.zip (up.map (·.2))).map (fun x => (coreOf w, x.1.addr, x.1.loc, leBytes 8 x.2)) ∧
        ∀ v l, l < 32 → (u.thread v l).spd = (s.thread v l).spd + if v = w ∧ l ∈ guarded hPush s then n else 0) ∧
    ((Instr.pop f).wf = true → Issues hPop s → guarded hPop s ≠ [] → (∀ l ∈ guarded hPop s, n ≤ (s.thread w l).spd) →
      checkAccess s w .global .read 8 8 false (down.map (·.1)) = .ok s1 gs → isSup w = false → s1.port = [] →
      s1.absent = none → (∀ g ∈ gs, g.loc.onDevice 8) →
      ∃ u, exec (.pop f) s = .next u ∧ (∀ l', u.byteAt l' = s1.byteAt l') ∧ u.wregs = s1.wregs ∧ u.port = [] ∧
        (∀ x ∈ gs.zip (down.map (·.2)), x.2 < 384 → u.v w x.1.lane x.2 =
          BitVec.ofNat 64 (leNat ((List.range 8).map (fun k => s1.byteAt (x.1.loc.plus k))))) ∧
        (∀ v l m, l < 32 → m < 512 → ¬ (v = w ∧ l ∈ guarded hPop s ∧ f.d.toNat ≤ m ∧ m < f.d.toNat + n) →
          u.v v l m = s1.v v l m) ∧
        ∀ v l, l < 32 → (u.thread v l).spd = (s.thread v l).spd - if v = w ∧ l ∈ guarded hPop s then n else 0) ∧
    (∀ l, (Instr.push f).wf = true → Issues hPush s → guarded hPush s = [l] → spillLimit s w < (s.thread w l).spd + n →
      s.absent = none → ∃ u, exec (.push f) s = .next u ∧ Raised s u causeStack [l] (fun _ => 0) (fun _ => 0)) ∧
    (∀ l, (Instr.pop f).wf = true → Issues hPop s → guarded hPop s = [l] → (s.thread w l).spd < n →
      s.absent = none → ∃ u, exec (.pop f) s = .next u ∧ Raised s u causeStack [l] (fun _ => 0) (fun _ => 0))

/-- `fence` is the release and the acquire of its code (R149, R164): after a release the workgroup has no open line, at `.die`
every store that the core's memory port accepted is home or on the ordered path to its die, beyond it all are home with
those of the die's path, and an acquire holds later accesses back for the thread's earlier ones (R178, R182, R185, R189).
`watch` arms a thread's monitor on the line at its address, in the place of an earlier one; `mwait` completes where the
line has been written since or no monitor is armed, and disarms, and otherwise waits; a write to the line fires the
monitor (R165, R176). What the model reads or chooses here: assumption log 10. -/
def Obligations.FencesAndMonitors : Prop :=
  (∀ (f : F64) (s : State),
    let w := s.cur.warp
    let i : Instr := .fence f
    let h := memHdr i f f.c.toNat
    let ord := f.c.toNat
    let s1 := if ordRel ord then s.release w (ordScope ord) else s
    let s2 := if ordAcq ord then s1.acquireIn w (ordScope ord) (guarded h s) else s1
    i.wf = true → Issues h s → guarded h s ≠ [] → sysRoom s w ord = true → s1.absent = none →
    Completes h i s s2 (fun _ x => x) ∧
    (ordRel ord = true → (∀ e ∈ s2.opened, (s.warp w).vgid ≠ 0 → e.vgid ≠ (s.warp w).vgid) ∧
      (ordScope ord = scopeDie → ∀ p ∈ s2.port, p.core = coreOf w → p.cross = true) ∧
      (scopeDie < ordScope ord → ∀ p ∈ s2.port, p.core ≠ coreOf w ∧ (p.cross = true → dieOfCore p.core ≠ dieOf w))) ∧
    (ordAcq ord = true → ordScope ord = scopeSys →
      ∀ e ∈ s2.hostL2, e.2.owner = (s.warp w).owner → e.2.dirty ≠ 0) ∧
    (ordAcq ord = true → ∀ l ∈ guarded h s,
      (s2.thread w l).acqSlots = (s1.thread w l).acqSlots ||| accessSlots s1 w l) ∧
    (ordAcq ord = true → ordScope ord ≠ scopeSys → s2 = { s1 with threads := s2.threads }) ∧ s2.vregs = s.vregs ∧ s2.wregs = s.wregs) ∧
  (∀ (f : F64) (s s1 : State) (gs : List Got),
    let w := s.cur.warp
    let hWatch := hdrOf (.watch f) f
    let hMwait := hdrOf (.mwait f) f
    let sp := modSpace f
    let at_ := fun (l : Nat) => (opnd s w l f.lit f.a.toNat).toNat
    ((Instr.watch f).wf = true → Issues hWatch s → guarded hWatch s ≠ [] →
      checkAccess s w sp .read 1 1 false ((guarded hWatch s).map (fun l => (l, at_ l))) = .ok s1 gs → s1.absent = none →
      Completes hWatch (.watch f) s s1 (fun l x => { x with
        monitor := BitVec.ofNat 64 ((if sp = .global then at_ l / 64 * 64 else at_ l / 128 * 128) + 2 * Space.idx sp + 1)
        monLine := (gs.find? (fun g => g.lane == l)).map (fun g => (g.loc.line.2.1, g.loc.line.2.2.1))
        fired := false })) ∧
    ((Instr.mwait f).wf = true → Issues hMwait s → guarded hMwait s ≠ [] →
      ∃ t, exec (.mwait f) s = .next t ∧ Leaves t s w (issuing s) (fun l x =>
        if l ∈ guarded hMwait s then
          (if x.monitor = 0 ∨ x.fired = true then
            ({ x with monitor := 0, monLine := none, fired := false }).past s.cur.pc hMwait.len s.tick
           else { x with wait := .monitor })
        else x.past s.cur.pc hMwait.len s.tick)) ∧
    ∀ (owner vgid : Nat) (loc : Loc) (bs : List Byte) (v l : Nat),
      ((s.perform owner vgid loc bs).thread v l).fired =
        ((s.thread v l).fired || decide ((s.thread v l).monLine = some (loc.line.2.1, loc.line.2.2.1))))

/-! ### Barrier entries (R17–R19, R166–R169) -/

/-- Arrivals and bytes brought to an entry complete as many phases as both expectations allow; what would pass a count's field
is refused (R18). That an entry which expects neither completes none is the model's choice (log 88). What the model reads
or chooses here: assumption log 88. -/
def Obligations.BarrierPhases : Prop :=
  ∀ (b : BarEntry) (a n : Nat),
    (barMaxA < b.cntA + a ∨ barMaxB < b.cntB + n → b.bring a n = none) ∧
    (b.cntA + a ≤ barMaxA → b.cntB + n ≤ barMaxB → ∃ k c, b.bring a n = some c ∧
      c.cntA + k * b.expA = b.cntA + a ∧ c.cntB + k * b.expB = b.cntB + n ∧ c.phase = (b.phase + k) % 256 ∧
      (b.expA = 0 → b.expB = 0 → k = 0) ∧ ((b.expA ≠ 0 ∨ b.expB ≠ 0) → ¬ (b.expA ≤ c.cntA ∧ b.expB ≤ c.cntB)) ∧
      c.expA = b.expA ∧ c.expB = b.expB ∧ c.vgid = b.vgid ∧ c.v = b.v) ∧
    ∀ ls, b.cntA + ls.length ≤ barMaxA → b.cntB ≤ barMaxB → (arriveLanes b ls).2.2 = [] ∧ (arriveLanes b ls).2.1.map (·.1) = ls ∧
      ∃ k, (arriveLanes b ls).1.cntA + k * b.expA = b.cntA + ls.length ∧
        (arriveLanes b ls).1.phase % 256 = (b.phase + k) % 256

/-- An arrival is a release: each guard-true thread, in lane order, brings one arrival to the entry and keeps the phase it
joined as its record, and completed phases wake the entry's waiters (R18); BARSPILL where the entry is not valid, BOUNDS
beyond the workgroup's entries, whose ADDR 0 is the model's choice (log 98), ENGINE where a count would pass its field or
the set has no barrier (R167, R169). A barrier wait stands on the phase that the thread joined, or on the phase now where
it has no record of the entry: threads that a completion has satisfied, or whose phase has gone by, go on, an acquire, and
the others wait (R18, R167, R169, R201); a wait on an entry that is not valid raises BARSPILL, beyond the workgroup's
entries BOUNDS, and on a set without a barrier ENGINE (R167, R169). What the model reads or chooses here: assumption log
74, 75 and 98. -/
def Obligations.BarrierArriveAndWait : Prop :=
  (∀ (g : F32) (f : F64) (s : State),
    let w := s.cur.warp
    let arrives := fun (h : Hdr) (i : Instr) (set : Bool) (e scope : Nat) (key : Option Nat) => i.wf = true → Issues h s →
      (∀ k, key = some k → (set = false → (s.bars.get k).v = true) → guarded h s ≠ [] → (s.release w scope).absent = none →
        let r := arriveLanes (s.bars.get k) (guarded h s)
        r.2.2 = [] → Completes h i s ((s.release w scope).putBar k r.1 (guarded h s).length 0) (fun l x => { x with
          arrival := some { set := set, entry := e, phase := ((r.2.1.find? (fun y => y.1 == l)).map (·.2)).getD 0 } })) ∧
      (∀ k l, key = some k → (set = false → (s.bars.get k).v = true) → guarded h s = [l] → s.absent = none →
        barMaxA < (s.bars.get k).cntA + 1 → ∃ t, exec i s = .next t ∧ Raised s t causeEngine [l] (fun _ => 0) (fun _ => 0)) ∧
      (∀ k l, set = false → key = some k → (s.bars.get k).v = false → guarded h s = [l] → s.absent = none →
        ∃ t, exec i s = .next t ∧ Raised s t causeBarspill [l] (fun _ => 0) (fun _ => 0)) ∧
      (∀ l, key = none → guarded h s = [l] → s.absent = none →
        ∃ t, exec i s = .next t ∧ Raised s t (if set then causeEngine else causeBounds) [l] (fun _ => 0) (fun _ => 0))
    let hdr := fun (h : Hdr) (sc : Nat) => { barHdr h with rel := some sc }
    arrives (hdr (hdrOf32 (.barArrive g) g) scopeWg) (.barArrive g) false g.body.toNat scopeWg
      (wgBarKey (s.wg w) g.body.toNat) ∧
    arrives (hdr (hdrOf (.barArriveTwin f) f) scopeWg) (.barArriveTwin f) false f.c.toNat scopeWg
      (wgBarKey (s.wg w) f.c.toNat) ∧
    arrives (hdr (hdrOf (.sbarArrive f) f) scopePkg) (.sbarArrive f) true f.c.toNat scopePkg
      (setBarKey s (s.wg w) f.c.toNat)) ∧
  (∀ (g : F32) (f : F64) (s : State),
    let w := s.cur.warp
    let waits := fun (h : Hdr) (i : Instr) (set : Bool) (e : Nat) (key : Option Nat) => i.wf = true → Issues h s → s.absent = none →
      (∀ k l, set = false → key = some k → (s.bars.get k).v = false → guarded h s = [l] →
        ∃ t, exec i s = .next t ∧ Raised s t causeBarspill [l] (fun _ => 0) (fun _ => 0)) ∧
      (∀ l, key = none → guarded h s = [l] →
        ∃ t, exec i s = .next t ∧ Raised s t (if set then causeEngine else causeBounds) [l] (fun _ => 0) (fun _ => 0)) ∧
      ∀ k, key = some k → (set = false → (s.bars.get k).v = true) → guarded h s ≠ [] →
        let now := (s.bars.get k).phase
        let stands : Thread → Bool := fun x => !x.passed && match x.awaited with
          | some a => a.phase == now
          | none => (match x.arrival with
            | some a => !(a.set == set && a.entry == e) || a.phase == now
            | none => true)
        ∃ t, exec i s = .next t ∧ Leaves t s w (issuing s) (fun l x =>
          if l ∈ guarded h s then
            (if stands x = true then { x with wait := .barrier set e now }
             else ({ x with acqSlots := x.acqSlots ||| accessSlots s w l }).past s.cur.pc h.len s.tick)
          else x.past s.cur.pc h.len s.tick)
    waits (barHdr (hdrOf32 (.barWait g) g)) (.barWait g) false g.body.toNat (wgBarKey (s.wg w) g.body.toNat) ∧
    waits (barHdr (hdrOf (.barWaitTwin f) f)) (.barWaitTwin f) false f.c.toNat (wgBarKey (s.wg w) f.c.toNat) ∧
    waits (barHdr (hdrOf (.sbarWait f) f)) (.sbarWait f) true f.c.toNat (setBarKey s (s.wg w) f.c.toNat)) ∧
  ∀ (s : State) (k arr n : Nat) (b : BarEntry),
    let t := s.putBar k b arr n
    t = { s with bars := s.bars.set k b, threads := t.threads } ∧ ∀ w l, l < 32 → t.thread w l =
      if ((s.bars.get k).cntA + arr ≠ b.cntA ∨ (s.bars.get k).cntB + n ≠ b.cntB) ∧ barWaiter s w (s.thread w l) k = true
      then (s.thread w l).pass s.tick else s.thread w l

/-- `bar.arm` makes the entry valid for the workgroup with the expectations of the arm word and empty counts, keeping PHASE;
`bar.credit` brings counts as a release; `bar.query` reads the entry's record (R17, R18, R166, R167). `bar.spill` stores
the entry's record through the lowest guard-true thread and makes the entry not valid; `bar.fill` loads a record of the
workgroup or of one of its sets into an entry that is not valid, and completes phases that are due; any other record or
entry raises ENGINE (R166, R168). An entry beyond the workgroup's raises BOUNDS, with ADDR 0, which is the model's choice
(log 98), a credit to an entry that is not valid BARSPILL, and a record that is not 16-byte aligned ALIGN (R26, R167,
R168). What the model reads or chooses here: assumption log 88 and 98. -/
def Obligations.BarrierArmCreditQuerySpillAndFill : Prop :=
  (∀ (f : F64) (s : State) (k : Nat),
    let w := s.cur.warp
    let b := s.bars.get k
    let a := fun (l : Nat) => (opnd s w l f.lit f.a.toNat).toNat
    let n := fun (l : Nat) => (opnd s w l f.lit f.b.toNat).toNat
    let armed := fun (x : Nat) => ({ vgid := (s.warp w).vgid, v := true, phase := b.phase, expA := bitsOf x 31 20, cntA := 0,
                                     expB := bitsOf x 63 32, cntB := 0 } : BarEntry)
    let hArm := barHdr (hdrOf (.barArm f) f)
    let hCredit := { barHdr (hdrOf (.barCredit f) f) with rel := some scopeWg }
    let hQuery := barHdr (hdrOf (.barQuery f) f)
    let halves := fun (_ m : Nat) =>
      if m = f.d.toNat then some (BitVec.ofNat 64 (b.cntB + 2 ^ 32 * b.expB))
      else if m = f.d.toNat + 1 then some (BitVec.ofNat 64 (b.record / 2 ^ 64)) else none
    wgBarKey (s.wg w) f.c.toNat = some k →
    (∀ l, (Instr.barArm f).wf = true → Issues hArm s → guarded hArm s = [l] →
      (¬ (b.v = true ∧ (b.cntA ≠ 0 ∨ b.cntB ≠ 0)) → a l % 2 ^ 20 = 0 → a l ≠ 0 →
        Completes hArm (.barArm f) s { s with bars := s.bars.set k (armed (a l)) } (fun _ x => x)) ∧
      ((b.v = true ∧ (b.cntA ≠ 0 ∨ b.cntB ≠ 0)) ∨ a l % 2 ^ 20 ≠ 0 ∨ a l = 0 →
        ∃ t, exec (.barArm f) s = .next t ∧ Raised s t causeEngine [l] (fun _ => 0) (fun _ => 0))) ∧
    (∀ l, (Instr.barCredit f).wf = true → Issues hCredit s → guarded hCredit s = [l] → b.v = true →
      (s.release w scopeWg).absent = none →
      (∀ c, b.bring (a l) (n l) = some c →
        Completes hCredit (.barCredit f) s ((s.release w scopeWg).putBar k c (a l) (n l)) (fun _ x => x)) ∧
      (b.bring (a l) (n l) = none →
        ∃ t, exec (.barCredit f) s = .next t ∧ Raised s t causeEngine [l] (fun _ => 0) (fun _ => 0))) ∧
    (∀ l, (Instr.barCredit f).wf = true → Issues hCredit s → guarded hCredit s = [l] → b.v = false → s.absent = none →
      ∃ t, exec (.barCredit f) s = .next t ∧ Raised s t causeBarspill [l] (fun _ => 0) (fun _ => 0)) ∧
    ((Instr.barQuery f).wf = true → Issues hQuery s → guarded hQuery s ≠ [] →
      ∃ t, exec (.barQuery f) s = .next t ∧ RegEffect hQuery s t { vec := halves })) ∧
  (∀ (f : F64) (s : State) (l : Nat),
    let w := s.cur.warp
    let a := (opnd s w l f.lit f.a.toNat).toNat
    let alone := fun (h : Hdr) (i : Instr) => i.wf = true ∧ Issues h s ∧ guarded h s = [l] ∧ s.liveLanes w = [l] ∧ s.absent = none
    let raises := fun (i : Instr) (bit addr : Nat) => ∃ t, exec i s = .next t ∧ Raised s t bit [l] (fun _ => addr) (fun _ => 0)
    let bounds := fun (h : Hdr) (i : Instr) => alone h i → wgBarKey (s.wg w) f.c.toNat = none → raises i causeBounds 0
    let aligned := fun (h : Hdr) (i : Instr) => alone h i → (wgBarKey (s.wg w) f.c.toNat).isSome = true → a % 16 ≠ 0 →
      raises i causeAlign a
    bounds (barHdr (hdrOf (.barArm f) f)) (.barArm f) ∧
    bounds { barHdr (hdrOf (.barCredit f) f) with rel := some scopeWg } (.barCredit f) ∧
    bounds (barHdr (hdrOf (.barQuery f) f)) (.barQuery f) ∧
    bounds { barHdr (hdrOf (.barSpill f) f) with coll := true } (.barSpill f) ∧
    bounds { barHdr (hdrOf (.barFill f) f) with coll := true } (.barFill f) ∧
    aligned { barHdr (hdrOf (.barSpill f) f) with coll := true } (.barSpill f) ∧
    aligned { barHdr (hdrOf (.barFill f) f) with coll := true } (.barFill f)) ∧
  (∀ (f : F64) (s s1 : State) (k l pa : Nat),
    let w := s.cur.warp
    let hSpill := { barHdr (hdrOf (.barSpill f) f) with coll := true }
    let hFill := { barHdr (hdrOf (.barFill f) f) with coll := true }
    let a := (opnd s w l f.lit f.a.toNat).toNat
    let g : Got := { lane := l, addr := a, loc := .dev pa }
    let b := s.bars.get k
    let r := barOfRecord (leNat ((List.range 16).map (fun i => s1.byteAt (.dev (pa + i)))))
    let spilled := s1.portStore (coreOf w) (s.warp w).owner (s.warp w).vgid a (.dev pa) (leBytes 16 b.record)
    let good : Prop := b.v = false ∧ r.v = true ∧ (r.vgid = (s.warp w).vgid ∨ r.vgid ∈ (s.wg w).sets)
    wgBarKey (s.wg w) f.c.toNat = some k → s1.absent = none →
    ((Instr.barSpill f).wf = true → Issues hSpill s → (guardLanes hSpill s).head? = some l →
      checkAccess s w .global .write 16 16 false [(l, a)] = .ok s1 [g] →
      Completes hSpill (.barSpill f) s
        { spilled with bars := s.bars.set k { b with v := false } } (fun _ x => x)) ∧
    ((Instr.barFill f).wf = true → Issues hFill s → (guardLanes hFill s).head? = some l →
      checkAccess s w .global .read 16 16 false [(l, a)] = .ok s1 [g] → s1.port = [] → g.loc.onDevice 16 →
      (good → Completes hFill (.barFill f) s ({ s1 with bars := s.bars.set k r }.putBar k r.settle 0 0) (fun _ x => x)) ∧
      (¬ good → ∃ t, exec (.barFill f) s = .next t ∧ Raised s t causeEngine [l] (fun _ => 0) (fun _ => 0))))

/-! ### Counters (R14–R16, R170, R171) -/

/-- In one lane, without a slot: `cnt.add` adds to the counter's value, which saturates and then sets OVERFLOW, `cnt.fail`
sets status bits [5:0], `cnt.poll` writes whether the target is reached with no status bit set, and `cnt.wait` does so
when it is reached or a status bit is set, and waits otherwise; they open no line (R15, R16, R171). -/
def Obligations.CounterInstructions : Prop :=
  ∀ (f : F64) (s s1 : State) (g : Got),
    let w := s.cur.warp
    let l := g.lane
    let b := (opnd s w l f.lit f.b.toNat).toNat
    let v := leNat ((List.range 8).map (fun k => s1.byteAt (g.loc.plus k)))
    let st := leNat ((List.range 8).map (fun k => s1.byteAt (g.loc.plus (8 + k))))
    let passes := fun (h : Hdr) (i : Instr) (acc : Acc) => i.wf = true ∧ Issues h s ∧ guarded h s = [l] ∧
      checkAccess s w .global acc 16 16 true [(l, (opnd s w l f.lit f.a.toNat).toNat)] = .ok s1 [g] ∧
      s1.port = [] ∧ s1.absent = none ∧ g.loc.onDevice 16
    let adds := fun (i : Instr) (off : Nat) (bs : List Byte) => passes (memHdr i f f.c.toNat) i .atomic → f.set = 0 →
      sysRoom s w f.c.toNat = true → (ordScope f.c.toNat = scopeSys → s1.hostL2 = []) → ∃ u, exec i s = .next u ∧ SameRegs s1 u ∧
        u.opened = (if ordRel f.c.toNat then s1.release w (ordScope f.c.toNat) else s1).opened ∧ u.port = [] ∧
        StoresAt s1 u (g.loc.plus off) bs ∧ ∀ k ∈ issuing s, (u.thread w k).pc = s.cur.pc + BitVec.ofNat 64 (hdrOf i f).len
    let tests := fun (i : Instr) (waits : Bool) => passes (memHdr i f 0) i .read →
      let yes := decide (b ≤ v) && st % 64 == 0
      if waits = true ∧ v < b ∧ st % 64 = 0 then
        ∃ t, exec i s = .next t ∧ Leaves t s1 w (issuing s) (fun k x =>
          if k = l then { x with wait := .counter g.addr b } else x.past s.cur.pc (hdrOf i f).len s.tick)
      else Completes (memHdr i f 0) i s (if yes then s1.acquireIn w (ordScope f.c.toNat) [l] else s1)
        (fun _ x => x.setP (f.d.toNat % 8) yes)
    adds (.cntAdd f) 0 (leBytes 8 (min (v + b) (2 ^ 64 - 1)) ++ leBytes 8 (if 2 ^ 64 ≤ v + b then st ||| 16 else st)) ∧
    adds (.cntFail f) 8 (leBytes 8 (st ||| b % 64)) ∧
    tests (.cntWait f) true ∧ tests (.cntPoll f) false

/-! ### Hand-overs between cores, and service requests (R81–R83, R172–R175) -/

/-- `bsend` puts one copy of its datum on its way to every core that its route names; a set that is not co-resident raises
ENGINE, a misaligned offset ALIGN, and a route that leaves the mesh BOUNDS, or crosses what is retired ENGINE, with the
bench offset as ADDR of the first two, which is the model's choice (R83, R173; log 19). With a slot it waits for the sends
to leave. One hop from a core reaches its neighbour (R82). `svc` puts a record of the thread's request into the lowest
free place of its core's mailbox and starts its slot, as a release at `.pkg`; with no free place the thread waits, and
with no service handler it raises SVC (R175). What the model reads or chooses here: assumption log 98. -/
def Obligations.BsendAndServiceRequests : Prop :=
  (∀ (f : F64) (s : State) (l : Nat),
    let w := s.cur.warp
    let i : Instr := .bsend f
    let h := memHdr i f 0
    let set := setWord s (s.wg w) (f.c.toNat % 4)
    let off := (opnd s w l f.lit f.a.toNat).toNat
    let ctr := (opnd s w l f.lit f.d.toNat).toNat
    let raises := fun (bit addr : Nat) => ∃ t, exec i s = .next t ∧ Raised s t bit [l] (fun _ => addr) (fun _ => 0)
    let fits : Prop := set ≠ 0 ∧ bitOf set 32 = true
    let even : Prop := off % 8 = 0 ∧ (f.d ≠ 448 → ctr % 16 = 0)
    let entry := if f.c.getLsbD 2 then some (f.c.toNat / 8) else none
    let copy := fun (c : Nat) =>
      ({ id := 0, core := c, setV := (s.wg w).sets.getD (f.c.toNat % 4) 0, vgid := (s.warp w).vgid,
         owner := (s.warp w).owner, offset := off, datum := opnd s w l f.lit f.b.toNat, entry := entry, warp := w, index := (s.warp w).index, ctr := ctr,
         ctrOn := decide (f.d ≠ 448), landed := none } : BsendCopy)
    (i.wf = true → Issues h s → guarded h s = [l] →
      (¬ fits → raises causeEngine 0) ∧ (fits → ¬ even → raises causeAlign off) ∧
      (fits → even → match routeFrom s (coreOf w) (f.lit.getD 0).toNat with
        | .cause b => raises b (if b = causeBounds then off else 0)
        | .cores cs =>
          let u := s.send (cs.map copy)
          let p : Pending := { pid := u.serial, unit := .bsend, warp := w, lanes := [l], slot := f.set.toNat, flags := 0,
                               acq := none, work := .slotOnly }
          (f.set = 0 → Completes h i s u (fun _ x => x)) ∧
          (f.set ≠ 0 → Completes h i s { u with pending := u.pending ++ [p], serial := u.serial + 1 }
            (fun _ x => x.slotSet f.set.toNat)))) ∧
    (∀ cs, (s.send cs).bsends.map (fun c => { c with id := 0 }) = s.bsends.map (fun c => { c with id := 0 }) ++
        cs.map (fun c => { c with id := 0 }) ∧ (s.send cs).serial = s.serial + cs.length) ∧
    ∀ core head, head < 4 → core < 2048 → routeFrom s core (head + 4) = match hopTo (core % 32) (core % 512 / 32) head with
      | none => .cause causeBounds
      | some (x, y) =>
        let next := core / 512 * 512 + 32 * y + x
        if (s.cores.get next).retired = true ∨ Config.linkRetired core next = true then .cause causeEngine else .cores [next]) ∧
  (∀ (f : F64) (s : State) (l : Nat),
    let w := s.cur.warp
    let i : Instr := .svc f
    let h : Hdr := { hdrOf i f with rel := some scopePkg }
    let s1 := s.release w scopePkg
    let word1 := (s.warp w).index + f.set.toNat * 2 ^ 4 + f.d.toNat * 2 ^ 7 + (f.lit.getD 0).toNat % 2 ^ 16 * 2 ^ 16 +
      (s.warp w).owner * 2 ^ 32 + (s.warp w).vgid * 2 ^ 40
    let words := [BitVec.ofNat 64 (l * 2 ^ 59), BitVec.ofNat 64 word1, 0, 0, 0, s.cur.pc, opnd s w l f.lit f.a.toNat,
      opnd s w l f.lit f.b.toNat]
    let r : SvcRec := { words := words, warp := w, lane := l, dest := f.d.toNat, slot := f.set.toNat,
                        vgid := (s.warp w).vgid, index := (s.warp w).index, order := s1.serial, taken := false }
    let p : Pending := { pid := s1.serial, unit := .engine, warp := w, lanes := [l], slot := f.set.toNat, flags := 0,
                         acq := none, work := .slotOnly }
    i.wf = true → Issues h s → guarded h s = [l] → s.absent = none → s1.absent = none →
    (svcPc s (s.warp w).owner = none → ∃ t, exec i s = .next t ∧ Raised s t causeSvc [l] (fun _ => 0) (fun _ => 0)) ∧
    ((svcPc s (s.warp w).owner).isSome = true → freeMail s (coreOf w) = [] →
      ∃ t, exec i s = .next t ∧ Leaves t s w (issuing s) (fun k x =>
        if k = l then { x with wait := .resource } else x.past s.cur.pc h.len s.tick)) ∧
    (∀ m ms, (svcPc s (s.warp w).owner).isSome = true → freeMail s (coreOf w) = m :: ms →
      Completes h i s { s1 with
        cores := s1.cores.update (coreOf w) (fun c => { c with mailbox := c.mailbox.set m (some r) })
        pending := s1.pending ++ [p]
        serial := s1.serial + 1 } (fun _ x => x.slotSet f.set.toNat)))

/-! ### System registers, causes, trap return, quotas (R44, R176, R203) -/

/-- `mtsr` writes FLAGS or, in a workgroup's warp, FEN; `causeclr` clears the cause bits of its mask. Nothing else of the
machine changes (R176, R203, R342). `regq` answers in its predicate whether the warp's quota is now the asked number of
units: it grows from the quad's freed units of its workgroup where they suffice, with the new registers zero, and shrinks
by giving units back (R44, R45). -/
def Obligations.SystemRegisterWritesAndRegisterQuota : Prop :=
  (∀ (f : F64) (s : State),
    let w := s.cur.warp
    let hM : Hdr := { hdrOf (.mtsr f) f with coll := true, drain := true }
    let x : BitVec 9 := (opnd s w 0 f.lit f.a.toNat).truncate 9
    let clears := fun (i : Instr) (m : Nat) => i.wf = true → Issues { hdrOf i f with coll := true } s →
      guarded { hdrOf i f with coll := true } s ≠ [] →
      Completes { hdrOf i f with coll := true } i s
        (s.setWarp w (fun y => { y with cause := y.cause &&& ~~~ (BitVec.ofNat 32 (m % 2 ^ 23)) })) (fun _ t => t)
    ((Instr.mtsr f).wf = true → Issues hM s → guarded hM s ≠ [] →
      (f.c = 0 → Completes hM (.mtsr f) s (s.setWarp w (fun y => { y with flags := x })) (fun _ t => t)) ∧
      (f.c ≠ 0 → isSup w = false → Completes hM (.mtsr f) s (s.setWarp w (fun y => { y with fen := x })) (fun _ t => t)) ∧
      (f.c ≠ 0 → isSup w = true → Completes hM (.mtsr f) s s (fun _ t => t))) ∧
    clears (.causeclrReg f) (opnd s w 0 f.lit f.a.toNat).toNat ∧ clears (.causeclrLit f) (f.lit.getD 0).toNat ∧
    clears (.causeclrImm f) f.c.toNat) ∧
  (∀ (f : F64) (s : State),
    let w := s.cur.warp
    let g := s.wg w
    let q := quadOf w % 4
    let units := (s.warp w).units
    let spare := g.free.getD q 0
    let asks := fun (i : Instr) (n : Nat) =>
      let h : Hdr := { hdrOf i f with coll := true, drain := true }
      let answer := fun (t : State) (ok : Bool) => (∀ l, l ∈ issuing s → ∀ p, p < 8 → (t.thread w l).p p =
          if p = f.d.toNat % 8 ∧ p < 7 then ok else (s.thread w l).p p) ∧
        (∀ l, l ∈ issuing s → (t.thread w l).pc = s.cur.pc + BitVec.ofNat 64 h.len) ∧ t.mem = s.mem ∧ t.wregs = s.wregs
      i.wf = true → Issues h s → guarded h s ≠ [] → isSup w = false → 1 ≤ n → n ≤ 12 → units.length ≤ 12 →
      (n = units.length → ∃ t, exec i s = .next t ∧ answer t true ∧ t.vregs = s.vregs ∧ t.wgs = s.wgs ∧ ∀ v, t.warp v = s.warp v) ∧
      (units.length < n → spare < n - units.length →
        ∃ t, exec i s = .next t ∧ answer t false ∧ t.vregs = s.vregs ∧ t.wgs = s.wgs ∧ ∀ v, t.warp v = s.warp v) ∧
      (units.length < n → n - units.length ≤ spare → ∃ t, exec i s = .next t ∧ answer t true ∧
        (t.warp w).units = units ++ (takeUnits (n - units.length) q g.freeUnits).1 ∧
        (t.wgs.get (s.warp w).vgid).free = g.free.set q (spare - (n - units.length)) ∧
        ∀ v l m, l < 32 → m < 512 → t.v v l m =
          if v = w ∧ 32 * units.length ≤ m ∧ m < 32 * n then 0 else s.v v l m) ∧
      (n < units.length → (∀ m, 32 * n ≤ m → m < 32 * units.length → bholdLocked s w m = false) →
        ∃ t, exec i s = .next t ∧ answer t true ∧ (t.warp w).units = units.take n ∧
        (t.wgs.get (s.warp w).vgid).free = g.free.set q (spare + (units.length - n)) ∧
        ∀ v l m, l < 32 → m < 512 → t.v v l m =
          if v = w ∧ 32 * n ≤ m ∧ m < 32 * units.length then 0 else s.v v l m)
    asks (.regqImm f) f.c.toNat ∧ asks (.regqReg f) (s.w w (f.a.toNat - 384)).toNat)


/-! ### The transfer engine (R160, R215–R231) -/

/-- `st.a` releases at `.die` and hands one operation to the end of a channel's queue, with its locks taken, when the channel
has a place and the locks fit; otherwise the thread waits, and what the engine refuses raises its cause (R160, R218,
R224); a lane that waits keeps the template it has read, and that one is accepted in the end. The engine reads the
template after what the core's die still holds on its way to those lines (R178, R217). `xquery` reads a channel's state,
and `xcancel` ends the operations of the issuing workgroup in it and answers their number; a register that names no
channel raises BOUNDS (R231). What the model reads or chooses here: assumption log 98. -/
def Obligations.TransferInstructions : Prop :=
  ∀ (f : F64) (s : State) (l : Nat),
    let w := s.cur.warp
    let core := coreOf w
    let hA : Hdr := { memHdr (.stA f) f 0 with rel := some scopeDie }
    let chan := memAddr s w f l
    let data := (opnd s w l f.lit f.b.toNat).toNat
    let table := (templateTable s (s.warp w).owner).getD 0
    let s1 := (s.release w scopeDie).drainTemplate (dieOf w) (s.warp w).owner table data
    let read := readTemplate s1 (s.warp w).owner table data
    let ask := (askedBy s w l).getD { warp := w, lane := l, chan := chan, words := read }
    let kept := fun (u : State) => u.asked.filter (fun a => a.warp != w || a.lane != l)
    let queue := fun (c : Nat) => s.xfer.get (chanKey core c)
    let mine := fun (c : Nat) => (queue c).filter (fun x => isMine s w x.vgid x.owner)
    let front := fun (c : Nat) => match queue c with
      | x :: _ => if isMine s w x.vgid x.owner then some x else none
      | [] => none
    let word := fun (c : Nat) => (4 - (queue c).length) * 2 ^ 52 + b2n (front c).isSome * 2 ^ 51 + (mine c).length * 2 ^ 48 +
      ((front c).map (fun x => x.tmplIx)).getD 0 * 2 ^ 32 + ((front c).map (fun x => x.parts)).getD 0 % 2 ^ 32
    let queries := fun (i : Instr) (c : Nat → Nat) => i.wf = true → Issues (hdrOf i f) s → guarded (hdrOf i f) s ≠ [] →
      ((∀ k ∈ guarded (hdrOf i f) s, c k < 16) → ∃ t, exec i s = .next t ∧ RegEffect (hdrOf i f) s t
        { vec := toVec f.d.toNat (fun k => BitVec.ofNat 64 (word (c k))) }) ∧
      (∀ k, guarded (hdrOf i f) s = [k] → 16 ≤ c k →
        ∃ t, exec i s = .next t ∧ Raised s t causeBounds [k] (fun _ => 0) (fun _ => 0))
    let cancels := fun (i : Instr) (c : Nat) =>
      let h : Hdr := { hdrOf i f with rel := some scopeWg }
      i.wf = true → Issues h s → guarded h s = [l] → s.absent = none → c < 16 → (∀ x ∈ queue c, x.ctr = 0) →
      (∀ p ∈ s.pending, p.after = []) →
        ∃ t, exec i s = .next t ∧ t.mem = s.mem ∧ t.wregs = s.wregs ∧
          (f.d.toNat < 384 → t.v w l f.d.toNat = BitVec.ofNat 64 (mine c).length) ∧
          (∀ x ∈ t.xfer.get (chanKey core c), isMine s w x.vgid x.owner = false) ∧
          ((∀ x ∈ queue c, x.sent = none) → ∀ x ∈ mine c, x.ended = none → ∀ k ∈ t.locks, k.op ≠ x.op)
    ((Instr.stA f).wf = true → Issues hA s → guarded hA s = [l] → (∀ k ∈ askedLanes s w, k = l) → s1.absent = none →
      (∀ b, askedBy s w l = none → handOffCause s1 w chan data = some b → s.absent = none →
        ∃ t, exec (.stA f) s = .next t ∧ Raised s t b [l] (fun _ => 0) (fun _ => 0)) ∧
      (∀ s2, askedBy s w l ≠ none ∨ handOffCause s1 w chan data = none → accept s1 w ask data = some s2 → s2.absent = none →
        (f.set ≠ 0 → joinPid s2 w f.set.toNat [l] = none) →
        Completes hA (.stA f) s { s2 with asked := kept s2 } (fun _ x => x)) ∧
      (askedBy s w l ≠ none ∨ handOffCause s1 w chan data = none → accept s1 w ask data = none →
        (f.set ≠ 0 → joinPid s1 w f.set.toNat [l] = none) →
        ∃ t, exec (.stA f) s = .next t ∧ Leaves t { s1 with asked := kept s1 ++ [ask] } w (issuing s) (fun k x =>
          if k = l then { x with wait := .resource } else x.past s.cur.pc hA.len s.tick))) ∧
    (∀ a s2, accept s1 w a data = some s2 →
      let x := handOff s1 w a.words data
      s2.xfer.get (chanKey core a.chan) = s1.xfer.get (chanKey core a.chan) ++ [x] ∧
      (s1.xfer.get (chanKey core a.chan)).length < 4 ∧ s2.locks = s1.locks ++ x.locks s1 core ∧
      s2.mem = s1.mem ∧ s2.vregs = s1.vregs ∧ s2.threads = s1.threads) ∧
    queries (.xqueryReg f) (fun k => (opnd s w k f.lit f.a.toNat).toNat) ∧ queries (.xqueryImm f) (fun _ => f.c.toNat) ∧
    cancels (.xcancelReg f) (opnd s w l f.lit f.a.toNat).toNat ∧ cancels (.xcancelImm f) f.c.toNat ∧
    (let h : Hdr := { hdrOf (.xcancelReg f) f with rel := some scopeWg }
     (Instr.xcancelReg f).wf = true → Issues h s → guarded h s = [l] → 16 ≤ (opnd s w l f.lit f.a.toNat).toNat → s.absent = none →
      ∃ t, exec (.xcancelReg f) s = .next t ∧ Raised s t causeBounds [l] (fun _ => 0) (fun _ => 0))

/-! ### The cube array (R233–R276) -/

/-- `cube.mma` and `cube.out`, with their block in bench or in registers, release at `.die` and put one operation with the
block into the core's queue of four, with its locks; where it must wait the thread waits as for an engine resource and
keeps its block, and what its checks refuse raises its cause; the supervisor warp's bench form raises ENGINE (R264, R265).
Stated for one lane and no slot. Threads reach the accumulator: `cube.ard` reads an element, or two of them saturated to
32 bits with SAT, `cube.awr` writes 8 bytes, `cube.azero` zeroes a range in the four quads, `cube.bld` loads registers
from bench, and `cube.query` reads the queue's state; an address that is misaligned raises ALIGN, one outside the
workgroup's share BOUNDS, and one whose bytes are locked against it RANGELOCK (R272–R276). A block in bench that leaves
the allotment raises its cause unread (R26). What the model reads or chooses here: assumption log 21 and 98. -/
def Obligations.CubeStartsAndAccumulatorAccess : Prop :=
  (∀ (f : F64) (s : State) (l : Nat),
    let w := s.cur.warp
    let core := coreOf w
    let s1 := s.release w scopeDie
    let regs := (List.range 8).map (fun k => s.v w l (f.a.toNat + k))
    let bench := blockWords (s.bench.getRange (benchKey core ((s.wg w).benchBase + (opnd s w l f.lit f.a.toNat).toNat)) 64)
    let off := (opnd s w l f.lit f.a.toNat).toNat
    let z := if off % 64 ≠ 0 then 1 else 64
    let only := ∀ k ∈ blockLanes s w, k = l
    let loads : Prop := ∃ gs, checkAccess s w .bench .read z 1 false
      ((List.range (64 / z)).map (fun i => (l, off + z * i))) = .ok s gs
    let starts := fun (i : Instr) (out odd : Bool) (read : List Word) (pre : Prop) =>
      let h := cubeHdr i f
      let asked := askedBy s w l
      let block := (asked.map (·.words)).getD read
      let kept := fun (u : State) => u.asked.filter (fun a => a.warp != w || a.lane != l)
      let ask := ({ warp := w, lane := l, chan := 0, words := block } : Asked)
      i.wf = true → Issues h s → guarded h s = [l] → f.set = 0 → only → unready s w l = none → (asked = none → pre) →
      s.absent = none → s1.absent = none →
      (∀ b, asked = none → (newCube s w l read 0).refusal s out odd = some b → ∃ t, exec i s = .next t ∧
        Raised s t b [l] (fun _ => if b = causeAlign ∧ odd = true then off else 0) (fun _ => 0)) ∧
      (asked ≠ none ∨ (newCube s w l read 0).refusal s out odd = none →
        (∀ s2, acceptCube s1 w l block 0 = (false, s2) → Completes h i s { s2 with asked := kept s2 } (fun _ x => x) ∧
          (s1.cores.get core).cube.length < 4 ∧ (∃ x ∈ (s2.cores.get core).cube, x.block = block ∧ x.ready = true ∧
            x.vgid = (s.warp w).vgid ∧ x.pass = 0 ∧ x.op = s1.serial + 1) ∧ s2.mem = s1.mem ∧ s2.vregs = s1.vregs) ∧
        (∀ s2, acceptCube s1 w l block 0 = (true, s2) → ∃ t, exec i s = .next t ∧
          Leaves t { s2 with asked := kept s2 ++ (if (unready s2 w l).isNone then [ask] else []) } w (issuing s) (fun m x =>
            if m = l then { x with wait := .resource } else x.past s.cur.pc h.len s.tick)))
    let supRaises := fun (i : Instr) =>
      i.wf = true → Issues (cubeHdr i f) s → guarded (cubeHdr i f) s = [l] → isSup w = true → s.absent = none →
        ∃ t, exec i s = .next t ∧ Raised s t causeEngine [l] (fun _ => 0) (fun _ => 0)
    let leaves := fun (i : Instr) =>
      i.wf = true → Issues (cubeHdr i f) s → guarded (cubeHdr i f) s = [l] → isSup w = false → only → hasBlock s w l = false →
      (s.wg w).benchLen < off + 64 → s.absent = none → ∃ t, exec i s = .next t ∧
        Raised s t (if off % 64 ≠ 0 then causeAlign else causeBounds) [l] (fun _ => off) (fun _ => 0)
    starts (.cubeMmaReg f) false false regs True ∧ starts (.cubeOutReg f) true false regs True ∧
    (isSup w = false → starts (.cubeMmaBench f) false (decide (off % 64 ≠ 0)) bench loads ∧
      starts (.cubeOutBench f) true (decide (off % 64 ≠ 0)) bench loads) ∧
    supRaises (.cubeMmaBench f) ∧ supRaises (.cubeOutBench f) ∧ leaves (.cubeMmaBench f) ∧ leaves (.cubeOutBench f)) ∧
  (∀ (f : F64) (s : State),
    let w := s.cur.warp
    let hR : Hdr := { hdrOf (.cubeArd f) f with mem := true }
    let hW : Hdr := { hdrOf (.cubeAwr f) f with mem := true }
    let hZ : Hdr := { hdrOf (.cubeAzero f) f with mem := true }
    let hB : Hdr := { hdrOf (.cubeBld f) f with mem := true }
    let key := fun (l : Nat) => accPlace s w (accAddr s w f l)
    let raw := fun (l k : Nat) => sextInt 64 (leNat (s.acc.getRange (key l + 8 * k) 8))
    let clamp := fun (x : Int) => clampInt true 32 x
    let sat := f.md.getLsbD 1
    let val := fun (l : Nat) => if sat then BitVec.ofNat 64 (wrapInt 32 (clamp (raw l 1)) * 2 ^ 32 + wrapInt 32 (clamp (raw l 0)))
      else BitVec.ofInt 64 (raw l 0)
    let fl := fun (l : Nat) => if sat && (clamp (raw l 0) != raw l 0 || clamp (raw l 1) != raw l 1) then flagSat else 0
    let addrs := fun (h : Hdr) => (guarded h s).map (fun l => (l, accAddr s w f l))
    let lo := fun (l : Nat) => (opnd s w l f.lit f.a.toNat).toNat
    let n := fun (l : Nat) => (opnd s w l f.lit f.b.toNat).toNat
    let place := fun (l r : Nat) => benchKey (coreOf w) ((s.wg w).benchBase + (lo l + 256 * r + 8 * l) % 2 ^ 64)
    let reads := fun (l m : Nat) => if f.d.toNat ≤ m ∧ m < f.d.toNat + f.c.toNat then
      some (BitVec.ofNat 64 (leNat (s.bench.getRange (place l (m - f.d.toNat)) 8))) else none
    let q := (s.cores.get (coreOf w)).cube
    let mine := fun (x : CubeOp) => !isSup w && x.vgid == (s.warp w).vgid
    let word := (s.wg w).cubeErr * 2 ^ 16 + (s.wg w).cubeDone * 2 ^ 8 + b2n ((q.head?.map (fun x => mine x && x.ready)).getD false) * 2 ^ 7 +
      (q.filter mine).length * 2 ^ 4 + (4 - q.length)
    let held := fun (l size : Nat) (writes : Bool) => s.locks.any (fun k => k.space == .acc (coreOf w) &&
      (writes || k.kind == .write) && decide (k.lo < key l + size) && decide (key l < k.hi)) = true
    let inShare := fun (l size : Nat) => accAddr s w f l % size = 0 ∧ accAddr s w f l < 2 ^ 17 ∧
      accAddr s w f l % 2 ^ 15 + size ≤ (if isSup w then 0 else (s.wg w).accShare)
    let raises := fun (i : Instr) (b l a : Nat) => ∃ t, exec i s = .next t ∧ Raised s t b [l] (fun _ => a) (fun _ => 0)
    (∀ l, (Instr.cubeArd f).wf = true → Issues hR s → guarded hR s = [l] → s.absent = none →
      let size := if sat then 16 else 8
      (accAddr s w f l % size ≠ 0 → raises (.cubeArd f) causeAlign l (accAddr s w f l)) ∧
      (accAddr s w f l % size = 0 → ¬ inShare l size → raises (.cubeArd f) causeBounds l (accAddr s w f l)) ∧
      (inShare l size → held l size false → raises (.cubeArd f) causeRangelock l (accAddr s w f l))) ∧
    ((Instr.cubeArd f).wf = true → Issues hR s → guarded hR s ≠ [] → f.set = 0 →
      accCauses s w (if sat then 16 else 8) false (addrs hR) = [] → (∀ l ∈ guarded hR s, (s.warp w).fen &&& fl l = 0) →
      ∃ t, exec (.cubeArd f) s = .next t ∧ RegEffect hR s t { vec := toVec f.d.toNat val, flg := unionFlags (guarded hR s) fl }) ∧
    (∀ l, (Instr.cubeAwr f).wf = true → Issues hW s → guarded hW s = [l] → f.set = 0 →
      (accCauses s w 8 true (addrs hW) = [] → Completes hW (.cubeAwr f) s
        { s with acc := s.acc.setRange (key l) (leBytes 8 (n l)) } (fun _ x => x)) ∧
      (s.absent = none → accAddr s w f l % 8 ≠ 0 → raises (.cubeAwr f) causeAlign l (accAddr s w f l)) ∧
      (s.absent = none → accAddr s w f l % 8 = 0 → ¬ inShare l 8 → raises (.cubeAwr f) causeBounds l (accAddr s w f l)) ∧
      (s.absent = none → inShare l 8 → held l 8 true → raises (.cubeAwr f) causeRangelock l (accAddr s w f l))) ∧
    (∀ l, (Instr.cubeAzero f).wf = true → Issues hZ s → guarded hZ s = [l] → s.absent = none →
      let part := fun (k : Nat) => accKey s (coreOf w) (s.warp w).vgid k (lo l)
      let fits : Prop := lo l < 2 ^ 15 ∧ lo l + n l ≤ (if isSup w then 0 else (s.wg w).accShare)
      let locked : Prop := ∃ k ∈ s.locks, k.space = .acc (coreOf w) ∧ ∃ g, g < 4 ∧ k.lo < part g + n l ∧ part g < k.hi
      (lo l % 64 ≠ 0 ∨ n l % 64 ≠ 0 → raises (.cubeAzero f) causeAlign l (lo l)) ∧
      (lo l % 64 = 0 → n l % 64 = 0 → ¬ fits → raises (.cubeAzero f) causeBounds l (lo l)) ∧
      (lo l % 64 = 0 → n l % 64 = 0 → fits → n l ≠ 0 → locked →
        ∃ a, azeroLocked s w (l, lo l, n l) = some a ∧ lo l ≤ a ∧ a < lo l + n l ∧ raises (.cubeAzero f) causeRangelock l a) ∧
      (lo l % 64 = 0 → n l % 64 = 0 → fits → (n l = 0 ∨ ¬ locked) →
        Completes hZ (.cubeAzero f) s { s with acc := (List.range 4).foldl (fun (m : SMap Byte) k => m.fill (part k) (n l) 0) s.acc }
          (fun _ x => x))) ∧
    (∀ gs, (Instr.cubeBld f).wf = true → Issues hB s → guarded hB s ≠ [] → f.set = 0 →
      checkAccess s w .bench .read 8 8 false ((guarded hB s).flatMap (fun l => (List.range f.c.toNat).map (fun r =>
        (l, (lo l + 256 * r + 8 * l) % 2 ^ 64)))) = .ok s gs →
      ∃ t, exec (.cubeBld f) s = .next t ∧ RegEffect hB s t { vec := reads }) ∧
    ((Instr.cubeQuery f).wf = true → Issues (hdrOf (.cubeQuery f) f) s → guarded (hdrOf (.cubeQuery f) f) s ≠ [] →
      ∃ t, exec (.cubeQuery f) s = .next t ∧ RegEffect (hdrOf (.cubeQuery f) f) s t
        { vec := toVec f.d.toNat (fun _ => BitVec.ofNat 64 word) }))

/-- One output position of a pass: in the integer mode the accumulator takes the exact sum of the products, wrapped; in a
floating-point mode without special operands each product keeps 48 bits below the largest, the truncated terms are summed
exactly, and the sum is rounded once and added once (R244–R246). The running operation of a core's queue does its passes
one by one: each is counted once its residue checks agree, a pass whose checks do not is done again (R252, R254), and an
uncorrectable error ends the operation with ERR 2 (R255); after the last the operation leaves the queue with its locks,
its credit and its slot, and DONE counts it (R268). What the model reads or chooses here: assumption log 22. -/
def Obligations.CubeArithmeticAndPasses : Prop :=
  ((∀ (x : CubeOp) (p : PosChunks) (old : Nat), x.mode.acc = .i32 →
    let prod := fun (j : Nat) => ((p.factors x.rk j).map (fun f => f.comp.toInt)).foldl (· * ·) 1
    (x.position p old).1 = wrapInt (8 * x.accBytes) ((old : Int) + ((List.range 32).map prod).sum) ∧ (x.position p old).2 = 0) ∧
  (∀ (ps : List (Bool × Nat × Int)), (∀ p ∈ ps, p.2.1 ≠ 0) → ps ≠ [] →
    ∃ top : Int, (∀ p ∈ ps, (Nat.log2 p.2.1 : Int) + p.2.2 ≤ top) ∧ (∃ p ∈ ps, (Nat.log2 p.2.1 : Int) + p.2.2 = top) ∧
      let u := top - 48
      let term := fun (p : Bool × Nat × Int) =>
        if u ≤ p.2.2 then p.2.1 * 2 ^ (p.2.2 - u).toNat else p.2.1 / 2 ^ (u - p.2.2).toNat
      let loses := fun (p : Bool × Nat × Int) => decide (p.2.2 < u) && p.2.1 % 2 ^ (u - p.2.2).toNat != 0
      stageOne (ps.map (fun p => FNum.fin p.1 p.2.1 p.2.2)) =
        ((ps.map (fun p => if p.1 then -((term p : Nat) : Int) else ((term p : Nat) : Int))).sum, u, ps.any loses)) ∧
  (∀ old e, addChunk old 0 e = (old, 0)) ∧
  ∀ old (sum e : Int), sum ≠ 0 → addChunk old sum e =
    ((addF .f32 .rne false old (roundF .f32 .rne (decide (sum < 0)) sum.natAbs e false).1).1,
     (roundF .f32 .rne (decide (sum < 0)) sum.natAbs e false).2 |||
       (addF .f32 .rne false old (roundF .f32 .rne (decide (sum < 0)) sum.natAbs e false).1).2)) ∧
  (∀ (core : Nat) (s s1 : State) (x x1 : CubeOp) (q : List CubeOp) (cols : List Nat),
    core < 2048 → (s.cores.get core).cube = x :: q → x.ready = true →
    let runs : Prop := x.pass < x.total ∧ ((s.wgs.get x.vgid).phase ≠ .stopping ∨ x.replay = true) ∧ x.refused = false ∧
      (x.pass = 0 → isFrozen s x.owner (dieOfCore core) = false)
    (runs → x.isOut = false → x.runPass s core = .ok s1 x1 → s1.absent = none →
      exec (.cubePass core [] false) s = .next (s1.putCube core x1) ∧ x1.pass = x.pass + 1 ∧ x1.op = x.op ∧ x1.block = x.block) ∧
    (runs → x.isOut = true → x.runBlock s core = .ok s1 x1 → s1.absent = none →
      exec (.cubePass core [] false) s = .next (s1.putCube core x1)) ∧
    (runs → x.isOut = false → x.runPass s core = .ok s1 x1 → s.absent = none → cols ≠ [] → (∀ c ∈ cols, c < 256) →
      x.badCols = [] →
      ∃ t, exec (.cubePass core cols false) s = .next t ∧ t.acc = s.acc ∧ (t.cores.get core).replays = (s.cores.get core).replays + 1 ∧
        ∃ y ∈ (t.cores.get core).cube, y.op = x.op ∧ y.pass = x.pass ∧ y.badCols = cols ∧ y.replay = true) ∧
    (runs → ∃ t, exec (.cubePass core [] true) s = .next t ∧ t = x.failed s core 2 false ∧ (t.wgs.get x.vgid).cubeErr = 2) ∧
    (x.total ≤ x.pass → x.baren = false → x.sent = none → showFits s x.owner x.wrote (.bench 0) = true →
      ∃ t, exec (.cubeOpComplete core) s = .next t ∧
      (t.wgs.get x.vgid).cubeDone = ((s.wgs.get x.vgid).cubeDone + 1) % 256 ∧
      (∀ y ∈ (t.cores.get core).cube, y.op ≠ x.op) ∧ ∀ k ∈ t.locks, k.op ≠ x.op))


/-! ### Collective operations and landing zones (R295–R312) -/

/-- `coll.run` reads its 128-byte descriptor and puts one operation into the engine, with its locks and its number, when there
is a place; `coll.cancel` ends the issuing workgroup's operations on its die and answers their number; `coll.arm` arms a
landing zone when the port's classifier and the lock entries allow. What the engine refuses raises its cause, and what
finds no place waits and keeps the descriptor it has read (R294, R295, R306, R308, R310, R312). Stated for one lane and,
for `coll.run`, no slot. `coll.rel` frees bytes of a landing zone's ring, `coll.disarm` frees the zone with its classifier
entry and locks and answers its stream position, or waits for its records and additions, and `coll.query` answers its
state; the end of `coll.disarm` is an acquire. A descriptor that leaves the address space raises its cause unread (R26). A
register that names no zone raises BOUNDS; a release of a zone that is not armed, or of more than has landed, ENGINE
(R297, R299, R311). -/
def Obligations.CollectiveAndZoneInstructions : Prop :=
  (∀ (f : F64) (s s1 : State) (l : Nat) (gs : List Got),
    let w := s.cur.warp
    let owner := (s.warp w).owner
    let a := (opnd s w l f.lit f.a.toNat).toNat
    let z := if a % 64 ≠ 0 then 1 else 64
    let bytes := gs.flatMap (fun (g : Got) => (List.range z).map (fun k => s1.byteAt (g.loc.plus k)))
    let desc := fun (n : Nat) => (List.range n).map (fun j => BitVec.ofNat 64 (leNat ((bytes.drop (8 * j)).take 8)))
    let reads := fun (n : Nat) => s1.port = [] ∧ (∀ g ∈ gs, g.loc.onDevice z) ∧
      checkAccess s w .global .read z 1 false ((List.range (n / z)).map (fun i => (l, a + z * i))) = .ok s1 gs
    let asked := askedBy s w l
    let kept := fun (u : State) => u.asked.filter (fun y => y.warp != w || y.lane != l)
    let raises := fun (i : Instr) (b : Nat) => ∃ t, exec i s = .next t ∧ Raised s t b [l] (fun _ => 0) (fun _ => 0)
    let waits := fun (i : Instr) (u : State) => ∃ t, exec i s = .next t ∧ Leaves t u w (issuing s) (fun k x =>
      if k = l then { x with wait := .resource } else x.past s.cur.pc (hdrOf i f).len s.tick)
    let hRun := { hdrOf (.collRun f) f with rel := some scopePkg }
    let s2 := s1.release w scopePkg
    let block := (asked.map (·.words)).getD (desc 16)
    let x := newColl s1 w (desc 16)
    let ask := ({ warp := w, lane := l, chan := 0, words := block } : Asked)
    let hCancel := { hdrOf (.collCancel f) f with rel := some scopeWg }
    let mine := fun (x : CollOp) => x.die == dieOf w &&
      (if isSup w then x.owner == owner else x.vgid == (s.warp w).vgid)
    let hArm := hdrOf (.collArm f) f
    let d := dfield (desc 8)
    ((Instr.collRun f).wf = true → Issues hRun s → guarded hRun s = [l] → (∀ k ∈ askedLanes s w, k = l) → asked = none →
      2 ^ 56 < a + 128 → s.absent = none → ∃ t, exec (.collRun f) s = .next t ∧
        Raised s t (if a % 64 ≠ 0 then causeAlign else causeBounds) [l] (fun _ => a) (fun _ => 0)) ∧
    ((Instr.collRun f).wf = true → Issues hRun s → guarded hRun s = [l] → (∀ k ∈ askedLanes s w, k = l) → f.set = 0 →
      s.absent = none → s1.absent = none →
      (asked = none → reads 128) → (asked ≠ none → s1 = s) →
      (∀ b, asked = none → x.refusal s1 a = some b → ∃ t, exec (.collRun f) s = .next t ∧
        Raised s t b [l] (fun _ => if b = causeAlign ∧ a % 64 ≠ 0 then a else 0) (fun _ => 0)) ∧
      (asked ≠ none ∨ x.refusal s1 a = none → s2.absent = none →
        (acceptColl s2 w block = none → waits (.collRun f) { s2 with asked := kept s2 ++ [ask] }) ∧
        ∀ s3, acceptColl s2 w block = some s3 → Completes hRun (.collRun f) s { s3 with asked := kept s3 } (fun _ y => y) ∧
          s3.colls.map (fun y => (y.op, y.desc, y.vgid, y.ended)) =
            s2.colls.map (fun y => (y.op, y.desc, y.vgid, y.ended)) ++ [(s2.serial, block, (s.warp w).vgid, none)] ∧
          s2.locks <+: s3.locks ∧ s3.mem = s2.mem)) ∧
    ((Instr.collCancel f).wf = true → Issues hCancel s → guarded hCancel s = [l] → (s.release w scopeWg).absent = none →
      (∀ y ∈ s.colls, y.ctr = 0 ∧ y.ranks ≠ []) → (∀ p ∈ s.pending, p.after = []) → ∃ t, exec (.collCancel f) s = .next t ∧
        (f.d.toNat < 384 → t.v w l f.d.toNat = BitVec.ofNat 64 (s.colls.filter mine).length) ∧
        (∀ y ∈ t.colls, mine y = false) ∧ t.mem = (s.release w scopeWg).mem ∧ t.wregs = s.wregs) ∧
    ((Instr.collArm f).wf = true → Issues hArm s → guarded hArm s = [l] → s.absent = none →
      (a % 64 ≠ 0 → ∃ t, exec (.collArm f) s = .next t ∧ Raised s t causeAlign [l] (fun _ => a) (fun _ => 0)) ∧
      (a % 64 = 0 → 2 ^ 56 < a + 64 → ∃ t, exec (.collArm f) s = .next t ∧ Raised s t causeBounds [l] (fun _ => a) (fun _ => 0)) ∧
      (a % 64 = 0 → s1.absent = none → reads 64 →
      (∀ b, armCause s1 owner (desc 8) = some b → raises (.collArm f) b) ∧
      (∀ tl gs', armCause s1 owner (desc 8) = none →
        translation s1 w .global .write ((zonePages (desc 8)).map (fun p => (l, p))) = .ok { s1 with tlb := tl } gs' →
        let s3 := { s1 with tlb := tl }
        (32 ≤ classifiers s3 (d 62 60) → Completes hArm (.collArm f) s s3 (fun _ y => y.setP f.d.toNat false)) ∧
        (classifiers s3 (d 62 60) < 32 → (List.range 4).all (fun die => locksFit s3 die owner (zoneLocks 0 owner (desc 8))) = true →
          Completes hArm (.collArm f) s (s3.armZone w (desc 8)) (fun _ y => y.setP f.d.toNat true) ∧
          (let z := zoneOf (s3.armZone w (desc 8)) owner (d 56 52)
           z.armed = true ∧ z.revoked = false ∧ z.base = d 119 64 ∧ z.z = d 167 128 ∧ z.ctr = d 503 448 ∧ z.w = 0 ∧ z.rd = 0)) ∧
        (classifiers s3 (d 62 60) < 32 → (List.range 4).all (fun die => locksFit s3 die owner (zoneLocks 0 owner (desc 8))) = false →
          waits (.collArm f) s3))))) ∧
  (∀ (f : F64) (s : State) (l zn : Nat),
    let w := s.cur.warp
    let owner := (s.warp w).owner
    let reg := (opnd s w l f.lit f.a.toNat).toNat
    let n := (opnd s w l f.lit f.b.toNat).toNat
    let raises := fun (i : Instr) (b : Nat) => ∃ t, exec i s = .next t ∧ Raised s t b [l] (fun _ => 0) (fun _ => 0)
    let status := fun (z : Zone) => if z.armed = false then 0 else
      2 ^ 63 + b2n (z.paused && !z.revoked) * 2 ^ 62 + b2n z.revoked * 2 ^ 61 + z.drops * 2 ^ 40 + (z.z - (z.w - z.rd)) % 2 ^ 40
    let rel := fun (i : Instr) =>
      let h := { hdrOf i f with rel := some scopePkg }
      let u := s.release w scopePkg
      let z := zoneOf u owner zn
      i.wf = true → Issues h s → guarded h s = [l] → s.absent = none → u.absent = none →
        (32 ≤ zn → raises i causeBounds) ∧
        (zn < 32 → z.armed = false ∨ (z.revoked = false ∧ z.w < z.rd + n) → raises i causeEngine) ∧
        (zn < 32 → z.armed = true → z.revoked = true → Completes h i s u (fun _ x => x)) ∧
        (zn < 32 → z.armed = true → z.revoked = false → z.rd + n ≤ z.w →
          ∃ t, exec i s = .next t ∧ (zoneOf t owner zn).rd = z.rd + n ∧ t.mem = u.mem ∧ t.vregs = s.vregs ∧
            ((zoneOf t owner zn).paused = true → (zoneOf t owner zn).free < max z.xoff z.xon))
    let disarm := fun (i : Instr) =>
      let h := hdrOf i f
      let z := zoneOf s owner zn
      i.wf = true → Issues h s → guarded h s = [l] → s.absent = none →
        (32 ≤ zn → raises i causeBounds) ∧
        (zn < 32 → z.armed = false → ∃ t, exec i s = .next t ∧ RegEffect h (s.acquireIn w scopePkg [l]) t { vec := toVec f.d.toNat (fun _ => 0) }) ∧
        (zn < 32 → z.armed = true → z.queue = [] → z.uncounted = 0 → z.status = 0 → ∃ t, exec i s = .next t ∧
          (f.d.toNat < 384 → t.v w l f.d.toNat = BitVec.ofNat 64 z.w) ∧ (zoneOf t owner zn).armed = false ∧
          (t.thread w l).acqSlots = (s.thread w l).acqSlots ||| accessSlots s w l ∧ (∀ k ∈ t.locks, k.op ≠ z.op) ∧ (∀ m, m ≠ zn → zoneOf t owner m = zoneOf s owner m) ∧ t.mem = s.mem) ∧
        (zn < 32 → z.armed = true → ¬ (z.queue = [] ∧ z.uncounted = 0 ∧ z.status = 0) → ∃ t, exec i s = .next t ∧
          (t.thread w l).wait = .formation ∧ (t.thread w l).pc = s.cur.pc ∧ (zoneOf t owner zn).closing = true)
    let query := fun (i : Instr) =>
      let h := hdrOf i f
      i.wf = true → Issues h s → guarded h s = [l] →
        (32 ≤ zn → raises i causeBounds) ∧
        (zn < 32 → ∃ t, exec i s = .next t ∧ RegEffect h s t
          { vec := toVec f.d.toNat (fun _ => BitVec.ofNat 64 (status (zoneOf s owner zn))) })
    (zn = reg → rel (.collRelReg f) ∧ disarm (.collDisarmReg f) ∧ query (.collQueryReg f)) ∧
    (zn = f.c.toNat → rel (.collRelImm f) ∧ disarm (.collDisarmImm f) ∧ query (.collQueryImm f)))


/-! ### Launches (R314–R333) -/

/-- Launches are requested and cancelled: `lnch` accepts the 128-byte record that its register names, or answers 0 where the
die or the owner has too many; `lcancel` begins the end of the launch that a SEQ names and answers whether it did;
`lquery` answers a launch's state. A write of the host to SUBMIT is accepted, asked to retry or refused, and one to CANCEL
cancels (R62, R314, R315, R331, R332). Stated for one lane. What the model reads or chooses here: assumption log 45. -/
def Obligations.LaunchRequests : Prop :=
  (∀ (f : F64) (s s1 : State) (l : Nat) (gs : List Got),
    let w := s.cur.warp
    let o := (s.warp w).owner
    let a := (opnd s w l f.lit f.a.toNat).toNat
    let record := gs.flatMap (fun (g : Got) => (List.range 64).map (fun k => s1.byteAt (g.loc.plus k)))
    let i : Instr := .lnch f
    let h := { hdrOf i f with mem := true, rel := some scopePkg }
    let s2 := s1.release w scopePkg
    let here := fun (x : Launch) => x.owner == o && seqDev x.seq && seqSrc x.seq == dieOf w
    let full : Prop := 256 ≤ countLaunches s2 here ∨ 4096 ≤ countLaunches s2 (fun x => x.owner == o)
    let n := (s2.dies.get (dieOf w)).devSeq.get o
    let seq : Word := BitVec.ofNat 64 (2 ^ 63 + dieOf w * 2 ^ 48 + n % 2 ^ 48)
    let s3 := (s2.acceptLaunch o seq none record).setDie (dieOf w) (fun d => { d with devSeq := d.devSeq.set o (n + 1) })
    let answers := fun (u : State) (x : Word) =>
      (f.set = 0 → ∃ t, exec i s = .next t ∧ RegEffect h u t { vec := toVec f.d.toNat (fun _ => x) }) ∧
      (f.set ≠ 0 → ∃ t p, exec i s = .next t ∧ StartEffect h u t p ∧ p.unit = .lnch ∧ p.slot = f.set.toNat ∧
        p.work = .writeRegs [(l, f.d.toNat, x)])
    i.wf = true → Issues h s → guarded h s = [l] → s.absent = none →
      (a % 64 ≠ 0 → ∃ t, exec i s = .next t ∧ Raised s t causeAlign [l] (fun _ => a) (fun _ => 0)) ∧
      (a % 64 = 0 → 2 ^ 56 ≤ a → ∃ t, exec i s = .next t ∧ Raised s t causeBounds [l] (fun _ => a) (fun _ => 0)) ∧
      (a % 64 = 0 → a < 2 ^ 56 → checkAccess s w .global .read 64 1 false [(l, a), (l, a + 64)] = .ok s1 gs →
        s1.port = [] → s1.absent = none → (∀ g ∈ gs, g.loc.onDevice 64) →
        (full → answers s2 0) ∧
        (¬ full → answers s3 seq ∧ (let x := s3.launches.get s2.serial
          x.state = .accepted ∧ x.owner = o ∧ x.seq = seq ∧ x.record = record ∧ x.accepted = s.tick)))) ∧
  (∀ (f : F64) (s : State) (l : Nat),
    let w := s.cur.warp
    let o := (s.warp w).owner
    let q := opnd s w l f.lit f.a.toNat
    let hC := hdrOf (.lcancel f) f
    let hQ := hdrOf (.lquery f) f
    let stopped := fun (k : Nat) => s.endLaunch k statusCancelled 0 none
    let vec := fun (x : Word) => ({ vec := toVec f.d.toNat (fun _ => x) } : Writes)
    let word := match namedLaunch s o q with
      | none => 0
      | some k =>
        let x := s.launches.get k
        let code := match x.state with
          | .none => 0 | .accepted => (if x.depc = 0 then 2 else 1) | .waiting => 1 | .queued => 2 | .running => 3 | .ending => 4
        min x.placed (2 ^ 32 - 1) * 2 ^ 16 + x.prio * 2 ^ 9 + code
    ((Instr.lcancel f).wf = true → Issues hC s → guarded hC s = [l] →
      (namedLaunch s o q = none → ∃ t, exec (.lcancel f) s = .next t ∧ RegEffect hC s t (vec 0)) ∧
      ∀ k, namedLaunch s o q = some k →
        ((s.launches.get k).ending = true → ∃ t, exec (.lcancel f) s = .next t ∧ RegEffect hC s t (vec 0)) ∧
        ((s.launches.get k).ending = false → ∃ t, exec (.lcancel f) s = .next t ∧ RegEffect hC (stopped k) t (vec 1))) ∧
    ((Instr.lquery f).wf = true → Issues hQ s → guarded hQ s = [l] →
      ∃ t, exec (.lquery f) s = .next t ∧ RegEffect hQ s t (vec (BitVec.ofNat 64 word)))) ∧
  (∀ (s : State) (k status detail : Nat) (wg : Option Nat), (s.launches.get k).state ≠ .none → (s.launches.get k).ending = false →
    let t := s.endLaunch k status detail wg
    let x := t.launches.get k
    x.ending = true ∧ x.state = .ending ∧ x.status = status ∧ x.detail = detail ∧ x.failWg = wg ∧
      (∀ v ∈ warpsOfLaunch s k, (t.warp v).stopped = true) ∧ t.agenda = s.agenda ++ [.launchEnd k] ∧ t.mem = s.mem) ∧
  ∀ (ifc offset pasid : Nat) (deferrable : Bool) (bytes : List Byte) (q : Word) (s : State),
    let x := s.ifcs.get ifc
    let i : Instr := .submit ifc offset pasid deferrable bytes
    let formed : Prop := deferrable = true ∧ offset = 0 ∧ bytes.length = 128
    let counts := fun (t : State) (a : Nat) => t.launches = s.launches ∧
      t.ifcs = s.ifcs.set ifc { x with errCnt := x.errCnt + 1, answer := a }
    (x.owner = none ∨ ¬ formed → ∃ t, exec i s = .next t ∧ counts t (if deferrable then 1 else 0)) ∧
    (∀ o, x.owner = some o → formed → pasid ≠ x.pasid → ∃ t, exec i s = .next t ∧ counts t 1) ∧
    (∀ o r, x.owner = some o → formed → (s.owners.get o).pending = some r → r.1 = 0x0A ∨ r.1 = 0x0B →
      ∃ t, exec i s = .next t ∧ counts t 1) ∧
    (∀ o, x.owner = some o → formed → pasid = x.pasid → (s.owners.get o).pending = none →
      let full : Prop := (s.owners.get o).pol 223 208 ≤ x.inflight ∨ 4096 ≤ countLaunches s (fun y => y.owner == o)
      (full → ∃ t, exec i s = .next t ∧ t.launches = s.launches ∧
        t.ifcs = s.ifcs.set ifc { x with retryCnt := x.retryCnt + 1, answer := 2 }) ∧
      (¬ full → ∃ t, exec i s = .next t ∧ (let y := t.launches.get s.serial
        y.state = .accepted ∧ y.owner = o ∧ y.seq = seqNext s ifc ∧ y.ifc = some ifc ∧ y.record = bytes) ∧
        t.ifcs = s.ifcs.set ifc { x with seqNum := x.seqNum + 1, inflight := x.inflight + 1, answer := 3 })) ∧
    (∀ o k, x.owner = some o → pasid = x.pasid → namedLaunch s o q = some k → (s.launches.get k).ifc = some ifc →
      (s.launches.get k).ending = false → ∃ t, exec (.cancel ifc pasid q) s = .next t ∧
        t = s.endLaunch k statusCancelled 0 none) ∧
    (x.owner = none ∨ pasid ≠ x.pasid → exec (.cancel ifc pasid q) s = .next s)

/-- The life of a launch: its record is checked and the launch waits for its dependence or is queued, or it ends with the code
of the first check that fails; the counter of its dependence is read, or cannot be; its workgroups are placed, one at a
time, with their warps at the entry point and every register but w0 to w7 zero; a workgroup whose threads have all exited
ends; and the launch unit takes an ended launch off the device once its record is written (R29, R33, R59, R62, R319, R320,
R324). What the model reads or chooses here: assumption log 11, 14, 62, 63, 66 and 84. -/
def Obligations.LaunchLife : Prop :=
  ∀ (k : Nat) (s : State),
    let x := s.launches.get k
    (x.state = .accepted → ownerHere s x.owner = true → x.ending = false → x.done % 64 ≠ 0 ∨ 2 ^ 56 ≤ x.done →
      ∃ t, exec (.launchRecordCheck k false) s = .next t ∧ (let y := t.launches.get k
        y.state = .ending ∧ y.status = statusBadLaunch ∧ y.noRecord = true)) ∧
    (∀ s1 ps, x.state = .accepted → ownerHere s x.owner = true → x.done % 64 = 0 → x.done < 2 ^ 56 → x.gtn = 0 → x.barl = 0 →
      luPlaces s k x.done 80 = .ok s1 ps → s1.absent = none →
      (recordDetail s1 x [] [] true = none → ∃ t, exec (.launchRecordCheck k false) s = .next t ∧
        t = s1.setLaunch k (fun y => { y with arm := [], state := if x.depc = 0 then .queued else .waiting })) ∧
      (∀ d, recordDetail s1 x [] [] true = some d → ∃ t, exec (.launchRecordCheck k false) s = .next t ∧
        t = s1.endLaunch k statusBadLaunch d none)) ∧
    (∀ s1 bs, x.state = .waiting → ownerHere s x.owner = true → luRead s k x.depc 16 = .ok s1 bs → s1.absent = none →
      let st := leNat (bs.drop 8) % 64
      let v := leNat (bs.take 8)
      (st ≠ 0 → ∃ t, exec (.dependenceCheck k false) s = .next t ∧ t = s1.endLaunch k statusDepFail st none) ∧
      (st = 0 → x.dept ≤ v → ∃ t, exec (.dependenceCheck k false) s = .next t ∧ (t.launches.get k).state = .queued ∧
        ∀ e ∈ t.hostL2, e.2.owner = x.owner → e.2.dirty ≠ 0) ∧
      (st = 0 → v < x.dept → exec (.dependenceCheck k false) s = .next s1) ∧
      (∃ t, exec (.dependenceCheck k true) s = .next t ∧ t = s1.endLaunch k statusDepFail 0x80 none)) ∧
    (wantsPlace x = true → ownerRuns s x.owner = true → hasReturning s k = false →
      (∀ e ∈ earlierLaunches s k, placeLaunch s e = none) → ∀ t, placeLaunch s k = some t →
        exec (.workgroupPlacement k) s = .next t) ∧
    (∀ ix core t, placeOn s k ix core = some t → coreOpen s k core = true ∧ ∃ v, let g := t.wgs.get v
      g.phase = .resident ∧ g.launch = k ∧ g.owner = x.owner ∧ g.index = ix ∧ g.core = core ∧ g.warps.length = x.nWarps ∧
      g.warps.Nodup ∧ t.mem = s.mem ∧ ∀ j, j < g.warps.length → let w := g.warps.getD j 0
        coreOf w = core ∧ isSup w = false ∧ (s.warp w).live = false ∧ (t.warp w).live = true ∧ (t.warp w).vgid = v ∧
        (t.warp w).index = j ∧ (t.warp w).units.length = x.regu ∧
        (∀ n, n < 64 → t.w w n = if n < 8 then BitVec.ofNat 64 (x.arg n) else 0) ∧
        ∀ l, l < 32 → (t.thread w l).live = true ∧ (t.thread w l).pc = BitVec.ofNat 64 x.entry ∧ (t.thread w l).preds = 0 ∧
          ∀ n, n < 512 → t.v w l n = 0) ∧
    (∀ v, (s.wgs.get v).phase = .resident → (∀ w ∈ (s.wgs.get v).warps, s.liveLanes w = []) → enginesBusy s v = false →
      (s.wgs.get v).launch = k → s.port = [] → s.absent = none →
      ∃ t, exec (.workgroupEnd v) s = .next t ∧ (t.wgs.get v).phase = .none ∧ (t.launches.get k).wgDone = x.wgDone + 1 ∧
        (∀ w ∈ (s.wgs.get v).warps, (t.warp w).live = false) ∧ (∀ e ∈ t.opened, e.vgid ≠ v) ∧ t.mem = s.mem) ∧
    (x.state = .ending → ownerHere s x.owner = true → x.recorded ≠ none → x.ifc = none → s.port = [] → s.absent = none →
      ∃ t, exec (.launchEnd k) s = .next t ∧ (t.launches.get k).state = .none ∧
        (∀ v ∈ wgsOf s k, (t.wgs.get v).phase = .none) ∧ (∀ v ∈ x.sets, (t.sets.get v).live = false) ∧ t.mem = s.mem) ∧
    (∀ s1 p q, x.state = .ending → ownerHere s x.owner = true → x.recorded = none → x.noRecord = false → x.ifc = none →
      wgsOf s k = [] → warpsOfLaunch s k = [] → invBusy s k [] = false → s.xfer = [] → s.colls = [] → s.port = [] →
      s.hostL2 = [] → (∀ e ∈ s.faults, e.2.launch ≠ some k) → x.done % 64 = 0 → x.done < 2 ^ 56 →
      luPlaces s k x.done 80 = .ok s1 [(p, 0, 64), (q, 64, 16)] →
      s1.absent = none → p.onDevice 64 → q.onDevice 16 → (∀ i j, i < 64 → j < 16 → p.plus i ≠ q.plus j) →
      let u := leNat ((List.range 8).map (fun i => s1.byteAt (q.plus i)))
      ∃ t, exec (.launchEnd k) s = .next t ∧ (t.launches.get k).state = .none ∧
        (∀ i, i < 64 → t.byteAt (p.plus i) = (completionRecord s x).getD i 0) ∧
        leNat ((List.range 8).map (fun i => t.byteAt (q.plus i))) = min (u + 1) (2 ^ 64 - 1))

/-! ### The supervisor warp's instructions (R346–R355, R364) -/

/-- `tfill` installs a translation on its die or answers the first reason against it; `tprobe` answers the entry that covers
an address; `tinv` removes an owner's unpinned translations of a range from every die at once, answers how many entries
the dies held, and completes when every access that used them has ended (R346–R349). Stated for one lane. `treplay` ends
one item of the running invocation: the request goes, and the accesses that wait for it look up again, or fail with
TRANSLATE at their own address; an item that is ended already, or is none, is left. `hret` ends the invocation and charges
its cycles and bytes; `sreply` answers a mailbox record of the owner, writing its destination and clearing its slot (R350,
R355, R363). Stated for one lane, one item and one waiting thread. What the model reads or chooses here: assumption log
23. -/
def Obligations.TranslationHandlerReturnsAndReplies : Prop :=
  (∀ (f : F64) (s : State) (l : Nat),
    let w := s.cur.warp
    let die := dieOf w
    let o := (s.warp w).owner
    let a := (opnd s w l f.lit f.a.toNat).toNat
    let b := (opnd s w l f.lit f.b.toNat).toNat
    let c := (opnd s w l f.lit f.c.toNat).toNat
    let hF := { hdrOf (.tfill f) f with priv := true }
    let e := fillEntry o a b c
    let code := if fillBad s o a b c e then 2 else if !fillAllowed s o e then 1
      else if fillStale s die o (invStart s (coreOf w)) e then 3 else if fillConflicts s die o e then 4 else 0
    let arr := if e.size < 2 then tlbNormal die else tlbHuge die
    let u := if code = 0 then s.tlbPut arr e else s
    let hI := { hdrOf (.tinv f) f with priv := true, mem := true, rel := some scopePkg }
    let s1 := { s.release w scopePkg with serial := s.serial + 1 }
    let bad : Prop := b ≠ 0 ∧ (2 ^ 56 ≤ a ∨ 2 ^ 56 < a + b)
    let hP := { hdrOf (.tprobe f) f with priv := true }
    let entry := (dieArrays die).flatMap (fun k => s.tlb.get k)
    let word := fun (e : TlbEntry) => 2 ^ 63 + b2n e.pin * 2 ^ 62 + e.size * 2 ^ 60 + e.tier * 2 ^ 58 + b2n e.x * 2 ^ 57 +
      b2n e.w * 2 ^ 56 + b2n e.r * 2 ^ 55 + b2n e.uc * 2 ^ 54 + bitsOf e.frame 51 16 * 2 ^ 16 + e.ifc
    ((Instr.tfill f).wf = true → Issues hF s → guarded hF s = [l] →
      (f.set = 0 → ∃ t, exec (.tfill f) s = .next t ∧
        RegEffect hF u t { vec := toVec f.d.toNat (fun _ => BitVec.ofNat 64 code) }) ∧
      (f.set ≠ 0 → ∃ t p, exec (.tfill f) s = .next t ∧ StartEffect hF u t p ∧ p.unit = .tfill ∧ p.slot = f.set.toNat ∧
        p.work = .writeRegs [(l, f.d.toNat, BitVec.ofNat 64 code)]) ∧
      (code = 0 → (u.tlb.get arr).head? = some e)) ∧
    ((Instr.tprobe f).wf = true → Issues hP s → guarded hP s = [l] → ∃ t, exec (.tprobe f) s = .next t ∧
      RegEffect hP s t { vec := toVec f.d.toNat (fun _ => BitVec.ofNat 64 (
        if 2 ^ 56 ≤ a then 0
        else match entry.find? (fun e => e.owner == o && decide (e.va ≤ a) && decide (a < e.va + e.bytes)) with
          | none => 0
          | some e => word e)) }) ∧
    ((Instr.tinv f).wf = true → Issues hI s → guarded hI s = [l] → s.absent = none →
      (bad → ∃ t, exec (.tinv f) s = .next t ∧ Raised s t causeBounds [l] (fun _ => a) (fun _ => 0)) ∧
      (¬ bad → s1.absent = none → (∀ k, ∀ x ∈ s.xfer.get k, x.sent = none) → (∀ x ∈ s.colls, x.sent = none) →
        (∀ v, (s.wgs.get v).savedX = []) →
        ∃ t, exec (.tinv f) s = .next t ∧ t.mem = s1.mem ∧ t.vregs = s.vregs ∧
        (∀ k, ∀ x ∈ t.tlb.get k, x.owner = o → x.pin = true ∨ (b ≠ 0 ∧ rangesOverlap x.va x.bytes a b = false)) ∧
        (∀ k, ∀ x ∈ s.tlb.get k, x.owner ≠ o ∨ x.pin = true ∨ (b ≠ 0 ∧ rangesOverlap x.va x.bytes a b = false) →
          x ∈ t.tlb.get k) ∧
        (let n := (s1.invalidate o a b).1
         t.tinvs.map (fun q => (q.owner, q.va, q.len, q.removed, q.pid)) =
           s.tinvs.map (fun q => (q.owner, q.va, q.len, q.removed, q.pid)) ++ [(o, a, b, n, some s.serial)] ∧
         (∃ p ∈ t.pending, p.pid = s.serial ∧ p.unit = .tinv ∧ p.lanes = [l] ∧ p.acq = some scopePkg ∧ p.slot = f.set.toNat ∧
           p.work = .writeRegs [(l, f.d.toNat, BitVec.ofNat 64 n)])) ∧
        (t.thread w l).pc = s.cur.pc + BitVec.ofNat 64 hI.len ∧ (f.set = 0 → (t.thread w l).wait = .result s.serial) ∧
        (f.set ≠ 0 → (t.thread w l).wait = .ready)))) ∧
  (∀ (f : F64) (s : State) (l v m : Nat) (inv : Invocation) (it : InvItem) (r : WalkReq),
    let w := s.cur.warp
    let core := coreOf w
    let code := (opnd s w l f.lit f.a.toNat).toNat
    let g := it.va / 2 ^ 16
    let u := s.release w scopePkg
    let quiet : Prop := s.port = [] ∧ s.absent = none ∧ (s.warp w).vgid = 0
    let running : Prop := (s.cores.get core).inv = some inv ∧ inv.depth = 1 ∧ inv.kind = .walk ∧ inv.frozen = false ∧ inv.outer = none
    let waiting := fun (a : Nat) => v ≠ w ∧ a ≠ 0 ∧ s.liveLanes v = [m] ∧ s.walks = [r] ∧ r.owner = inv.owner ∧ r.core = core ∧ r.granule = it.key ∧
      r.die = it.die ∧ r.taken = true ∧ r.waiters = [.thread v a] ∧ inv.items[l]? = some it ∧ it.ended = false
    let ends := fun (i : Instr) (code : Nat) =>
      let h := { hdrOf i f with priv := true, rel := some scopePkg }
      i.wf = true → Issues h s → guarded h s = [l] → quiet → running →
        ((∀ x, inv.items[l]? = some x → x.ended = true) → Completes h i s u (fun _ x => x)) ∧
        (∀ a va, waiting a → (s.thread v m).wait = .translation a [(g, va)] → code % 4 = 0 ∨ code % 4 = 2 →
          ∃ t, exec i s = .next t ∧ t.walks = [] ∧ t.mem = s.mem ∧ t.vregs = s.vregs ∧
            (∃ j, (t.cores.get core).inv = some j ∧ j.items[l]? = some { it with ended := true }) ∧
            (t.thread v m).pc = (s.thread v m).pc ∧ (t.thread v m).wait = .ready ∧
            (code % 4 = 2 → (t.thread v m).raised = true ∧ (t.thread v m).faultVa = BitVec.ofNat 64 va ∧
              (t.warp v).cause = (s.warp v).cause ||| (1#32 <<< causeTranslate) ∧ (t.warp v).syncNew = true) ∧
            (code % 4 = 0 → t.warp v = s.warp v))
    let hH := { hdrOf (.hret f) f with priv := true, coll := true }
    let hS := { hdrOf (.sreply f) f with priv := true, rel := some scopePkg }
    let x := (opnd s w l f.lit f.b.toNat)
    ends (.treplayReg f) code ∧ ends (.treplayImm f) f.c.toNat ∧
    (∀ k, (Instr.hret f).wf = true → Issues hH s → guardLanes hH s ≠ [] → s.absent = none → running → inv.items = [it] →
      it.ended = true → it.launch = some k → (s.launches.get k).state ≠ .none →
      ∃ t, exec (.hret f) s = .next t ∧ (t.cores.get core).inv = none ∧ (t.warp (supOf core)).live = false ∧
        (∀ n, n < 32 → (t.thread (supOf core) n).live = false) ∧ t.mem = s.mem ∧
        (t.launches.get k).hcyc = (s.launches.get k).hcyc + inv.hcyc ∧
        (t.launches.get k).hbytes = (s.launches.get k).hbytes + inv.hbytes) ∧
    (∀ rec_ p, (Instr.sreply f).wf = true → Issues hS s → guarded hS s = [l] → s.port = [] → s.absent = none →
      (s.warp w).vgid = 0 →
      let d := s.wgs.get rec_.vgid
      (code < 32 → (s.cores.get core).mailbox.get code = some rec_ → d.owner = (s.warp w).owner → d.phase = .resident →
        d.warps[rec_.index]? = some v → s.pending = [p] → p.warp = v → p.unit = .engine → p.lanes = [rec_.lane] →
        p.slot = rec_.slot → p.work = .slotOnly → p.acq = none → p.rel = false → p.outer = false → d.savedP = [] → rec_.lane < 32 → rec_.slot ≠ 0 → rec_.dest < 384 →
        ∃ t, exec (.sreply f) s = .next t ∧ (t.cores.get core).mailbox.get code = none ∧ t.v v rec_.lane rec_.dest = x ∧
          (t.thread v rec_.lane).slots &&& (1#6 <<< (rec_.slot - 1)) = 0 ∧ t.pending = [] ∧ t.mem = s.mem) ∧
      (32 ≤ code ∨ (s.cores.get core).mailbox.get code = none → Completes hS (.sreply f) s s (fun _ y => y))))

/-- In a save or restore invocation `csave` writes a part of the workgroup's context to its place in the save frame and
`crestore` reads one back; elsewhere they raise ENGINE, a misplaced address, or a save over the depth-2 record, ALIGN or
BOUNDS, and a part that is not the workgroup's ENGINE (R351). A warp part written holds each register of the warp at its
place (R352). Stated for one lane. What the model reads or chooses here: assumption log 58 and 69. -/
def Obligations.SaveAndRestoreInstructions : Prop :=
  ∀ (f : F64) (s : State) (l v base : Nat),
    let w := s.cur.warp
    let core := coreOf w
    let a := (opnd s w l f.lit f.a.toNat).toNat
    let ix := (opnd s w l f.lit f.b.toNat).toNat
    let part := f.c.toNat
    let g := s.wgs.get v
    let size := if part = 0 then 1024 + 8192 * (quotasOf s g).getD ix 0
      else if part = 1 then g.benchLen / 128 * 128 + (g.benchLen / 128 + 511) / 512 * 64
      else if part = 2 then 1024 * g.accKiB else 2048
    let aligned : Prop := a % (if part = 0 then 1024 else 64) = 0
    let fits := fun (save : Bool) => ¬ (part = 0 ∧ g.warps.length ≤ ix) ∧ base ≤ a ∧ a + size ≤ base + 0x110000 ∧
      ¬ (save = true ∧ inDepth2Record s w .global .write a size = true)
    let u := s.chargeInv core 0 size
    let raises := fun (i : Instr) (b addr : Nat) => ∃ t, exec i s = .next t ∧ Raised s t b [l] (fun _ => addr) (fun _ => 0)
    let moves := fun (i : Instr) (save : Bool) (r : Option State) =>
      let h := { hdrOf i f with priv := true, mem := true }
      i.wf = true → Issues h s → guarded h s = [l] → s.absent = none →
        (saveInv s core = none → raises i causeEngine 0) ∧
        (saveInv s core = some (v, base) →
          (¬ aligned → raises i causeAlign a) ∧ (aligned → ¬ fits save → raises i causeBounds a) ∧
          (aligned → fits save → r = none → raises i causeEngine 0) ∧
          (∀ t, aligned → fits save → r = some t → t.absent = none →
            (f.set = 0 → Completes h i s t (fun _ x => x)) ∧
            (f.set ≠ 0 → g.warps.getD ix 0 ≠ w → ∃ t' p, exec i s = .next t' ∧ StartEffect h t t' p ∧ p.unit = .memory ∧
              p.slot = f.set.toNat)))
    part ≤ 3 →
    moves (.csave f) true (some (u.savePart v part ix a)) ∧ moves (.crestore f) false (u.restorePart v part ix a) ∧
    (∀ (k n j : Nat), let wp := (s.wgs.get k).warps.getD n 0
      let units := (s.warp wp).units.length
      let part0 := partData s (s.wgs.get k) 0 n
      let word := fun (i : Nat) => leNat ((part0.drop (8 * i)).take 8)
      part0.length = 1024 + 8192 * units ∧ word 127 = 0x57524A3800000001 ∧ word 96 % 16 = units % 16 ∧
      ∀ m, j < 32 → word j = (s.thread wp j).pc.toNat ∧ (m < 32 * units → word (128 + 32 * m + j) = (s.v wp j m).toNat))

/-! ### Completions, ends of waits, formation (R22, R30, R35–R39, R56, R68, R115, R130, R142, R145, R158, R178, R331, R347, R348) -/

/-- When a unit completes an instruction that holds a slot, its registers and flags are written whole and its slot clears; a
load reads its place then, and an accepted store reaches its home then. A `tinv` completes when no access uses what it
removed; its completion is an acquire, after which the thread's later accesses wait for its earlier ones (R30, R68, R130,
R142, R145, R158, R178, R182, R331, R347, R348). A bundle formation ends the waits of its quad that are over and queues
parts of ready threads that stand at one program counter, one part a warp; where a thread is ready and may issue, some
part is queued. A freed engine resource puts the threads of the die that wait for one back in the ready set, and a ready
thread can become urgent (R22, R35–R37, R39, R56). What the model reads or chooses here: assumption log 7, 9, 12 and 97. -/
def Obligations.UnitCompletionsFormationAndWaits : Prop :=
  (∀ (s : State) (p : Pending) (ws : List (Nat × Nat × Word)),
    let found := fun (u : WorkUnit) => s.pending.find? (fun x => x.pid == p.pid && x.unit == u) = some p ∧
      (∀ x ∈ ws, x.1 < 32) ∧ (∀ l ∈ p.lanes, l < 32) ∧ p.rel = false ∧ p.outer = false
    let rest := s.pending.filter (fun x => x.pid != p.pid)
    let cleared := fun (t : State) =>
      t.pending = rest ∧ t.mem = s.mem ∧ t.wregs = s.wregs ∧
      (∀ w, t.warp w = if w = p.warp then { s.warp w with flags := (s.warp w).flags ||| p.flags } else s.warp w) ∧
      (∀ w l, l < 32 → t.thread w l = if w = p.warp ∧ l ∈ p.lanes then
          let y := s.thread w l
          let x := (if p.acq = none then y
            else { y with acqSlots := y.acqSlots ||| accessSlots { s with pending := rest } w l }).slotClear p.slot
          if x.wait = .result p.pid then { x with wait := .ready, since := s.tick, urgent := false } else x
        else s.thread w l)
    let wrote := fun (t : State) => ∀ w l n, l < 32 → n < 384 → t.v w l n =
      match ws.reverse.find? (fun x => w == p.warp && x.1 == l && x.2.1 == n) with
      | some x => x.2.2
      | none => s.v w l n
    let completes := fun (u : WorkUnit) (i : Instr) =>
      found u → p.work = .writeRegs ws → p.acq = none → ∃ t, exec i s = .next t ∧ cleared t ∧ wrote t
    completes .divider (.dividerComplete p.pid) ∧ completes .special (.specialFunctionComplete p.pid) ∧
    completes .conversion (.conversionComplete p.pid) ∧ completes .tfill (.tfillComplete p.pid) ∧
    completes .lnch (.lnchAnswer p.pid) ∧
    (∀ (sp : Space) (ty : MemTy) (d : Nat) (x : LaneWork), found .memory → s.port = [] → awayPending s p.pid = none → s.absent = none →
      p.work = .load sp ty d [x] → p.acq = none → x.loc.onDevice (MemTy.bytes ty) → ty ≠ .b128 → d < 384 → x.lane < 32 →
      let bytes := leNat ((List.range (MemTy.bytes ty)).map (fun k => s.byteAt (x.loc.plus k)))
      ∃ t, exec (.memoryAccessComplete p.pid) s = .next t ∧ cleared t ∧
        t.v p.warp x.lane d =
          BitVec.ofInt 64 (if MemTy.signed ty then sextInt (8 * MemTy.bytes ty) bytes else (bytes : Int)) ∧
        (∀ w l n, l < 32 → n < 384 → ¬ (w = p.warp ∧ l = x.lane ∧ n = d) → t.v w l n = s.v w l n)) ∧
    (∀ (ps : PortStore), s.port = [ps] → s.absent = none → ps.loc.onDevice ps.bytes.length →
      ∃ t, exec (.memoryAccessComplete ps.pid) s = .next t ∧ t.port = [] ∧ t.pending = s.pending ∧
        StoresAt s t ps.loc ps.bytes ∧ SameRegs s t) ∧
    (∀ (q : InvReq), s.tinvs = [q] →
      (invWaits s q = true → exec (.tinvComplete q.id) s = .next s) ∧
      (invWaits s q = false → q.pid = some p.pid → found .tinv → p.work = .writeRegs ws → p.acq = some scopePkg →
        ∃ t, exec (.tinvComplete q.id) s = .next t ∧ t.tinvs = [] ∧ cleared t ∧ wrote t ∧
          ∀ d, d < 4 → (t.dies.get d).tinvDone = (s.dies.get d).tinvDone ++ [(q.owner, q.va, q.len, s.tick)]) ∧
      (invWaits s q = false → q.pid = none → ∃ t, exec (.tinvComplete q.id) s = .next t ∧ t.tinvs = [] ∧
        (t.owners.get q.owner).hart.get 0x40 = 0 ∧ t.pending = s.pending ∧ t.mem = s.mem))) ∧
  (∀ (s : State),
    (∀ quad, ∃ t new, exec (.bundleFormation quad) s = .next t ∧
      t = { s with threads := t.threads, issueQ := s.issueQ ++ new } ∧
      (∀ w l, l < 32 → t.thread w l =
        if quadOf w = quad ∧ (s.warp w).live = true ∧ (s.thread w l).live = true ∧ waitEnds s w (s.thread w l) = true
        then (s.thread w l).wake s.tick else s.thread w l) ∧
      (∀ f ∈ new, quadOf f.warp = quad ∧ mayIssue t f.warp = true ∧ f.lanes ≠ [] ∧ f.ok = true ∧
        ∀ l ∈ f.lanes, (t.thread f.warp l).live = true ∧ (t.thread f.warp l).wait = .ready ∧ (t.thread f.warp l).pc = f.pc) ∧
      (∀ w l, l < 32 → quadOf w = quad → (t.warp w).live = true → (t.thread w l).live = true →
        (t.thread w l).wait = .ready → mayIssue t w = true → supStays t w l = false → new ≠ [])) ∧
    (∀ die, ∃ t, exec (.engineResourceFreed die) s = .next t ∧ t = { s with threads := t.threads } ∧
      ∀ w l, l < 32 → t.thread w l = if dieOf w = die ∧ (s.thread w l).wait = .resource
        then { s.thread w l with wait := .ready, since := s.tick, urgent := false } else s.thread w l) ∧
    (∀ k, let x := s.threads.get k
      (x.live = true ∧ x.wait = .ready → ∃ t, exec (.threadUrgent k) s = .next t ∧ t = { s with threads := t.threads } ∧
        ∀ j, t.threads.get j = if j = k then { x with urgent := true } else s.threads.get j) ∧
      (¬ (x.live = true ∧ x.wait = .ready) → exec (.threadUrgent k) s = .next s)))


/-! ### The steps of the engines (R15, R18, R19, R21–R23, R173, R215, R222–R226, R303, R308) -/

/-- A running transfer lands its lines or blocks one by one and completes its parts: the last part frees the operation's locks
and its place, and adds to the counter. A failed one records its status and frees its locks at once (R215, R222–R226).
What the model reads or chooses here: assumption log 91 and 92. -/
def Obligations.TransferSteps : Prop :=
  ∀ (s : State) (core chan : Nat) (x : XferOp),
    let us := x.partLines x.parts
    let queue := fun (t : State) => t.xfer.get (chanKey core chan)
    let noLocks := fun (t : State) => ∀ k ∈ t.locks, k.op ≠ x.op
    let failed := fun (t : State) (y : XferOp) (bit : Nat) (race : Bool) =>
      running t core chan = some { y with sent := none, refused := false, ended := some (bit, race, y.baren && bit != 4) } ∧ noLocks t
    running s core chan = some x → chan < 16 → x.ended = none → x.sent = none →
    (∀ u, x.refused = false → x.paused = false → x.landed ≠ 0 ∨ isFrozen s x.owner (dieOfCore core) = false →
      us[x.landed]? = some u → match x.landLine s core u with
        | .ok s' _ => ∀ y, running s' core chan = some y → y.op = x.op → s'.absent = none →
            ∃ t, exec (.transferLineLanded core chan) s = .next t ∧ t.mem = s'.mem ∧ t.bench = s'.bench ∧ t.marver = s'.marver ∧
              t.locks = s'.locks ∧ running t core chan = some { y with landed := y.landed + 1 }
        | .wait s' => s'.absent = none → exec (.transferLineLanded core chan) s = .next s'
        | .fail s' bit race => ∀ y, running s' core chan = some y → y.op = x.op → s'.absent = none →
            ∃ t, exec (.transferLineLanded core chan) s = .next t ∧ failed t y bit race ∧ t.mem = s'.mem) ∧
    (us.length ≤ x.landed → x.paused = false → x.baren = false → s.absent = none → (∀ p ∈ s.pending, p.after = []) →
      let n := x.partCredit x.parts
      let sum := if x.cadd = 0 then n else if x.parts + 1 = x.partCount then x.cadd else 0
      let after := fun (t : State) (added : Bool) =>
        (x.parts + 1 = x.partCount → queue t = (queue s).filter (fun y => y.op != x.op) ∧ noLocks t) ∧
        (x.parts + 1 ≠ x.partCount → running t core chan = some { x with
          parts := x.parts + 1, landed := 0, used := [], pages := [], wrote := if added then [] else x.wrote, sent := none }) ∧
        (added = true → ∀ e ∈ t.opened, e.vgid = x.vgid →
          ∀ o ∈ x.wrote, o.space = e.space → o.line = e.line → e.mask &&& o.mask = 0) ∧
        (added = false → t.opened = s.opened)
      (x.ctr = 0 → showFits s x.owner x.wrote (.bench 0) = true →
        ∃ t, exec (.transferPartComplete core chan) s = .next t ∧ after t false ∧ t.mem = s.mem ∧ t.bench = s.bench) ∧
      (∀ s' l, x.ctr ≠ 0 → engLoc s (x.req core .atomic) (.glob x.ctr) = .ok s' l → l.onDevice 16 → s'.absent = none →
        (∀ p ∈ s'.pending, p.after = []) → queue s' = queue s → s'.port = [] → s'.opened = s.opened →
        showFits s' x.owner x.wrote l = true →
        let value := fun (t : State) => leNat ((List.range 8).map (fun k => t.byteAt (l.plus k)))
        ∃ t, exec (.transferPartComplete core chan) s = .next t ∧ after t (decide (sum ≠ 0)) ∧
          value t = min (value s' + sum) (2 ^ 64 - 1))) ∧
    (∀ bit, bit < 6 → s.absent = none →
      ∃ t, exec (.transferOpFail core chan bit) s = .next t ∧ failed t x (2 ^ bit) false ∧ t.mem = s.mem)

/-- A `bsend` copy that reaches its core writes its word to the bench of the set's workgroup there and credits the entry it
names; one that finds no workgroup or no room is dropped. A credit that reaches a valid entry is added to it, closes the
lines that its part opened, and wakes the entry's waiters where it completes a phase; one that would pass a field changes
nothing and fails the operation's part, or for a copy raises ENGINE in the sender (the model's choice, log 89); one that
finds none is dropped (R18, R19, R21, R173, R225). A collective operation whose ranks have all contributed writes its
result, frees its locks and leaves the engine; a broadcast's result is the root's source and a gather's is the ranks'
sources in order. One that has failed leaves with its causes recorded, and an uncorrectable error or the time limit fails
one that has not ended (R303, R306, R308). Stated for an operation without a counter, credit and destination tags. What
the model reads or chooses here: assumption log 89 and 93. -/
def Obligations.CopiesCreditsAndCollectiveSteps : Prop :=
  (∀ (s : State),
    (∀ (c : BsendCopy), s.bsends = [c] → c.landed = none → c.ctrOn = false → s.absent = none →
      match memberOn s c.core c.setV with
      | none => ∃ t, exec (.bsendDelivery c.id) s = .next t ∧ t.bsends = [] ∧ t.bench = s.bench ∧ t.bars = s.bars
      | some v =>
        let g := s.wgs.get v
        let key := benchKey c.core (g.benchBase + c.offset)
        (benchLocked s c.core key = true → exec (.bsendDelivery c.id) s = .next s) ∧
        (benchLocked s c.core key = false → ∃ t, exec (.bsendDelivery c.id) s = .next t ∧ t.bsends = [] ∧ t.vregs = s.vregs ∧
          t.wregs = s.wregs ∧ t.acc = s.acc ∧
          (g.benchLen < c.offset + 8 → t.bench = s.bench ∧ t.bars = s.bars ∧ SameRegs s t) ∧
          (c.offset + 8 ≤ g.benchLen → StoresAt s t (.bench key) (leBytes 8 c.datum.toNat) ∧
            (c.entry = none → t.bars = s.bars ∧ SameRegs s t) ∧
            (∀ e k, c.entry = some e → wgBarKey g e = some k → (s.bars.get k).v = true →
              (∀ b, (s.bars.get k).bring 0 8 = some b → t.bars.get k = b ∧ SameRegs s t) ∧
              (∀ w, (s.bars.get k).bring 0 8 = none → issuerWarp s (coreOf c.warp) c.vgid c.index = some w →
                t.bars = s.bars ∧ (t.warp w).cause = (s.warp w).cause ||| (1#32 <<< causeEngine)))))) ∧
    (∀ (m : CreditMsg), s.credits = [m] → m.result = none →
      let key := m.core * 64 + m.entry
      let b := s.bars.get key
      let valid : Prop := b.v = true ∧ b.vgid = m.vgid
      let answered := fun (n : Nat) => { s with credits := [{ m with result := some n }] }
      (∀ b', valid → b.bring m.arr m.bytes = some b' → ∃ t, exec (.barrierCreditDelivery m.id) s = .next t ∧
        t = { s.closeOf m.op with credits := [{ m with result := some 0 }], bars := t.bars, threads := t.threads } ∧
        (∀ k, t.bars.get k = if k = key then b' else s.bars.get k) ∧
        ∀ w l, l < 32 → t.thread w l = if b.completed b' m.arr m.bytes = true ∧ barWaiter s w (s.thread w l) key = true
          then (s.thread w l).pass s.tick else s.thread w l) ∧
      (valid → b.bring m.arr m.bytes = none → exec (.barrierCreditDelivery m.id) s = .next (answered 2)) ∧
      (¬ valid → exec (.barrierCreditDelivery m.id) s = .next (answered 1))) ∧
    (∀ (core chan : Nat) (x : XferOp) (m : CreditMsg) (l : Loc), running s core chan = some x → x.ended = none →
      x.sent = some (m.id, l) → s.credits = [m] → s.absent = none → showFits s x.owner [] l = true →
      (m.result = none → exec (.transferPartComplete core chan) s = .next s) ∧
      (m.result = some 2 → ∃ t, exec (.transferPartComplete core chan) s = .next t ∧ t.credits = [] ∧ t.mem = s.mem ∧
        running t core chan = some { x with sent := none, refused := false, ended := some (stFault, false, x.baren) }))) ∧
  (∀ (s : State) (x : CollOp), s.colls = [x] → x.sent = none → (∀ p ∈ s.pending, p.after = []) →
    let gone := fun (t : State) => t.colls = [] ∧ t.opened = s.opened
    let noLocks := fun (t : State) => ∀ k ∈ t.locks, k.op ≠ x.op
    (∀ bit race engine w, x.ended = some (bit, race, engine) → x.ctr = 0 → x.ranks ≠ [] → s.absent = none →
      issuerWarp s (s.wgs.get x.vgid).core x.vgid x.warp = some w →
      ∃ t, exec (.collOpComplete x.op false) s = .next t ∧ gone t ∧ t.mem = s.mem ∧ (t.warp w).cause = (s.warp w).cause |||
        (if race then 1#32 <<< causeMemrace else 0) ||| (if engine then 1#32 <<< causeEngine else 0)) ∧
    (∀ cs s2 x2, x.ended = none → x.refused = false → x.mine = true → x.ranks ≠ [] → x.atHome = true → x.broken s = false →
      x.gathered s = cs.map some → x.ctr = 0 → x.baren = false → x.dtag = 0 →
      x.write s x.dst (x.result cs).1 = .ok s2 x2 → s2.absent = none → (∀ y ∈ s2.colls, showFits s2 y.owner y.wrote (.bench 0) = true) →
      ∃ t, exec (.collOpComplete x.op false) s = .next t ∧ t.colls = [] ∧ noLocks t ∧ t.mem = s2.mem ∧ t.vregs = s.vregs) ∧
    (∀ cs, (x.kind = 2 → (x.result cs).1 = (cs.filter (fun c => c.rank == x.root)).flatMap (·.src)) ∧
      (x.kind = 3 → (x.result cs).1 = cs.flatMap (·.src)) ∧
      (x.kind = 2 ∨ x.kind = 3 → (x.result cs).2.2 = 0)) ∧
    (x.ended = none → x.refused = false → x.mine = true → ∃ t, exec (.collOpComplete x.op true) s = .next t ∧ t.mem = s.mem ∧
      noLocks t ∧ t.colls = [{ x with told := !x.ranks.isEmpty, ended := some (stEcc, false, x.baren) }]) ∧
    (x.tmo ≠ 0 → x.ended = none → ∃ t, exec (.collTimeout x.op) s = .next t ∧ t.mem = s.mem ∧ noLocks t ∧
      t.colls = [{ x with mine := true, refused := false, told := !x.ranks.isEmpty, ended := some (stFault, false, x.baren) }]) ∧
    (x.tmo = 0 ∨ x.ended.isSome = true → exec (.collTimeout x.op) s = .next s))


/-! ### The network (R291–R299) -/

/-- A KDT datagram that fails its checks, its tag among them, or that lies outside the receive window is counted and dropped,
one in order advances the lowest PSN not received, an acknowledgement removes what it acknowledges, an echoed mark halves
the rate, a gap or a timeout sends the oldest datagram again until the flow fails at 16, and the rate recovers in steps. A
datagram takes the next PSN when it first leaves, and what leaves is the header of R292, the ciphertext and the tag, which
the other side of the flow opens; nothing leaves while the link partner pauses the flow's class. That answers have PSNs
too, and leave first, is the model's choice (log 99). PFC frames carry pauses both ways (R291, R293, R297). A frame that
is no UDP over IPv6 or fails its check is counted; one that matches no landing zone does nothing; one that finds too
little room is counted at the zone; else its record, an 8-byte header, the payload and zeros, lands at the ring's write
position and is counted, 4 KiB at the latest (R291, R296). What the model reads or chooses here: assumption log 68, 76, 83
and 99. -/
def Obligations.FlowsPausesAndFrames : Prop :=
  (∀ (s : State) (head body : List Byte) (k : Nat) (ecn : Bool),
    let d := head ++ body
    let f := s.flows.get k
    let flows := fun (t : State) => ∀ j, j ≠ k → t.flows.get j = s.flows.get j
    let only := fun (t : State) (g : Flow) => t = { s with flows := t.flows } ∧ t.flows.get k = g ∧ flows t
    let open_ : Prop := f.live = true ∧ f.failed = false
    let acked := f.header d
    let again := fun (g : Flow) (u : Datagram) => { g with retries := g.retries + 1, queue := u :: g.queue.filter (fun e => e != u) }
    (kdtField d 95 64 = k →
      (¬ open_ → exec (.kdtData head ecn body) s = .next s ∧ exec (.kdtAck head body) s = .next s ∧ exec (.kdtNack head body) s = .next s) ∧
      (open_ → kdtField d 7 0 ≠ 1 ∨ kdtField d 63 48 + 48 ≠ d.length ∨ 9008 < d.length ∨ kdtOpen f d = none ∨
          256 ≤ psnAfter (kdtField d 127 96) f.recvNext ∨ kdtField d 127 96 ∈ f.recvGot →
        ∃ t, only t { f with dropped := f.dropped + 1 } ∧ exec (.kdtData head ecn body) s = .next t ∧
          exec (.kdtAck head body) s = .next t ∧ exec (.kdtNack head body) s = .next t) ∧
      (open_ → kdtOk f d 1 = true → kdtField d 127 96 = f.recvNext → f.recvNext < 2 ^ 32 → f.recvGot = [] →
        f.queue.any (fun e => e.type == 2 && e.wire.isEmpty) = false →
        ∃ t, exec (.kdtData head ecn body) s = .next t ∧ flows t ∧
          (t.flows.get k).recvNext = (f.recvNext + 1) % 2 ^ 32 ∧ (t.flows.get k).recvGot = [] ∧ (t.flows.get k).rate = acked.rate ∧
          (t.flows.get k).ece = (f.ece || ecn) ∧ (t.flows.get k).queue.head? =
            some { type := 2, psn := 0, opid := 0, offset := 0, last := false, bytes := [], wire := [] }) ∧
      (open_ → kdtOk f d 2 = true → f.expects d = true → ∃ t, exec (.kdtAck head body) s = .next t ∧ only t (f.take d false)) ∧
      (∀ u r, open_ → kdtOk f d 3 = true → f.expects d = true → (f.take d false).unacked = u :: r → (f.take d false).retries < 16 →
        ∃ t, exec (.kdtNack head body) s = .next t ∧ only t (again (f.take d false) u))) ∧
    (kdtField d 18 18 = 1 → acked.rate = f.rate / 2) ∧ (kdtField d 18 18 ≠ 1 → acked.rate = f.rate) ∧
    (kdtField d 16 16 = 1 → kdtField d 159 128 = f.sendPsn → f.ackedPsn < 2 ^ 32 → f.sendPsn < 2 ^ 32 →
      (∀ u ∈ f.unacked, psnAfter u.psn f.ackedPsn < psnAfter f.sendPsn f.ackedPsn) →
      acked.unacked = [] ∧ acked.ackedPsn = f.sendPsn) ∧
    (∀ u, open_ → f.unacked.find? (fun e => e.type == 1) = some u →
      (f.retries < 16 → ∃ t, exec (.kdtRetransmitTimeout k) s = .next t ∧ only t (again f u)) ∧
      (16 ≤ f.retries → s.colls = [] → ∃ t, exec (.kdtRetransmitTimeout k) s = .next t ∧
        only t { f with failed := true, unacked := [], queue := [] })) ∧
    (∀ u, f.leaves = some u → let t := s.sendOne k
      let g := t.flows.get k
      let d := if u.wire = [] then f.seal k { u with psn := f.sendPsn } else u.wire
      g.queue = f.queue.erase u ∧ (t.ports.get (Config.flowPort k % 8)).out = (flowPortOf s k).out ++ [(f.addr, d)] ∧
        (u.wire = [] → g.sendPsn = (f.sendPsn + 1) % 2 ^ 32 ∧ g.unacked = f.unacked ++ [{ u with psn := f.sendPsn, wire := d }]) ∧
        (u.wire ≠ [] → g.sendPsn = f.sendPsn ∧ g.unacked = f.unacked) ∧
        (heldByPeer s (flowPortOf s k) (flowPortOf s k).kdtClass = true → maySend s k f = false)) ∧
    (∀ (u : Datagram) (g : Flow), u.type < 2 ^ 8 → u.bytes.length < 2 ^ 16 → u.psn < 2 ^ 32 → f.recvNext < 2 ^ 32 → u.opid < 2 ^ 32 →
      g.secret = f.secret → g.side = !f.side → let d := f.seal k u
      d.length = u.bytes.length + 48 ∧ kdtField d 15 8 = u.type ∧ kdtField d 63 48 = u.bytes.length ∧ kdtField d 127 96 = u.psn ∧
        kdtField d 159 128 = f.recvNext ∧ kdtField d 191 160 = u.opid ∧ kdtOpen g d = some u.bytes) ∧
    (f.live = true → ∃ t, exec (.kdtRateRecovery k) s = .next t ∧ only t { f with rate := min (2 ^ 20) (f.rate + 2 ^ 14) }) ∧
    (∀ port cls, let p := s.ports.get port
      (bitOf p.paused cls = true → ∃ t, exec (.pfcPauseRepeat port cls) s = .next t ∧ t = { s with ports := t.ports } ∧
        t.ports.get port = { p with sent := p.sent ++ [(cls, 0xFFFF)] }) ∧
      (bitOf p.paused cls = false → exec (.pfcPauseRepeat port cls) s = .next s)) ∧
    (∀ port classes times, let p := s.ports.get port
      p.peerPause.length = 8 → ∃ t, exec (.pfcFrameReceived port classes times) s = .next t ∧ t = { s with ports := t.ports } ∧
        (∀ q, q ≠ port → t.ports.get q = s.ports.get q) ∧
        ∀ c, c < 8 → (t.ports.get port).peerPause.getD c 0 =
          (if bitOf classes c then times.getD c 0 % 2 ^ 16 else p.peerPause.getD c 0) ∧
          (p.peerUntil.length = 8 → (t.ports.get port).peerUntil.getD c 0 = if bitOf classes c then
            nsAt s.tick + ceilDiv (512 * (times.getD c 0 % 2 ^ 16)) (max 1 p.speed) else p.peerUntil.getD c 0))) ∧
  (∀ (s : State) (port : Nat) (frame : List Byte) (u : UdpFrame) (o zn : Nat),
    let i : Instr := .ingestFrame port frame true false
    let sized : Prop := 64 ≤ frame.length ∧ frame.length ≤ 9216
    let z := zoneOf s o zn
    let p := u.data.drop z.strip
    let r := 8 + (p.length + 7) / 8 * 8
    let head := p.length + z.pend * 2 ^ 16 + (if z.seqen = false then 0 else if z.seqoff + 4 ≤ p.length
      then beNat ((p.drop z.seqoff).take 4) else (Config.shortSeq s.fresh).toNat) * 2 ^ 32
    let record := leBytes 8 head ++ p ++ List.replicate (r - 8 - p.length) 0
    let counted := fun (t : State) => t = { s with ports := t.ports } ∧
      t.ports.get port = { s.ports.get port with dropped := (s.ports.get port).dropped + 1 }
    let dropped := { z with drops := min (z.drops + 1) 0xFFFF, pend := min (z.pend + 1) 0xFFFF }
    (∃ t, exec (.ingestFrame port frame false false) s = .next t ∧ counted t) ∧
    (¬ sized ∨ parseFrame frame = none → ∃ t, exec i s = .next t ∧ counted t) ∧
    (sized → parseFrame frame = some u → matchZone s port u = none → exec i s = .next s) ∧
    (sized → parseFrame frame = some u → matchZone s port u = some (o, zn) → s.absent = none →
      (z.revoked = true ∨ u.data.length < z.strip → ∃ t, exec i s = .next t ∧ zoneOf t o zn = dropped ∧ t.mem = s.mem) ∧
      (z.revoked = false → z.strip ≤ u.data.length → z.free < r →
        ∃ t, exec i s = .next t ∧ zoneOf t o zn = dropped ∧ t.mem = s.mem) ∧
      (∀ s2, z.revoked = false → z.strip ≤ u.data.length → r ≤ z.free → z.queue = [] → z.uncounted + r < 4096 →
        landRecord ({ s with fresh := s.fresh + 1 }.setZone o zn (fun x => { x with pend := 0, queue := [record] })) o
          { z with pend := 0, queue := [record] } record = .ok s2 () → s2.absent = none →
        ∃ t, exec i s = .next t ∧ t.mem = s2.mem ∧ (zoneOf t o zn).w = z.w + r ∧ (zoneOf t o zn).rd = z.rd ∧
          (zoneOf t o zn).pend = 0 ∧ (zoneOf t o zn).queue = [] ∧ (zoneOf t o zn).uncounted = z.uncounted + r ∧
          ((zoneOf t o zn).free < z.xoff → (zoneOf t o zn).paused = true))) ∧
    (z.armed = false → exec (.zoneCounterAddition o zn false) s = .next s) ∧
    (z.armed = true → z.refused = true → ∃ t, exec (.zoneCounterAddition o zn false) s = .next t ∧ (zoneOf t o zn).revoked = true ∧
      (zoneOf t o zn).queue = [] ∧ t.mem = s.mem) ∧
    (∀ s1 l, z.armed = true → z.refused = false → z.queue = [] → z.uncounted ≠ 0 → z.status = 0 → l.onDevice 16 →
      engLoc s (zoneReq s o z .atomic) (.glob z.ctr) = .ok s1 l → s1.absent = none →
      let value := fun (t : State) => leNat ((List.range 8).map (fun k => t.byteAt (l.plus k)))
      ∃ t, exec (.zoneCounterAddition o zn false) s = .next t ∧ (zoneOf t o zn).uncounted = 0 ∧
        value t = min (value s + z.uncounted) (2 ^ 64 - 1)))


/-! ### Traps, and workgroups that leave and return (R196–R201, R206–R211, R326–R328, R354) -/

/-- Taking a trap: where a warp has a cause to take, its waits are withdrawn and its issued work is done (the state `u`); then
the four words of each live thread's frame go to its spill stack, the threads stand at the trap handler's entry four words
higher, the trap enables are cleared, and the warp is in its handler. With no entry, or a synchronous cause in the
handler, the launch ends ABORTED; an asynchronous cause in the handler waits; a warp of which a thread waits for
operations it has cancelled takes no trap yet (the model's reading, log 17) (R196–R200). Stated for one live thread. What
the model reads or chooses here: assumption log 17 and 18. -/
def Obligations.TrapEntry : Prop :=
  ∀ (s : State) (w l pc : Nat),
    let x := s.warp w
    let u := ((s.dropUnready w).withdrawWarp w).finishWork [w]
    let th := u.thread w l
    let xs := (List.range 4).map (fun k => (l, spillAddr u w l (th.spd + k)))
    let r := xlateAll u w 0 .write xs
    let wait := if th.raised then 0 else th.wcode
    let code := if th.raised then th.code else if th.wcode = 1 then ((th.awaited).map (·.phase)).getD 0 else 0
    let words := [th.pc, BitVec.ofNat 64 (wait + th.preds.toNat * 2 ^ 7 + b2n th.raised * 2 ^ 16 + th.slots.toNat * 2 ^ 20 +
      th.spd % 2 ^ 16 * 2 ^ 32 + code % 2 ^ 16 * 2 ^ 48), BitVec.ofNat 64 (x.cause.toNat + x.fen.toNat * 2 ^ 32), th.faultVa]
    let entered := { th with
      pc := BitVec.ofNat 64 pc, spd := th.spd + 4, wait := .ready, since := s.tick, urgent := false, raised := false,
      faultVa := 0, code := 0, wcode := 0, awaited := none, passed := false }
    let inside := { u.warp w with
      fen := 0, inHandler := true, syncNew := false, asyncNew := false, stopped := x.stepping, stepping := false }
    let aborts := s.absent = none → s.launchOf w ≠ 0 → (s.launches.get (s.launchOf w)).ending = false →
      (s.launches.get (s.launchOf w)).state ≠ .none → ∃ t, exec (.trapEntry w) s = .next t ∧
        (t.launches.get (s.launchOf w)).status = statusAborted ∧ (t.launches.get (s.launchOf w)).ending = true ∧
        (t.launches.get (s.launchOf w)).detail = 0x80 + lowestCause x.cause ∧ (t.warp w).inHandler = x.inHandler
    (s.absent = none → trapDue s w = false ∨ awaitsOps s w = true → exec (.trapEntry w) s = .next s) ∧
    (trapDue s w = true → awaitsOps s w = false → isSup w = false →
      (x.inHandler = true → x.syncNew = true → aborts) ∧
      (x.inHandler = true → x.syncNew = false → s.absent = none → ∃ t, exec (.trapEntry w) s = .next t ∧
        t = { s with warps := t.warps } ∧ ∀ v, t.warp v = if v = w then { x with asyncNew := false } else s.warp v) ∧
      (x.inHandler = false → x.cause ≠ 0 → s.pending = [] → s.dropUnready w = s → trapPc s x.owner = none → aborts) ∧
      (x.inHandler = false → x.cause ≠ 0 → trapPc u x.owner = some pc → u.liveLanes w = [l] → th.spd + 4 ≤ spillLimit u w →
        (∀ a ∈ xs, a.2 + 8 ≤ 2 ^ 56) → (u.warp w).frameFail = false → (u.sessions.get x.owner).live = false →
        r.refused = [] → r.waiting = [] → r.full = false → r.st.absent = none →
        ∃ t ps, exec (.trapEntry w) s = .next t ∧ t.port = u.port ++ ps ∧ t.mem = u.mem ∧
          ps.map (fun p => (p.va, p.bytes)) = (xs.map (·.2)).zip (words.map (fun y => leBytes 8 y.toNat)) ∧
          (∀ p ∈ ps, p.owner = x.owner ∧ p.vgid = x.vgid ∧ p.core = coreOf w) ∧
          t.thread w l = entered ∧ t.warp w = inside ∧
          (t.warp w).cause = x.cause ∧ (∀ v, v ≠ w → t.warp v = u.warp v) ∧ t.vregs = u.vregs ∧ t.wregs = u.wregs)) ∧
    (s.pending = [] → s.dropUnready w = s → l < 32 → u.thread w l = if (s.thread w l).live
      then (s.thread w l).withdraw else s.thread w l)

/-- A stopped workgroup, with its whole co-resident set, keeps its save frame, issues nothing and waits for its core to save
it; past the deadline the Crucible writes its parts or reads them back. A saved workgroup that may come back is given a
core, its slots and its registers; the end of a time slice and displacement stop workgroups, and displacement places work
that only workgroups of its own launch held back, none of which can come back (R206, R207, R210, R211, R326–R328, R351,
R354). What the model reads or chooses here: assumption log 11, 42, 48, 77, 94, 95 and 96. -/
def Obligations.WorkgroupsLeaveAndReturn : Prop :=
  ∀ (s : State) (v core : Nat),
    let g := s.wgs.get v
    let saved := fun (t : State) => (t.wgs.get v).phase = .saved ∧ (t.wgs.get v).warps = [] ∧ (t.wgs.get v).frame = g.frame ∧
      (∀ w ∈ g.warps, (t.warp w).live = false ∧ ∀ l n, l < 32 → n < 512 → t.v w l n = 0)
    let doomed := (together s v).findSome? (fun u => doomedWarp s (s.wgs.get u))
    (g.phase ≠ .resident ∨ (s.launches.get g.launch).ending = true ∨ setStands s v = false →
      exec (.workgroupStop v) s = .next s) ∧
    (g.phase = .resident → (s.launches.get g.launch).ending = false → setStands s v = true →
      (∀ w, doomed = some w → exec (.workgroupStop v) s = .next (s.abortWarp w)) ∧
      (doomed = none → stopFrames s (together s v) = none → exec (.workgroupStop v) s = .next s) ∧
      (∀ fs, doomed = none → stopFrames s (together s v) = some fs →
        (fs.foldl (fun (u : State) x => u.stopWg x.1 x.2) s).absent = none →
        ∃ t, exec (.workgroupStop v) s = .next t ∧
          ∀ x ∈ fs, (t.wgs.get x.1).phase = .stopping ∧ (t.wgs.get x.1).frame = some x.2) ∧
      (∀ f, doomed = none → together s v = [v] → stopFrame s v = some f → (s.stopWg v f).absent = none →
        ∃ t, exec (.workgroupStop v) s = .next t ∧ (t.wgs.get v).phase = .stopping ∧ (t.wgs.get v).frame = some f ∧
          (∀ w ∈ g.warps, (t.warp w).stopped = true) ∧ (t.wgs.get v).waits = recordedWaits s g ∧
          (t.cores.get g.core).saves = (s.cores.get g.core).saves ++ [(false, v)] ∧
          ∀ p ∈ t.port, ¬ (p.core = g.core ∧ p.vgid = v))) ∧
    (saverOf s v = none →
      (g.phase ≠ .stopping → g.phase ≠ .restoring → exec (.saveDeadlineExpiry v) s = .next s) ∧
      (g.phase = .stopping → savable s v = false → exec (.saveDeadlineExpiry v) s = .next s) ∧
      (∀ k base slot y, g.phase = .stopping → savable s v = true → g.frame = some (k, slot) →
        frameOf s g = some (base, slot) → layoutFor s g k base slot = some y → (s.crucibleSave v).absent = none →
        ∃ t, exec (.saveDeadlineExpiry v) s = .next t ∧ saved t) ∧
      (∀ k base slot, g.phase = .restoring → g.frame = some (k, slot) → frameOf s g = some (base, slot) →
        (s.crucibleRestore v).absent = none →
        let y := slotLayout s g.owner base slot
        let offs := warpOffs (quotasOf s g) y.w
        let warps := (offs.zip (List.range offs.length)).foldl (fun (t : Option State) (x : Nat × Nat) =>
          t.bind (fun t => t.restorePart v 0 x.2 (base + x.1))) (some s)
        let whole := warps.bind (fun t => (t.restorePart v 1 0 (base + y.b)).bind (fun t =>
          (t.restorePart v 2 0 (base + y.a)).bind (fun t => t.restorePart v 3 0 (base + y.e))))
        (whole.isSome = true → ∃ t, exec (.saveDeadlineExpiry v) s = .next t ∧ (t.wgs.get v).phase = .resident ∧
          (t.wgs.get v).frame = none) ∧
        (whole = none → (s.launches.get g.launch).state ≠ .none → (s.launches.get g.launch).ending = false →
          ∃ t, exec (.saveDeadlineExpiry v) s = .next t ∧ (t.launches.get g.launch).status = statusAborted ∧
            (t.launches.get g.launch).detail = 0x94))) ∧
    (readyToRestore s v = true → ownerRuns s g.owner = true → (s.launches.get g.launch).ending = false →
      (∀ e ∈ earlierLaunches s g.launch, (placeLaunch s e).isSome = false) → (∀ x ∈ g.savedX, x.2.ended = none) →
      (∀ k ∈ g.sets, (s.sets.get k).co = false) →
      match restoreOn s v core with
      | none => exec (.workgroupRestore v core) s = .next s
      | some t => exec (.workgroupRestore v core) s = .next t ∧ (t.wgs.get v).phase = .restoring ∧
          (t.wgs.get v).core = core ∧ (t.wgs.get v).warps.length = g.quotas.length ∧
          (∀ w ∈ (t.wgs.get v).warps, (t.warp w).live = true ∧ (t.warp w).stopped = true ∧ (t.warp w).vgid = v) ∧
          (t.cores.get core).saves = (s.cores.get core).saves ++ [(true, v)]) ∧
    (nextTurn s core = none → exec (.timeSliceExpiry core) s = .next s) ∧
    (∀ o, nextTurn s core = some o → ∃ t, exec (.timeSliceExpiry core) s = .next t ∧ (t.cores.get core).turn = o + 1 ∧
      t.agenda = s.agenda ++ (((residents s core).filter (fun e => e.2.owner != o && e.2.phase == .resident)).map
        (fun e => Instr.workgroupStop e.1)) ∧ t.mem = s.mem) ∧
    (∀ die o, ownerRuns s o = false ∨ allWaiting s die o = false → exec (.displacement die o) s = .next s) ∧
    (∀ die o k, ownerRuns s o = true → allWaiting s die o = true → firstWanting s o = some k →
      (∀ t, placeLaunch s k = some t →
        let bars : Prop := hasReturning s k = true ∧ ∀ d, d < 4 → canReturn s k d = false
        (bars → exec (.displacement die o) s = .next t) ∧ (¬ bars → exec (.displacement die o) s = .next s)) ∧
      (∀ vs, placeLaunch s k = none →
        toDisplace s k (residentsOnDie s die o).length ((residentsOnDie s die o).map (·.1)) [] = some vs →
        ∃ t, exec (.displacement die o) s = .next t ∧
          ((s.displaceAll (k, vs.2) vs.1).1 = true → t.agenda = s.agenda ++ vs.1.map Instr.workgroupStop ∧
            ∀ u ∈ vs.1, (t.wgs.get u).frame.isSome = true ∧ (t.wgs.get u).displaced = true) ∧
          ((s.displaceAll (k, vs.2) vs.1).1 = false → (s.launches.get k).state ≠ .none → (s.launches.get k).ending = false →
            (t.launches.get k).status = statusExhausted ∧ (t.launches.get k).detail = 1)))

/-! ### Handlers, the fault queue, the service hart and the path to host memory (R341–R343, R357–R369) -/

/-- A free supervisor warp enters its next invocation in the order walk, fault, save or restore, service: every lane stands at
the handler's entry with predicate p0 true in the lanes that have an item, v0 on hold the item and the w registers hold
the reserve's base, the code, the depth, the owner and the number of items (R342, R343). Stated for one item of each kind.
What the model reads or chooses here: assumption log 13. -/
def Obligations.HandlersAreEntered : Prop :=
  ∀ (s : State) (core pc : Nat),
    let w := supOf core
    let enters := fun (owner code n : Nat) (vs : Nat → List Nat) (rest : List Nat) (kind : InvKind) (keys : List Nat) =>
      ∃ t inv, exec (.handlerInvocation core) s = .next t ∧ (t.cores.get core).inv = some inv ∧ inv.owner = owner ∧
        inv.kind = kind ∧ inv.depth = 1 ∧ inv.items.map (·.key) = keys ∧ (∀ it ∈ inv.items, it.ended = false) ∧
        inv.start = s.tick ∧ inv.hcyc = 24 ∧ inv.hbytes = 0 ∧ inv.frozen = false ∧
        (t.warp w).live = true ∧ (t.warp w).owner = owner ∧ (t.warp w).vgid = 0 ∧ (t.warp w).units.length = 2 ∧
        (∀ b, frameBase s owner core = some b → (t.warp w).spBase = BitVec.ofNat 64 (b + 0xC000) ∧ (t.warp w).spLen = 0x4000) ∧
        (∀ l, l < 32 → (t.thread w l).live = true ∧ (t.thread w l).pc = BitVec.ofNat 64 pc ∧ (t.thread w l).wait = .ready ∧
          (t.thread w l).preds = if l < n then 1 else 0) ∧
        (∀ l k, l < 32 → k < 384 → t.v w l k = BitVec.ofNat 64 ((if l < n then vs l else []).getD k 0)) ∧
        (∀ k, k < 64 → t.w w k =
          BitVec.ofNat 64 (([(s.owners.get owner).rbase, code, 1, owner, n] ++ rest).getD k 0)) ∧
        (∀ v l k, v ≠ w → l < 32 → k < 384 → t.v v l k = s.v v l k) ∧ t.mem = s.mem
    ((s.cores.get core).inv.isSome = true → exec (.handlerInvocation core) s = .next s) ∧
    ((s.cores.get core).inv = none → s.absent = none →
      (∀ r, walkItems s core = [r] → walkPc s r.owner = some pc →
        enters r.owner 0 1 (fun _ => [r.va, r.word.toNat]) [] .walk [r.granule]) ∧
      (∀ k f, walkItems s core = [] → faultItems s core = [(k, f)] → faultPc s (k / 2 ^ 32) = some pc →
        enters (k / 2 ^ 32) 1 1 (fun _ => [f.va, f.index]) [] .fault [k % 2 ^ 32]) ∧
      (∀ restore v base slot, walkItems s core = [] → (faultItems s core).isEmpty = true → nextSave s core = some (restore, v) →
        savePc s (s.wgs.get v).owner = some pc → frameOf s (s.wgs.get v) = some (base, slot) →
        isFrozen s (s.wgs.get v).owner (dieOfCore core) = false → (s.wgs.get v).warps.length ≤ 32 →
        enters (s.wgs.get v).owner (if restore then 3 else 2) (s.wgs.get v).warps.length (fun l => [l]) [v, base, slot]
          (if restore then .restore else .save) (List.range (s.wgs.get v).warps.length)) ∧
      (∀ k r, walkItems s core = [] → (faultItems s core).isEmpty = true → nextSave s core = none →
        svcItems s core = [(k, r)] → r.words.length = 8 → svcPc s (s.wgs.get r.vgid).owner = some pc →
        enters (s.wgs.get r.vgid).owner 4 1 (fun _ => r.words.map (·.toNat) ++ [k]) [] .svc [k]) ∧
      (walkItems s core = [] → (faultItems s core).isEmpty = true → nextSave s core = none → (svcItems s core).isEmpty = true →
        exec (.handlerInvocation core) s = .next s))

/-- AUTODISP hands a posted entry to the core that posted it; the hart's FQDONE ends an entry, waking or failing the accesses
that wait for it, DISPATCH hands it to a core of the owner, FILLGO and INVGO fill and invalidate with the port's operands,
and the hart's stores reach the owner's frames, the port and its own SRAM, and nothing else (R1, R357–R362). An access to
any other address is a fault of the hart, which the port's owner notes with the address. Where the SRAM lies, and that
such a fault is noted and has no other effect, is the model's choice (log 24). What the model reads or chooses here:
assumption log 24. -/
def Obligations.FaultQueueAndHart : Prop :=
  ∀ (s : State) (o serial : Nat) (f : FaultWaiters) (w : Word),
    let k := faultKey o serial
    let hart := fun (t : State) (off : Nat) => (t.owners.get o).hart.get off
    let named : Prop := entryAt s o (bitsOf w.toNat 31 0) = some (k, f) ∧ s.faults.get k = f ∧ f.live = true ∧ serial < 2 ^ 32
    let st := bitsOf w.toNat 34 32
    let u := s.resWrite o (faultEntryVa s o f.index + 32) [BitVec.ofNat 8 st]
    let core := bitsOf w.toNat 42 41 * 512 + bitsOf w.toNat 40 32
    let a := (hart s 0x10).toNat
    let b := (hart s 0x18).toNat
    let c := (hart s 0x20).toNat
    let e := fillEntry o a b c
    let code := if fillBad s o a b c e then 2 else if !fillAllowed s o e then 1 else if fillConflicts s w.toNat o e then 4 else 0
    let va := (hart s 0x30).toNat
    let len := (hart s 0x38).toNat
    (autodisp s o = false → exec (.autodispDispatch o) s = .next s) ∧
    (∀ base n, autodisp s o = true → s.absent = none → s.held = [] → unseen s o = some (k, f) → f.kind = 1 →
      faultState s o f.index = 0 → faultQueue s o = some (base, n) →
      dirWord s o 16 = dirWord s o 15 ∨ faultState s o (dirWord s o 16 % n) < 2 →
      ∃ t, exec (.autodispDispatch o) s = .next t ∧ t = { s with faults := t.faults, serial := s.serial + 1 } ∧
        (t.faults.get k).dispatched = some f.core ∧ (t.faults.get k).seen = true ∧ ∀ j, j ≠ k → t.faults.get j = s.faults.get j) ∧
    (entryAt s o (bitsOf w.toNat 31 0) = none → exec (.fqdone o w) s = .next s ∧ exec (.dispatch o w) s = .next s) ∧
    (named → st < 2 ∨ 4 < st → exec (.fqdone o w) s = .next s) ∧
    (∀ v m x y, named → st = 2 ∨ st = 3 → f.kind = 1 → u.absent = none → f.waiters = [.thread v y] → y ≠ 0 → s.liveLanes v = [m] →
      (s.thread v m).wait = .translation y [(f.va / 2 ^ 16, x)] →
      ∃ t, exec (.fqdone o w) s = .next t ∧ (t.faults.get k).live = false ∧ t.mem = u.mem ∧ (t.thread v m).wait = .ready ∧
        (t.thread v m).pc = (s.thread v m).pc ∧ (t.thread v m).raised = (if st = 3 then true else (s.thread v m).raised) ∧
        (st = 3 → (t.thread v m).faultVa = BitVec.ofNat 64 x ∧
          (t.warp v).cause = (s.warp v).cause ||| (1#32 <<< causeTranslate))) ∧
    (named → f.taken = false → core ∈ ownerCores (s.owners.get o) → (faultPc s o).isSome = true →
      ∃ t, exec (.dispatch o w) s = .next t ∧ t = { s with faults := t.faults, serial := s.serial + 1 } ∧
        t.faults.get k = { f with dispatched := some core, seen := true, order := s.serial }) ∧
    (named → f.taken = true ∨ core ∉ ownerCores (s.owners.get o) → exec (.dispatch o w) s = .next s) ∧
    (4 ≤ w.toNat → exec (.fillgo o w) s = .next s) ∧
    (w.toNat < 4 → ∃ t, exec (.fillgo o w) s = .next t ∧ hart t 0x28 = BitVec.ofNat 64 code ∧ t.mem = s.mem ∧
      (code ≠ 0 → t.tlb = s.tlb) ∧
      (code = 0 → (t.tlb.get (if e.size < 2 then tlbNormal w.toNat else tlbHuge w.toNat)).head? = some e)) ∧
    (len ≠ 0 ∧ (2 ^ 56 ≤ va ∨ 2 ^ 56 < va + len) → exec (.invgo o w) s = .next s) ∧
    (¬ (len ≠ 0 ∧ (2 ^ 56 ≤ va ∨ 2 ^ 56 < va + len)) → ∃ t, exec (.invgo o w) s = .next t ∧ hart t 0x40 = 1 ∧
      t.tinvs.map (fun q => (q.owner, q.va, q.len, q.pid)) =
        s.tinvs.map (fun q => (q.owner, q.va, q.len, q.pid)) ++ [(o, va, len, none)] ∧
      ∀ j, ∀ x ∈ t.tlb.get j, x.owner = o → x.pin = true ∨ (len ≠ 0 ∧ rangesOverlap x.va x.bytes va len = false)) ∧
    (∀ addr (write : Option Byte), let i : Instr := .serviceHartAccess o addr write
      let mapped : Prop := (2 ^ 52 ≤ addr ∧ ownsFrame (s.owners.get o) (addr - 2 ^ 52) = true) ∨
        (0x100000 ≤ addr ∧ addr < 0x100048) ∨ addr < 2 ^ 20
      (¬ mapped → ∃ t, exec i s = .next t ∧ t = { s with owners := t.owners } ∧
        (t.owners.get o) = { s.owners.get o with hartFault := some addr } ∧ ∀ j, j ≠ o → t.owners.get j = s.owners.get j) ∧
      (mapped → write = none → exec i s = .next s)) ∧
    (∀ addr (y : Byte), let i : Instr := .serviceHartAccess o addr (some y)
      (2 ^ 52 ≤ addr → ownsFrame (s.owners.get o) (addr - 2 ^ 52) = true → s.held = [] → s.absent = none →
        (homeOf (addr - 2 ^ 52)).isSome = true → ∃ t, exec i s = .next t ∧ StoresAt s t (.dev (addr - 2 ^ 52)) [y] ∧ SameRegs s t) ∧
      (addr < 2 ^ 20 → ∃ t, exec i s = .next t ∧ t = { s with owners := t.owners } ∧ (t.owners.get o).hartSram.get addr = y) ∧
      (∀ off j, off ∈ [0x10, 0x18, 0x20, 0x30, 0x38] → j < 8 → addr = 0x100000 + off + j →
        ∃ t, exec i s = .next t ∧ t = { s with owners := t.owners } ∧
          ∀ n, n < 8 → (hart t off).toNat / 2 ^ (8 * n) % 256 =
            if n = j then y.toNat else (hart s off).toNat / 2 ^ (8 * n) % 256))


/-! ### The Crucible's commands (R314, R375–R388) -/

/-- What a command that passes its checks does: CREATE makes a STOPPED owner, POLICY replaces the policy, ALLOT grants cores
and frames, ASSIGN and UNASSIGN move an interface, RUN and RESUME run the owner, FLOW grants its side of a flow, and
PAUSE, EVICT, RESET, DESTROY and the RESUME of an evicted owner begin and answer PENDING; each answers its reason where it
cannot (R314, R326, R337, R379, R381, R383–R388). What the model reads or chooses here: assumption log 30, 32, 33, 34, 36,
39, 40 and 70. -/
def Obligations.CommandsAct : Prop :=
  ∀ (s u : State) (cmd : List Byte) (o : Nat),
    let x := u.owners.get o
    let d := s.crucible.drawn
    let read := fun (k n : Nat) => s.host.getRange (hostKey pfSpace (cmdArg cmd k)) n
    let pol := read 0 608
    let marv := polF pol 189 183 * 2 ^ 20
    let answered := fun (t : State) (r : Nat) =>
      t.crucible.result = BitVec.ofNat 64 (r + cmdTag cmd * 2 ^ 32) ∧ t.crucible.busy = false
    let began := fun (t : State) (code : Nat) => answered t 0x0C ∧ (t.owners.get o).pending = some (code, cmdTag cmd)
    let passes := fun (code : Nat) (allowed : List DevState) =>
      gate s cmd code allowed = .pass u o ∧ hostHeld s = false ∧ s.absent = none
    let ends := fun (t : State) => ∀ k, (s.launches.get k).owner = o → (s.launches.get k).state ≠ .none →
      (s.launches.get k).ending = false → (t.launches.get k).ending = true ∧ (t.launches.get k).status = statusReset
    (hostHeld s = false → badRecord cmd = false →
      let r := if Config.hostFails d then 0x0A else if policyOk pol = false then 0x07 else if signedOk pol cmd = false then 0x02
        else if bitOf (polF pol 127 64) 1 = false then 0x07
        else if (freeOwner s).isSome && (marverRoom s 64 marv).isSome && lifecycleOwners s.crucible.lifecycle then 0 else 0x09
      ∃ t, exec (.create cmd) s = .next t ∧ answered t r ∧ (r ≠ 0 → t.owners = s.owners) ∧
        ∀ k, r = 0 → freeOwner s = some k → ∃ h, t.crucible.resval = BitVec.ofNat 64 h ∧ (t.owners.get k).live = true ∧
          (t.owners.get k).handle = h ∧ (t.owners.get k).state = .stopped ∧ (t.owners.get k).policy = pol ∧
          (t.owners.get k).cores = [] ∧ (t.owners.get k).ranges = [] ∧ (t.owners.get k).ifcs = [] ∧
          (t.owners.get k).marvBytes = marv ∧ (∀ j, j ≠ k → t.owners.get j = s.owners.get j)) ∧
    (badRecord cmd = true → ∃ t, exec (.create cmd) s = .next t ∧ answered t 0x01 ∧ t.owners = s.owners) ∧
    (passes 2 notEvicted →
      let r := if Config.hostFails d then 0x0A else if policyOk pol = false ∨ replaces x.policy pol = false then 0x07
        else if x.marvBytes < marv ∧ marverRoom u o marv ≠ some (x.marvBase.getD 0 0) then 0x09 else 0
      let base := x.marvBase.getD 0 0
      let new := (((u.setCrucible (fun c => { c with drawn := d + 1 })).noTimeout.clearMarver (base + x.marvBytes)
        (marv - x.marvBytes)).setOwner o (fun x => { x with
          policy := pol, marvBytes := marv, secret := (Config.unwrapSecret ((pol.drop 344).take 144)).getD x.secret })).writeGrant o
      (r = 0 → new.absent = none) →
      ∃ t, exec (.policy cmd) s = .next t ∧ answered t r ∧ (t.owners.get o).policy = (if r = 0 then pol else x.policy) ∧
        (r ≠ 0 → t.mem = s.mem ∧ t.marver = s.marver) ∧
        (r = 0 → t.crucible.resval = BitVec.ofNat 64 (polF pol 63 32) ∧ t.mem = new.mem ∧
          ∀ die k, die < 4 → x.marvBytes ≤ k → k < marv → t.marver.get (marverKey die (base + k)) = 0)) ∧
    (passes 3 [.stopped, .paused] →
      let cores := (cutEntries Config.coreEntryBytes (cmdArg cmd 1) (read 0 (cmdArg cmd 1 * Config.coreEntryBytes))).map
        Config.coreEntry
      let all := (cutEntries Config.rangeEntryBytes (cmdArg cmd 3) (read 2 (cmdArg cmd 3 * Config.rangeEntryBytes))).map
        (fun e => rangeOf (Config.rangeEntry e))
      let ranges := all.filter (fun k => decide (k.tier < 2))
      let windows := all.filter (fun k => decide (2 ≤ k.tier))
      let drawn := (u.setCrucible (fun c => { c with drawn := d + 2 })).noTimeout
      let r := if x.pol 143 128 + x.pol 159 144 < cmdArg cmd 1 ∨ 128 < cmdArg cmd 3 then 0x08
        else if Config.hostFails d = true ∨ Config.hostFails (d + 1) = true then 0x0A
        else if allotOver x cores ranges windows then 0x08 else if allotTaken u o cores ranges then 0x09 else 0
      (drawn.grant o cores ranges windows).absent = none → ∃ t, exec (.allot cmd) s = .next t ∧ answered t r ∧
        (r ≠ 0 → t.owners = u.owners ∧ t.tlb = u.tlb) ∧
        (r = 0 → (t.owners.get o).cores = (cores.filter (fun c => !c.2)).map (·.1) ∧
          (t.owners.get o).shares = (cores.filter (·.2)).map (·.1) ∧ (t.owners.get o).ranges = ranges ∧
          (t.owners.get o).windows = windows ∧
          ∀ k, ∀ e ∈ t.tlb.get k, e.owner = o → e.pin = false → fillAllowed t o e = true)) ∧
    (passes 4 notEvicted →
      let i := cmdArg cmd 0
      let r := if 4096 ≤ i ∨ x.pol 207 192 ≤ (x.ifcs.filter (· != i)).length then 0x08
        else if (u.ifcs.get i).owner.isSome = true ∧ (u.ifcs.get i).owner ≠ some o then 0x09 else 0
      ∃ t, exec (.assign cmd) s = .next t ∧ answered t r ∧ (r ≠ 0 → t.ifcs = u.ifcs) ∧
        (r = 0 → t.ifcs.get i = { (default : Ifc) with
            owner := some o, pasid := cmdArg cmd 1 % 2 ^ 20, ide := if Config.policyIde x.policy then some d else none } ∧
          i ∈ (t.owners.get o).ifcs)) ∧
    (passes 5 notEvicted →
      let i := cmdArg cmd 0
      let r := if 4096 ≤ i ∨ i ∉ x.ifcs then 0x08 else 0
      ∃ t, exec (.unassign cmd) s = .next t ∧ answered t r ∧ (r ≠ 0 → t.ifcs = u.ifcs) ∧
        (r = 0 → (t.ifcs.get i).owner = none ∧ i ∉ (t.owners.get o).ifcs ∧
          ∀ k, ∀ e ∈ t.tlb.get k, ¬ (e.owner = o ∧ e.tier = 2 ∧ e.ifc = i))) ∧
    (passes 6 [.stopped] →
      let size := x.pol 319 288 * 2 ^ 16
      let r := if (x.cores = [] ∧ x.shares = []) ∨ (x.rsize ≠ size ∧ pinsFor o x size = none) then 0x09 else 0
      (∀ v, u.holdReserve o = some v → v.absent = none) →
      ∃ t, exec (.run cmd) s = .next t ∧ answered t r ∧ (t.owners.get o).state = (if r = 0 then .running else x.state) ∧
        (r = 0 → (t.owners.get o).rsize = size)) ∧
    (passes 7 [.running] → ∃ t, exec (.pause cmd) s = .next t ∧ began t 7 ∧ t.crucible.resval = 0 ∧ t.wgs = s.wgs ∧
      t.agenda = s.agenda ++ ((s.wgs.filter (fun e => e.2.owner == o && e.2.phase == .resident)).map
        (fun e => Instr.workgroupStop e.1))) ∧
    (passes 8 [.paused, .evicted] →
      (x.state = .paused → ∃ t, exec (.resume cmd) s = .next t ∧ answered t 0 ∧ (t.owners.get o).state = .running) ∧
      (x.state = .evicted →
        let blob := read 0 (cmdArg cmd 1)
        let r := if (u.reallot o).isNone then 0x09 else if Config.hostFails d then 0x0A else if blobOk x blob = false then 0x0B
          else 0x0C
        ∃ t, exec (.resume cmd) s = .next t ∧ answered t r ∧ (t.owners.get o).state = .evicted ∧
          (r = 0x0C → (t.owners.get o).pending = some (8, cmdTag cmd) ∧ (t.owners.get o).resumeBlob = blob ∧ t.crucible.resval = 0 ∧
            (t.owners.get o).cores.length = x.keptCores.length))) ∧
    (passes 9 [.running, .paused] → (∀ y ∈ s.colls, y.sent = none) → ∃ t, exec (.evict cmd) s = .next t ∧ began t 9 ∧
      (∀ a ∈ t.flowAsk, a.handle ≠ x.handle) ∧ (∀ g ∈ t.flowGot, g.handle ≠ x.handle) ∧ (t.owners.get o).evictBuf = (cmdArg cmd 0, cmdArg cmd 1) ∧
      (∀ k, (s.flows.get k).live = true → (s.flows.get k).owner = o → (t.flows.get k).failed = true) ∧
      ∀ e ∈ s.wgs, e.2.owner = o → e.2.phase = .resident → Instr.workgroupStop e.1 ∈ t.agenda) ∧
    ((∀ c i, (s.cores.get c).inv = some i → ¬ (i.owner = o ∧ i.frozen = true)) → (∀ y ∈ s.colls, y.sent = none) →
      (passes 10 anyState → ∃ t, exec (.reset cmd) s = .next t ∧ began t 10 ∧ t.crucible.resval = 0 ∧ ends t ∧ t.mem = s.mem) ∧
      (passes 11 anyState → ∃ t, exec (.destroy cmd) s = .next t ∧ began t 11 ∧ t.crucible.resval = 0 ∧ ends t ∧ t.mem = s.mem)) ∧
    (passes 12 notEvicted →
      let a : FlowAsk := {
        handle := cmdHandle cmd, peer := cmdArg cmd 1, tick := s.tick, key := Config.flowKeyDraw (d + 1),
        cert := read 0 Config.certBytes, eph := d + 2 }
      if Config.hostFails d then ∃ t, exec (.flow cmd) s = .next t ∧ answered t 0x0A ∧ t.flows = s.flows ∧ t.flowAsk = s.flowAsk
      else ∃ t, exec (.flow cmd) s = .next t ∧ answered t 0 ∧ t.crucible.resval = BitVec.ofNat 64 a.key ∧
        match s.flowGot.find? (grantsMatch s a) with
        | none => t.flowAsk = s.flowAsk ++ [a] ∧ t.flows = s.flows
        | some g => t.flowGot = s.flowGot.erase g ∧ ∃ k, (t.flows.get k).live = true ∧ (t.flows.get k).owner = o ∧
            (t.flows.get k).peer = a.peer ∧ (t.flows.get k).key = a.key ∧
            (t.flows.get k).secret = Config.ecdh (Config.keyDraw a.eph) g.point ∧ (s.flows.get k).live = false)

/-- A PENDING command completes once everything of the owner has stopped: PAUSE leaves it PAUSED, EVICT seals its context and
frees its cores and frames, the RESUME of an evicted owner leaves it PAUSED, RESET leaves it STOPPED and DESTROY removes
it; the completion is logged and counted. A grant of a peer that is not authentic is dropped; matching grants open a flow
under the key of their ECDH, and those past their window go (R379, R382, R385, R386, R388). What the model reads or
chooses here: assumption log 34, 36, 37, 38, 40 and 43. -/
def Obligations.LongCommandsComplete : Prop :=
  ∀ (s : State) (o : Nat),
    let x := s.owners.get o
    let logged := fun (t : State) (r : Nat) =>
      let n := s.crucible.doneCnt + 1
      let ix := (n.toNat + 63) % 64
      t.crucible.doneCnt = n ∧ t.crucible.doneLog.get (2 * ix) = BitVec.ofNat 64 x.handle ∧
        t.crucible.doneLog.get (2 * ix + 1) = BitVec.ofNat 64 (r + ((x.pending.map (·.2)).getD 0) * 2 ^ 32)
    let done := fun (t : State) (r : Nat) => logged t r ∧ (t.owners.get o).pending = none
    let code := x.pending.map (·.1)
    let blob := sealBlob s o (x.seals + 1)
    let ends : Prop := code = some 10 ∨ code = some 11
    (code = some 7 → allSaved s o = true → longFits s = true → ∃ t, exec (.pauseComplete o) s = .next t ∧ (t.owners.get o).state = .paused ∧
      done t 0 ∧ (s.crucible.notify ≠ 0 → hostHeld s = false → t.host.getRange (hostKey pfSpace s.crucible.notify.toNat) 8 =
        leBytes 8 (s.crucible.doneCnt + 1).toNat)) ∧
    (code ≠ some 7 ∨ allSaved s o = false ∨ longFits s = false → exec (.pauseComplete o) s = .next s) ∧
    (code ≠ some 9 ∨ allSaved s o = false ∨ ownerBusy s o = true ∨ ownerHandles s o = true →
      exec (.evictComplete o) s = .next s) ∧
    (code = some 9 → allSaved s o = true → ownerBusy s o = false → ownerHandles s o = false → s.port = [] → s.hostL2 = [] →
      s.absent = none → (parkFits s (blob.length + 8) = false → exec (.evictComplete o) s = .next s) ∧
      (parkFits s (blob.length + 8) = true → ∃ t, exec (.evictComplete o) s = .next t ∧ if x.evictBuf.2 < blob.length
        then (t.owners.get o).state = .paused ∧ done t 0x08
        else if hostHeld s = false ∧ Config.hostFails s.crucible.drawn = true
        then (t.owners.get o).state = .paused ∧ done t 0x0A ∧ (s.crucible.notify = 0 → t.host = s.host)
        else (t.owners.get o).state = .evicted ∧ done t 0 ∧ (t.owners.get o).epoch = x.seals + 1 ∧
          (t.owners.get o).seals = x.seals + 1 ∧ (t.owners.get o).cores = [] ∧ (t.owners.get o).shares = [] ∧ (t.owners.get o).ranges = [] ∧
          t.crucible.resval = BitVec.ofNat 64 blob.length ∧ (∀ k, ∀ e ∈ t.tlb.get k, e.owner ≠ o) ∧
          (s.crucible.notify = 0 → hostHeld s = false →
            t.host.getRange (hostKey pfSpace x.evictBuf.1) blob.length = blob))) ∧
    (code = some 8 → x.state = .evicted → longFits s = true → ∃ t, exec (.resumeEvictedComplete o) s = .next t ∧ done t 0 ∧
      (t.owners.get o).state = .paused ∧ (t.owners.get o).memKey = Config.keyDraw s.crucible.drawn ∧
      (t.owners.get o).resumeBlob = [] ∧ (t.owners.get o).keptRanges = [] ∧
      (∀ plain, blobPlain x x.resumeBlob = some plain → x.rsize = 0 → t.mem = (s.unsealFrames o plain).mem) ∧ ∀ z ∈ (t.owners.get o).zones, z.2.armed = true → z.2.revoked = true) ∧
    (code ≠ some 8 ∨ x.state ≠ .evicted ∨ longFits s = false → exec (.resumeEvictedComplete o) s = .next s) ∧
    (¬ ends ∨ (resetDone s o = true ∧ longFits s = false) → exec (.resetComplete o) s = .next s) ∧
    (ends → resetDone s o = false → exec (.resetComplete o) s = .next (s.endOwned o)) ∧
    (resetDone s o = true → longFits s = true → code = some 10 → (s.resetOwner o).absent = none → ∃ t, exec (.resetComplete o) s = .next t ∧
      done t 0 ∧ (t.owners.get o).state = .stopped ∧ (t.owners.get o).frozen = [] ∧ (∀ q ∈ t.walks, q.owner ≠ o) ∧
      (∀ q ∈ t.held, q.owner ≠ o) ∧ (∀ c ∈ t.contribs, c.owner ≠ o) ∧
      (x.rsize = 0 → ∀ a, inRanges x.ranges a = true → SMap.get (α := BitVec 8) t.mem a = 0)) ∧
    (resetDone s o = true → longFits s = true → code = some 11 → (s.resetOwner o).absent = none → ∃ t, exec (.resetComplete o) s = .next t ∧
      logged t 0 ∧ (t.owners.get o).live = false ∧ (∀ k, ∀ e ∈ t.tlb.get k, e.owner ≠ o) ∧ (t.sessions.get o).live = false ∧
      ∀ k, (t.flows.get k).live = true → (t.flows.get k).owner ≠ o) ∧
    (∀ handle peer cert point sig, let i : Instr := .flowPeerGrant handle ⟨peer, cert, point, sig⟩
      let signed := match Config.certKey cert with
        | some k => Config.ecdsaOk k (point ++ leBytes 8 peer ++ leBytes 8 handle) sig
        | none => false
      let g : FlowGrant := { handle := handle, peer := peer, tick := s.tick, cert := cert, point := point }
      (ownerOf s handle = none ∨ signed = false → exec i s = .next s) ∧
      (ownerOf s handle = some o → signed = true →
        match s.flowAsk.find? (fun a => grantsMatch s a g) with
        | none => exec i s = .next { s with flowGot := s.flowGot ++ [g] }
        | some a => ∃ t k, exec i s = .next t ∧ t.flowAsk = s.flowAsk.erase a ∧
            (t.flows.get k).live = true ∧ (t.flows.get k).owner = o ∧ (t.flows.get k).peer = a.peer ∧
            (t.flows.get k).key = a.key ∧ (t.flows.get k).secret = Config.ecdh (Config.keyDraw a.eph) point ∧
            (t.flows.get k).rate = 2 ^ 20)) ∧
    (∀ handle, ∃ t, exec (.flowGrantTimeout handle) s = .next t ∧ t.flows = s.flows ∧
      (∀ e, e ∈ t.flowAsk ↔ e ∈ s.flowAsk ∧ (e.handle ≠ handle ∨ withinGrant s e.tick = true)) ∧
      (∀ e, e ∈ t.flowGot ↔ e ∈ s.flowGot ∧ (e.handle ≠ handle ∨ withinGrant s e.tick = true)))

/-- A host write to an interface's page changes NADDR, cancels a launch, or, at SUBMIT, counts an error; one of another PASID
does nothing. A write to the command window fills CMDREC, and the doorbell submits it unless a record is being checked, a
code that names no command answering BADCMD (R314, R315, R382, R383). A command record is checked in the order BADCMD,
BADHANDLE, BADSIG, REPLAY, BUSY, BADSTATE, DENIED: the first check that fails gives RESULT, and the record has no other
effect than that a valid signature advances the NONCE. A record that needs a host read waits while the host is lost and
until parked writes are replayed. The side-band and network paths carry records during host loss only (R383, R384, R386,
R403–R405). What the model reads or chooses here: assumption log 35 and 41. -/
def Obligations.HostRegisterWritesAndCommandChecks : Prop :=
  (∀ (s : State) (ifc pasid offset : Nat) (bs : List Byte),
    let x := s.ifcs.get ifc
    let page : Instr := .registerWrite (.ifcPage ifc pasid) offset bs
    let window : Instr := .registerWrite (.commandWindow .host) offset bs
    let cmd := s.crucible.cmdrec.getRange 0 256
    let mine : Prop := x.owner.isSome = true ∧ pasid = x.pasid
    (offset < 128 → 0 < bs.length → ∃ t, exec page s = .next t ∧ t = { s with ifcs := t.ifcs } ∧
      t.ifcs.get ifc = { x with errCnt := x.errCnt + 1, answer := 0 }) ∧
    (128 ≤ offset → ¬ mine → exec page s = .next s) ∧
    (offset = 0x80 → bs.length = 8 → mine → ∃ t, exec page s = .next t ∧ t = { s with ifcs := t.ifcs } ∧
      t.ifcs.get ifc = { x with naddr := BitVec.ofNat 64 (leNat bs) }) ∧
    (offset = 0xC0 → bs.length = 8 → mine →
      exec page s = .next { s with agenda := s.agenda ++ [.cancel ifc pasid (BitVec.ofNat 64 (leNat bs))] }) ∧
    (offset + bs.length ≤ 256 → ∃ t, exec window s = .next t ∧ t = { s with crucible := t.crucible } ∧
      t.crucible.notify = s.crucible.notify ∧ t.crucible.result = s.crucible.result ∧
      ∀ k, k < 256 → t.crucible.cmdrec.get k =
        if offset ≤ k ∧ k < offset + bs.length then bs.getD (k - offset) 0 else s.crucible.cmdrec.get k) ∧
    (offset = 0x128 → bs.length = 8 → ∃ t, exec window s = .next t ∧ t = { s with crucible := t.crucible } ∧
      t.crucible.notify = BitVec.ofNat 64 (leNat bs) ∧ t.crucible.cmdrec = s.crucible.cmdrec) ∧
    (offset = 0x100 → bs.length = 8 →
      (s.crucible.busy = true → exec window s = .next s) ∧
      (s.crucible.busy = false → match commandEvent cmd with
        | none => ∃ t, exec window s = .next t ∧ t = { s with crucible := t.crucible } ∧
            t.crucible.result = BitVec.ofNat 64 (0x01 + cmdTag cmd * 2 ^ 32) ∧ t.crucible.busy = false
        | some e => ∃ t, exec window s = .next t ∧ t = { s with crucible := t.crucible, agenda := s.agenda ++ [e] } ∧
            t.crucible.busy = true)) ∧
    (∀ path, path ≠ .host → exec (.registerWrite (.commandWindow path) offset bs) s =
      if s.module.hostLost = true ∧ s.hears path = true then exec window s else .next s)) ∧
  (∀ (s : State) (cmd : List Byte) (i : Instr) (code : Nat) (allowed : List DevState),
    let commands : List (Instr × Nat × List DevState) :=
      [(.policy cmd, 2, notEvicted), (.allot cmd, 3, [.stopped, .paused]), (.assign cmd, 4, notEvicted),
       (.unassign cmd, 5, notEvicted), (.run cmd, 6, [.stopped]), (.pause cmd, 7, [.running]),
       (.resume cmd, 8, [.paused, .evicted]), (.evict cmd, 9, [.running, .paused]), (.reset cmd, 10, anyState),
       (.destroy cmd, 11, anyState), (.flow cmd, 12, notEvicted)]
    let needsHost : Prop := code = 2 ∨ code = 3 ∨ code = 12 ∨
      (code = 8 ∧ ∃ o, ownerOf s (cmdHandle cmd) = some o ∧ (s.owners.get o).state = .evicted)
    let malformed : Prop := cmdF cmd 31 8 ≠ 0 ∨ cmdF cmd 1271 1216 ≠ 0 ∨ 3 < cmdHki cmd
    let answers := fun (r : Nat) => ∃ t, exec i s = .next t ∧ t = { s with crucible := t.crucible, owners := t.owners } ∧
      t.crucible.result = BitVec.ofNat 64 (r + cmdTag cmd * 2 ^ 32) ∧ t.crucible.busy = false ∧
      t.crucible.resval = s.crucible.resval ∧ ∀ o, { t.owners.get o with nonces := [] } = { s.owners.get o with nonces := [] }
    (i, code, allowed) ∈ commands →
    (hostHeld s = true ∧ needsHost → ∃ t, exec i s = .next t ∧ t = { s with crucible := t.crucible } ∧
      t.crucible.busy = true ∧ t.crucible.waiting = some cmd) ∧
    (¬ (hostHeld s = true ∧ needsHost) →
      (malformed → answers 0x01) ∧
      (¬ malformed → ownerOf s (cmdHandle cmd) = none → answers 0x04) ∧
      ∀ o, ¬ malformed → ownerOf s (cmdHandle cmd) = some o →
        let x := s.owners.get o
        let key := Config.sha384 (cmdPub cmd)
        let signed : Prop := hostKeyHash x.policy (cmdHki cmd) ≠ 0 ∧ hostKeyHash x.policy (cmdHki cmd) = key ∧
          Config.ecdsaOk (cmdPub cmd) (cmd.take 160) (cmdSig cmd) = true
        let newer : Prop := x.nonces.get key < cmdNonce cmd + 1
        (¬ signed → answers 0x02) ∧ (signed → ¬ newer → answers 0x03) ∧
        (signed → newer → x.pending.isSome = true → answers 0x05) ∧
        (signed → newer → x.pending = none → x.state ∉ allowed → answers 0x06) ∧
        (signed → newer → x.pending = none → x.state ∈ allowed → bitOf (x.pol 127 64) code = false → answers 0x07) ∧
        (signed → newer → x.pending = none → x.state ∈ allowed → bitOf (x.pol 127 64) code = true →
          ∃ u, gate s cmd code allowed = .pass u o ∧ u = { s with owners := u.owners } ∧
            (u.owners.get o).nonces.get key = cmdNonce cmd + 1 ∧ (u.owners.get o).state = x.state)))
/-! ### Management, power, clocks and resets (R376, R389, R390, R402–R405, R412–R421) -/

/-- The management paths measure, stage firmware whose every stage verifies and is not older than the fuses allow, and set
ports, keys, plans, power limits and operating points within their ranges and over their own paths; the network path needs
a management key, and what a path may not do has no effect (R386, R389, R390, R403, R415–R417, R419). Three clauses are
the model's reading (log 102): an answer over SPDM is signed where the module has an identity key and is unsigned in the
manufacturing and decommissioned states, the side-band and the host need no key, and a network key of 0 is never heard.
What the model reads or chooses here: assumption log 55, 56, 70 and 102. -/
def Obligations.ManagementRequests : Prop :=
  ∀ (s : State) (path : MgmtPath),
    let tells := fun (i : Instr) (xs : List Nat) (sig : Option Nat) => ∃ t, exec i s = .next t ∧
      t = { s with crucible := t.crucible } ∧ t.crucible.answer = xs ∧ t.crucible.answerSig = sig ∧
      t.crucible.result = s.crucible.result
    let c := s.crucible
    let heard : Prop := match path with
      | .network key => key ≠ 0 ∧ key ∈ c.mgmtKeys
      | .sideband | .host => True
    let answers := fun (i : Instr) (xs : List Nat) => tells i xs (c.identity.map (fun k => Config.spdmSign k.priv xs))
    let runs := fun (x : FwStage) => Config.sha384 x.key = c.fwKeyHash ∧
      Config.ecdsaOk x.key (x.body ++ leBytes 8 x.version) x.sig = true ∧ c.minVer ≤ x.version
    (¬ heard → (∀ n, exec (.spdmRequest path n) s = .next s ∧ exec (.spdmHandleQuery path n) s = .next s) ∧
      (∀ image, exec (.firmwareUpdate path image) s = .next s ∧ exec (.clockPlanWrite path image) s = .next s) ∧
      exec (.errorLogRead path) s = .next s ∧
      ∀ port speed prtb cls udp, exec (.portConfigWrite path port speed prtb cls udp) s = .next s) ∧
    (heard → answers (.spdmRequest path 1) [Config.romVersion] ∧ answers (.spdmRequest path 2) (c.stages.flatMap (fun x => [Config.sha384 x.body, x.version])) ∧
    answers (.spdmRequest path 4) [match c.lifecycle with
      | .manufacturing => 0 | .production => 1 | .debugUnlocked => 2 | .decommissioned => 3] ∧
    (∀ i, ∃ t, exec (.spdmRequest path i) s = .next t ∧ t = { s with crucible := t.crucible }) ∧
    (∀ h, match ownerOf s h with
      | none => answers (.spdmHandleQuery path h) []
      | some o => let x := s.owners.get o
        answers (.spdmHandleQuery path h) [x.pol 63 32, Config.sha384 (x.policy.take 512), match x.state with
          | .none => 0 | .stopped => 1 | .running => 2 | .paused => 3 | .evicted => 4, ((x.pending).map (·.1)).getD 0, x.epoch])) ∧
    (heard → ∀ image, let good : Prop := imageStages image ≠ [] ∧ ∀ x ∈ imageStages image, runs x
      (good → ∃ t, exec (.firmwareUpdate path image) s = .next t ∧ t = { s with crucible := t.crucible } ∧
        t.crucible.staged = some (imageStages image) ∧ t.crucible.stages = c.stages) ∧
      (¬ good → exec (.firmwareUpdate path image) s = .next s)) ∧
    (path = .host ∨ ¬ heard → s.sensors path = none) ∧ (heard → path ≠ .host → (s.sensors path).isSome = true) ∧
    (∀ port speed prtb cls udp, let i : Instr := .portConfigWrite path port speed prtb cls udp
      let good : Prop := heard ∧ path ≠ .host ∧ speed ∈ [100, 200, 400, 800] ∧ port < 8
      (¬ good → exec i s = .next s) ∧
      (good → ∃ t, exec i s = .next t ∧ t = { s with ports := t.ports } ∧
        t.ports.get port = { s.ports.get port with nextCfg := some (speed, prtb, cls, udp) } ∧
        ∀ q, q ≠ port → t.ports.get q = s.ports.get q)) ∧
    (∀ k hash, (path = .sideband → k < 4 → ∃ t, exec (.managementKeyWrite path k hash) s = .next t ∧
        t = { s with crucible := t.crucible } ∧ t.crucible.mgmtKeys = c.mgmtKeys.set k hash) ∧
      (path ≠ .sideband ∨ 4 ≤ k → exec (.managementKeyWrite path k hash) s = .next s)) ∧
    (heard → path ≠ .host →
      tells (.errorLogRead path) (c.errorLog.flatten ++ s.ports.map (fun e => e.2.dropped)) none) ∧
    (path = .host → exec (.errorLogRead path) s = .next s) ∧
    (∀ plan, (path = .host → exec (.clockPlanWrite path plan) s = .next s) ∧
      (heard → path ≠ .host → planOk plan = true → ∃ t, exec (.clockPlanWrite path plan) s = .next t ∧
        t = { s with module := t.module } ∧ t.module.nextPlan = some plan ∧ t.module.plan = s.module.plan) ∧
      (heard → path ≠ .host → planOk plan = false → ∃ t, exec (.clockPlanWrite path plan) s = .next t ∧
        t = { s with crucible := t.crucible } ∧ t.crucible.errorLog.length = c.errorLog.length + 1)) ∧
    (∀ w, if 1200 ≤ w ∧ w ≤ 2800 then ∃ t, exec (.powerLimitSet w) s = .next t ∧ t = { s with module := t.module } ∧
        t.module.powerLimit = w else exec (.powerLimitSet w) s = .next s) ∧
    (∀ die k, (k < 8 → pointValid s.module.plan k = true → ∃ t, exec (.operatingPointMove die k) s = .next t ∧
        t = { s with dies := t.dies } ∧ t.dies.get die = { s.dies.get die with opPoint := k }) ∧
      (8 ≤ k ∨ pointValid s.module.plan k = false → exec (.operatingPointMove die k) s = .next s))

/-- Over the power limit and at 100 °C a die goes to a valid point of a lower core clock; at 110 °C the clocks stop, every
launch ends with RESET, its record written and its counter added to, and the module is held in reset until every die is
cool; below 40 V it is held in reset, and it leaves reset only with its input between 40 V and 60 V; FREEZE stops the
clocks in the states in which it acts. A module reset leaves no owner, no launch and no memory contents, activates the
staged image, plan and port settings, and leaves the module in reset where a stage does not verify; fuses only move
forward (R8, R375, R376, R390, R403, R412, R418–R421). What the model reads or chooses here: assumption log 53, 54, 56 and
57. -/
def Obligations.PowerTemperatureAndReset : Prop :=
  ∀ (s : State) (die n : Nat),
    let point := (s.dies.get die).opPoint
    let plan := s.module.plan
    let lower := fun (t : State) (d : Nat) => pointValid plan (t.dies.get d).opPoint = true ∧
      pointCore plan (t.dies.get d).opPoint < pointCore plan (s.dies.get d).opPoint
    let inRange : Prop := 40000 ≤ s.module.inputMv ∧ s.module.inputMv ≤ 60000
    let held : Prop := s.module.hot = true ∨ s.module.freezePin = true ∨ ¬ inRange
    let stages := s.crucible.staged.getD s.crucible.stages
    let verified : Prop := ∀ x ∈ stages, Config.sha384 x.key = s.crucible.fwKeyHash ∧
      Config.ecdsaOk x.key (x.body ++ leBytes 8 x.version) x.sig = true ∧ s.crucible.minVer ≤ x.version
    let hotS := s.setDie die (fun y => { y with celsius := n })
    let booted := fun (t : State) => t = s.boot
    let acts : Prop := s.crucible.lifecycle = .manufacturing ∨ s.crucible.lifecycle = .debugUnlocked
    (n ≤ s.module.powerLimit → ∃ t, exec (.powerLimitCheck n die) s = .next t ∧ t = { s with module := t.module } ∧
      t.module.inputPower = n) ∧
    (s.module.powerLimit < n → ∃ t, exec (.powerLimitCheck n die) s = .next t ∧ t.module.inputPower = n ∧
      (lowerPoints s die = [] → t.dies = s.dies) ∧ (lowerPoints s die ≠ [] → lower t die ∧
        ∀ j, j < 8 → pointValid plan j = true → pointCore plan j < pointCore plan point →
          pointCore plan j ≤ pointCore plan (t.dies.get die).opPoint)) ∧
    (∃ t, exec (.thermalThrottle die n) s = .next t ∧ (t.dies.get die).celsius = n ∧
      (n < 100 → (t.dies.get die).opPoint = point ∧ (t.dies.get die).throttled = false) ∧ (100 ≤ n → (t.dies.get die).throttled = true ∧
        (lowerPoints s die = [] → (t.dies.get die).opPoint = point) ∧ (lowerPoints s die ≠ [] → lower t die))) ∧
    (n < 110 → s.absent = none → exec (.thermalShutdown die n) s = .next hotS) ∧
    (110 ≤ n → hotS.resetLaunches.absent = none → ∃ t, exec (.thermalShutdown die n) s = .next t ∧ t.module.clocksOff = true ∧
      t.module.inReset = true ∧ t.module.hot = true ∧ ∀ k, (t.launches.get k).state = .none) ∧
    (∀ k x s2 p q, 110 ≤ n → s.launches = [(k, x)] → x.state ≠ .none → x.ifc = none → x.noRecord = false → x.recorded = none → x.done % 64 = 0 →
      x.done < 2 ^ 56 → s.xfer = [] → s.cores = [] → s.colls = [] → s.wgs = [] → s.warps = [] → s.pending = [] → s.port = [] →
      s.hostL2 = [] → let u := hotS.endLaunch k statusReset 0 none
      luPlaces u k x.done 80 = .ok s2 [(p, 0, 64), (q, 64, 16)] → s2.port = [] → s2.hostL2 = [] → s2.absent = none →
      p.onDevice 64 → q.onDevice 16 → (∀ i j, i < 64 → j < 16 → p.plus i ≠ q.plus j) →
      let c := leNat ((List.range 8).map (fun i => s2.byteAt (q.plus i)))
      (x.ending = false → (u.launches.get k).status = statusReset) ∧
      ∃ t, exec (.thermalShutdown die n) s = .next t ∧
        (∀ i, i < 64 → t.byteAt (p.plus i) = (completionRecord s2 (u.launches.get k)).getD i 0) ∧
        leNat ((List.range 8).map (fun i => t.byteAt (q.plus i))) = min (c + 1) (2 ^ 64 - 1)) ∧
    (∃ t, exec (.undervoltage n) s = .next t ∧ t = { s with module := { s.module with
      inputMv := n, inReset := s.module.inReset || decide (n < 40000) } }) ∧
    (acts → ∃ t, exec .freezeAssert s = .next t ∧ t = { s with module := t.module } ∧ t.module.clocksOff = true ∧
      t.module.freezePin = true) ∧
    (¬ acts → exec .freezeAssert s = .next s) ∧
    (∃ t, exec .freezeRelease s = .next t ∧ t = { s with module := t.module } ∧ t.module.freezePin = false ∧
      t.module.clocksOff = s.module.clocksOff) ∧
    (held → exec .moduleReset s = .next s) ∧ (¬ held → ∃ t, exec .moduleReset s = .next t ∧ booted t) ∧
    (∀ cs, let cool : Prop := s.module.hot = true ∧ s.module.freezePin = false ∧ inRange ∧ cs.length = 4 ∧ (∀ x ∈ cs, x < 85)
      (cool → ∃ t, exec (.thermalRelease cs) s = .next t ∧ booted t) ∧ (¬ cool → exec (.thermalRelease cs) s = .next s)) ∧
    (∀ dest, (lifecycleCode dest ≤ lifecycleCode s.crucible.lifecycle → exec (.lifecycleTransition dest) s = .next s) ∧
      (lifecycleCode s.crucible.lifecycle < lifecycleCode dest → ∃ t, exec (.lifecycleTransition dest) s = .next t ∧
        t.crucible.lifecycle = dest ∧ (dest = .decommissioned → t.owners = [] ∧ t.crucible.identity = none) ∧
        (dest = .production ∨ dest = .debugUnlocked → t.crucible.identity = some (deriveIdentity s.crucible.unique)) ∧
        (dest ≠ .decommissioned → t = { s with crucible := t.crucible }))) ∧
    (let t := s.boot
     t.mem = [] ∧ t.owners = [] ∧ t.launches = [] ∧ t.warps = [] ∧ t.threads = [] ∧ t.vregs = [] ∧ t.tlb = [] ∧ t.absent = none ∧
     t.crucible.stages = stages ∧ t.crucible.staged = none ∧ t.crucible.fwKeyHash = s.crucible.fwKeyHash ∧
     t.crucible.minVer = (if verified ∧ s.crucible.staged.isSome = true then max s.crucible.minVer (imageVersion stages)
       else s.crucible.minVer) ∧
     t.crucible.lifecycle = s.crucible.lifecycle ∧ t.crucible.mgmtKeys = s.crucible.mgmtKeys ∧
     t.module.plan = s.module.nextPlan.getD plan ∧ t.module.nextPlan = none ∧ t.module.powerLimit = 2800 ∧
     t.module.inputMv = s.module.inputMv ∧ (t.module.inReset = true ↔ ¬ verified) ∧
     (SMap.wf s.cores = true → ∀ c, (t.cores.get c).retired = (s.cores.get c).retired ∧ (t.cores.get c).inv = none) ∧
     (∀ d, d < 4 → (t.dies.get d).opPoint = lowestPoint t.module.plan ∧ (t.dies.get d).throttled = false) ∧
     ∀ p, p ∈ s.ports.keys → (t.ports.get p).dropped = 0 ∧ (t.ports.get p).nextCfg = none ∧
       match (s.ports.get p).nextCfg with
       | none => (t.ports.get p).speed = (s.ports.get p).speed ∧ (t.ports.get p).prtb = (s.ports.get p).prtb
       | some c => (t.ports.get p).speed = c.1 ∧ (t.ports.get p).prtb = c.2.1)

/-- The third completion timeout in a row, or a link that is down, loses the host. When it returns the translation cache is
empty, open page requests are orphaned, the physical function's parked writes are performed in order, and a record that
waited is checked once none of them is left. A function-level reset resets every owner as RESET does (R367, R402, R404,
R405). The host's answer to a translation request enters the translation cache and wakes the accesses that wait; without a
grant a page request with a free index follows while the host's allocation has room, and its response lets them ask again
or fails them. An orphaned index is freed, and an invalidation removes cache entries and fails with REVOKED the transfers
that used them (R367–R369). What the model reads or chooses here: assumption log 41 and 43. -/
def Obligations.HostLossAndTranslation : Prop :=
  (∀ (s : State),
    (∃ t, exec .completionTimeout s = .next t ∧ t = { s with module := t.module } ∧ t.module.timeouts = s.module.timeouts + 1 ∧
      (t.module.hostLost = true ↔ s.module.hostLost = true ∨ 2 ≤ s.module.timeouts)) ∧
    (∃ t, exec .hostLoss s = .next t ∧ t = { s with module := t.module } ∧ t.module.hostLost = true) ∧
    (s.module.hostLost = false → exec .hostReturn s = .next s) ∧
    (∀ ps : List HostWrite, s.module.hostLost = true → s.module.parked = ps → (∀ p ∈ ps, p.ifc = none) →
      ∃ t, exec .hostReturn s = .next t ∧ t.module.hostLost = false ∧ t.module.timeouts = 0 ∧ t.module.parked = [] ∧ t.dtc = [] ∧
        (∀ r ∈ t.ats, r.prg = none ∧ r.denied = false) ∧ (∀ k, (s.prgs.get k).open_ = true → (t.prgs.get k).orphan = true) ∧
        t.host = ps.foldl (fun (m : SMap Byte) (p : HostWrite) => p.bytes.foldl (fun (m : SMap Byte) (x : Nat × Byte) =>
          m.set (hostKey p.pasid p.addr + x.1) x.2) m) s.host ∧
        t.crucible.waiting = s.crucible.waiting ∧
        (∀ w l, l < 32 → (s.thread w l).wait = .resource → w < 131072 → (t.thread w l).wait = .ready) ∧ t.mem = s.mem) ∧
    (hostHeld s = true → s.resumeCmd = s) ∧
    (∀ cmd e, hostHeld s = false → s.crucible.waiting = some cmd → commandEvent cmd = some e →
      s.resumeCmd = { s with crucible := { s.crucible with waiting := none }, agenda := s.agenda ++ [e] }) ∧
    (s.crucible.notify ≠ 0 → parkFits s 512 = false →
      exec .functionLevelReset s = .next { s with agenda := s.agenda ++ [.functionLevelReset] }) ∧
    ((∀ c i, (s.cores.get c).inv = some i → i.frozen = false) → (∀ y ∈ s.colls, y.sent = none) →
      s.crucible.notify = 0 ∨ parkFits s 512 = true → ∃ t, exec .functionLevelReset s = .next t ∧
      t.crucible.prgEnded = false ∧ t.mem = s.mem ∧
      ∀ o, (s.owners.get o).live = true →
        (((s.owners.get o).pending.map (·.1)) ≠ some 11 → ((t.owners.get o).pending.map (·.1)) = some 10) ∧
        ((s.owners.get o).pending = none → ∀ k, (s.launches.get k).owner = o → (s.launches.get k).state ≠ .none →
          (t.launches.get k).ending = true))) ∧
  (∀ (s : State) (r : AtsReq) (v m g a y o i : Nat) (rd wr : Bool),
    let waits : Prop := s.ats = [r] ∧ r.granules = [(o, g)] ∧ r.waiters = [.thread v y] ∧ y ≠ 0 ∧ s.liveLanes v = [m] ∧
      (s.thread v m).wait = .translation y [(g, a)] ∧ s.module.parked = []
    let asks : Instr := .atsCompletion r.pasid r.page rd wr
    let granted : Prop := (r.read = true → rd = true) ∧ (r.write = true → wr = true)
    let failed := fun (t : State) => t.ats = [] ∧ (t.thread v m).wait = .ready ∧ (t.thread v m).raised = true ∧
      (t.thread v m).faultVa = BitVec.ofNat 64 a ∧ (t.warp v).cause = (s.warp v).cause ||| (1#32 <<< causeTranslate)
    (waits → r.denied = false →
      (granted → ∃ t, exec asks s = .next t ∧ t.ats = [] ∧ t.module.timeouts = 0 ∧ (t.thread v m).wait = .ready ∧
        (t.thread v m).pc = (s.thread v m).pc ∧
        ((rd || wr) = true → t.dtc.head? = some { pasid := r.pasid, page := r.page, r := rd, w := wr }) ∧
        t.mem = s.mem ∧ t.host = s.host) ∧
      (¬ granted → s.crucible.prgEnded = true → ∃ t, exec asks s = .next t ∧ failed t) ∧
      (¬ granted → s.crucible.prgEnded = false → ∃ t, exec asks s = .next t ∧ t.threads = s.threads ∧
        let index := if s.module.prgAlloc ≤ openPages s then none else freePrg s
        match index with
        | none => t.ats = [{ r with denied := true }] ∧ t.prgs = s.prgs
        | some j => (∃ x, t.ats = [x] ∧ x.prg = some j ∧ x.denied = true) ∧ (t.prgs.get j).open_ = true ∧
            (t.prgs.get j).pasid = r.pasid ∧ (t.prgs.get j).page = r.page ∧ (t.prgs.get j).orphan = false)) ∧
    (∀ code, let p := s.prgs.get i
      let answer : Instr := .pageRequestResponse i r.pasid code
      (p.open_ = false ∨ p.pasid ≠ r.pasid → exec answer s = .next s) ∧
      (p.open_ = true → p.pasid = r.pasid → p.orphan = true → s.ats = [] →
        ∃ t, exec answer s = .next t ∧ t = { s with prgs := t.prgs } ∧ (t.prgs.get i).open_ = false) ∧
      (waits → p.open_ = true → p.pasid = r.pasid → p.orphan = false → r.prg = some i →
        (code = 0 → ∃ t, exec answer s = .next t ∧ t.ats = [{ r with prg := none, denied := false }] ∧
          (t.prgs.get i).open_ = false) ∧
        (code ≠ 0 → ∃ t, exec answer s = .next t ∧ failed t ∧ (t.prgs.get i).open_ = false ∧
          t.crucible.prgEnded = (s.crucible.prgEnded || code == 15)))) ∧
    ((s.prgs.get i).open_ = true → (s.prgs.get i).orphan = true → s.ats = [] →
      ∃ t, exec (.prgOrphanTimeout i) s = .next t ∧ t = { s with prgs := t.prgs } ∧ (t.prgs.get i).open_ = false) ∧
    ((s.prgs.get i).open_ = false ∨ (s.prgs.get i).orphan = false → exec (.prgOrphanTimeout i) s = .next s) ∧
    (∀ pasid page pages, s.port = [] → s.absent = none → s.credits = [] → (∀ v, (s.wgs.get v).savedX = []) →
      (∀ p ∈ s.pending, usesHostPages p pasid page pages = false) →
      ∃ t, exec (.hostInvalidation pasid page pages) s = .next t ∧ t.mem = s.mem ∧ t.pending = s.pending ∧
        t.dtc = s.dtc.filter (fun e => !(e.pasid == pasid && decide (page ≤ e.page) && decide (e.page < page + pages))) ∧
        ∀ core chan x, chan < 16 → running s core chan = some x → x.ended = none →
          (∃ p ∈ x.pages, p.1 = pasid ∧ page ≤ p.2 ∧ p.2 < page + pages) →
          running t core chan = some { x with sent := none, refused := false, ended := some (stRevoked, false, x.baren) }))
/-! ### Debug (R406–R411) -/

/-- A session opens for the tenant's key, or for any requester in the debug-unlocked state, over the side-band or the network.
It stops the scope before an instruction at a breakpoint, steps one bundle or one lane, reads and writes what a stopped
lane holds and, through the owner's translations, the owner's memory, where a miss waits, and releases what it has
stopped; in deliver mode BREAK and STEP go to the owner's handler (R403, R406–R408, R411). Samples and trap entries go
into the session's ring while it has room and its page is at hand, and LOST is set where one does not. A causal trial runs
one at a time on a die and reports its counts; a core dump saves its scope, copies the owner's pages and leaves the device
sealed, or plain in the debug-unlocked state (R409–R411). What the model reads or chooses here: assumption log 46, 47, 49,
50, 51 and 52. -/
def Obligations.DebugTracesTrialsAndDumps : Prop :=
  (∀ (s : State) (w l : Nat),
    let x := s.warp w
    let o := x.owner
    let y := s.sessions.get o
    let only := fun (t : State) => t = { s with sessions := t.sessions }
    let posts := fun (t : State) (bit : Nat) => (t.warp w).cause = x.cause ||| (1#32 <<< bit) ∧ (t.warp w).asyncNew = true ∧
      t.threads = s.threads ∧ t.sessions = s.sessions
    let live : Prop := y.live = true ∧ x.live = true ∧ l < 32 ∧ (s.thread w l).live = true
    let steps := fun (i : Instr) (alone : Bool) =>
      (¬ live → exec i s = .next s) ∧
      (live → y.hold = false → ∃ t, exec i s = .next t ∧ posts t causeStep) ∧
      (live → y.hold = true → x.stopped = false → exec i s = .next s) ∧
      (live → y.hold = true → isSup w = false → (s.wg w).phase ≠ .resident → exec i s = .next s) ∧
      (live → y.hold = true → x.stopped = true → isSup w = true ∨ (s.wg w).phase = .resident →
        ((s.thread w l).wait ≠ .ready → ∃ t, exec i s = .next t ∧ only t ∧ (t.sessions.get o).report = 2) ∧
        ((s.thread w l).wait = .ready → match stepPlan s w l alone with
          | .blocked => ∃ t, exec i s = .next t ∧ only t ∧ (t.sessions.get o).report = 1
          | .parts fs => ∃ t, exec i s = .next t ∧ t.issueQ = fs ++ s.issueQ ∧ (t.sessions.get o).report = 0 ∧
              (∀ f ∈ fs, (t.warp f.warp).stopped = false ∧ (t.warp f.warp).stepping = true) ∧
              (∃ f ∈ fs, f.warp = w ∧ f.pc = (s.thread w l).pc ∧ l ∈ f.lanes) ∧ t.threads = s.threads))
    (∀ path handle key scope hold bps trace, let i : Instr := .debugSessionOpen path handle key scope hold bps trace
      (ownerOf s handle = none → exec i s = .next s) ∧
      ∀ k, ownerOf s handle = some k → let z := s.sessions.get k
        let heard : Prop := match path with
          | .network h => h ≠ 0 ∧ h ∈ s.crucible.mgmtKeys ∧ h = key
          | .sideband => True
          | .host => False
        let may : Prop := heard ∧ z.asked = false ∧ z.dump = [] ∧ (s.crucible.lifecycle = .debugUnlocked ∨
          key = Config.sha384 (((s.owners.get k).policy.drop 248).take 96))
        (¬ may → exec i s = .next s) ∧
        (may → ∃ t, exec i s = .next t ∧ only t ∧ (t.sessions.get k).live = true ∧ (t.sessions.get k).scope = scope ∧
          (t.sessions.get k).hold = hold ∧ (t.sessions.get k).bps = bps ∧
          (t.sessions.get k).ring = trace.map (fun r => (r.1, r.2, 0)))) ∧
    (∀ lanes, let stands : Prop := ∃ n, n < 32 ∧ (s.thread w n).live = true ∧ bitOf lanes n = true ∧ ∃ b ∈ y.bps,
        b.1 = (s.thread w n).pc.toNat ∧ bitOf b.2.1 n = true ∧ (b.2.2 = 0 ∨ b.2.2 = x.vgid)
      (y.live = false ∨ x.live = false ∨ ¬ stands → exec (.breakpointMatch w lanes) s = .next s) ∧
      (y.live = true → x.live = true → stands →
        (y.hold = true → ∃ t, exec (.breakpointMatch w lanes) s = .next t ∧ (t.sessions.get o).report = 3 ∧
          ∀ v ∈ scopeWarps s w y.scope, (t.warp v).stopped = true) ∧
        (y.hold = false → ∃ t, exec (.breakpointMatch w lanes) s = .next t ∧ posts t causeBreak))) ∧
    steps (.groupStep w l) false ∧ steps (.laneExclusiveStep w l) true ∧
    (∀ reg, y.live = true → x.live = true → x.stopped = true → l < 32 →
      let read := fun (v : Word) => ∃ t, exec (.debugRegisterAccess w l reg none) s = .next t ∧ only t ∧
        (t.sessions.get o).value = v
      let quota := 32 * x.units.length
      (reg < 384 → read (if reg < quota then s.v w l reg else 0)) ∧ (384 ≤ reg → reg < 448 → read (s.w w (reg - 384))) ∧
      (reg = 448 → read (s.thread w l).pc) ∧
      ∀ v, ∃ t, exec (.debugRegisterAccess w l reg (some v)) s = .next t ∧ t.mem = s.mem ∧
        (reg < 384 → reg < quota → t.v w l reg = v) ∧ (384 ≤ reg → reg < 448 → t.w w (reg - 384) = v) ∧
        (reg = 448 → (t.thread w l).pc = v) ∧ (reg = 449 → (t.thread w l).preds = BitVec.ofNat 7 v.toNat)) ∧
    (∀ reg v, y.live = false ∨ x.stopped = false → exec (.debugRegisterAccess w l reg v) s = .next s) ∧
    (∀ handle k va p u (b : Byte), ownerOf s handle = some k → (s.sessions.get k).live = true →
      (2 ^ 56 ≤ va → ∀ write, exec (.debugMemoryAccess handle va write) s = .next s) ∧
      (va < 2 ^ 56 → u.absent = none → u.locks = [] → (homeOf p).isSome = true →
        let s1 := (s.dropReqs (· == .debug k)).setSession k (fun z => { z with access := none })
        let asks := fun (a : Acc) => xlate s1 (dieReq s1 (debugDie s1 k) k 0 5 (.debug k) a) va
        (asks .read = (.ok (.dev p), u) → ∃ t, exec (.debugMemoryAccess handle va none) s = .next t ∧
          t = { u with sessions := t.sessions } ∧ (t.sessions.get k).value = BitVec.ofNat 64 (u.byteAt (.dev p)).toNat) ∧
        (asks .read = (.wait, u) → ∃ t, exec (.debugMemoryAccess handle va none) s = .next t ∧
          t = { u with sessions := t.sessions } ∧ (t.sessions.get k).access = some (va, none)) ∧
        (asks .write = (.ok (.dev p), u) → ∃ t, exec (.debugMemoryAccess handle va (some b)) s = .next t ∧
          StoresAt u t (.dev p) [b] ∧ SameRegs u t))) ∧
    (∀ handle, (ownerOf s handle = none → exec (.sessionRelease handle) s = .next s) ∧
      ∀ k, ownerOf s handle = some k → (s.sessions.get k).live = true →
        ∃ t, exec (.sessionRelease handle) s = .next t ∧ (t.sessions.get k).report = 0 ∧ (t.sessions.get k).live = true ∧
          (∀ v, (s.warp v).live = true → (s.warp v).owner = k → isSup v = true ∨ (s.wg v).phase = .resident →
            (t.warp v).stopped = false) ∧
          (∀ g, (s.wgs.get g).owner = k → (t.wgs.get g).dumpHeld = false))) ∧
  (∀ (s : State) (o handle : Nat), ownerOf s handle = some o →
    let x := s.sessions.get o
    let only := fun (t : State) => t = { s with sessions := t.sessions }
    (∀ quad, readyThreads s quad (fun _ => true) = [] → exec (.traceSample quad) s = .next s) ∧
    (∀ quad r rs va n pos, readyThreads s quad (fun _ => true) = r :: rs → (s.warp r.warp).owner = o → x.live = true →
      x.ring = some (va, n, pos) →
      (n < pos + 32 → ∃ t, exec (.traceSample quad) s = .next t ∧ only t ∧ (t.sessions.get o).lost = true) ∧
      (∀ u, pos + 32 ≤ n →
        s.quietWrite (dieOf r.warp) o (va + pos) (traceRecord s x.lost 1 r.warp (2 ^ r.lane) r.t.pc) = some u →
        ∃ t, exec (.traceSample quad) s = .next t ∧ t.mem = u.mem ∧ (t.sessions.get o).ring = some (va, n, pos + 32) ∧
          (t.sessions.get o).lost = false ∧ t.vregs = s.vregs) ∧
      (pos + 32 ≤ n →
        s.quietWrite (dieOf r.warp) o (va + pos) (traceRecord s x.lost 1 r.warp (2 ^ r.lane) r.t.pc) = none →
        ∃ t, exec (.traceSample quad) s = .next t ∧ only t ∧ (t.sessions.get o).lost = true)) ∧
    (∀ die lo hi delay duration progress, let i : Instr := .causalTrialStart handle die lo hi delay duration progress
      ((s.dies.get die).trial.live = true → exec i s = .next s) ∧
      ((s.dies.get die).trial.live = false → ∃ t, exec i s = .next t ∧ t = { s with dies := t.dies } ∧
        let y := (t.dies.get die).trial
        y.live = true ∧ y.owner = o ∧ y.lo = lo ∧ y.hi = hi ∧ y.delay = delay ∧ y.duration = duration ∧ y.progress = progress ∧
          y.debt = 0 ∧ y.paid = [] ∧ y.issues = 0 ∧ y.counts.length = progress.length ∧ (∀ n ∈ y.counts, n = 0))) ∧
    (∀ die, let y := (s.dies.get die).trial
      (y.live = false → exec (.causalTrialEnd die) s = .next s) ∧
      (y.live = true → ∃ t, exec (.causalTrialEnd die) s = .next t ∧ (t.dies.get die).trial.live = false ∧
        t.crucible.answer = [y.duration, y.debt, y.issues] ++ y.counts ∧
        t = { s with dies := t.dies, crucible := t.crucible })) ∧
    (x.live = false ∨ x.asked = true ∨ x.dump ≠ [] → exec (.coreDump handle) s = .next s) ∧
    (x.live = true → x.asked = false → x.dump = [] → ∃ t, exec (.coreDump handle) s = .next t ∧
      (t.sessions.get o).asked = true ∧ (t.sessions.get o).dumped = [] ∧ (t.sessions.get o).out = [] ∧
      (∀ v ∈ dumpScope s o, (t.wgs.get v).dumpHeld = true) ∧ t.mem = s.mem) ∧
    (x.asked = true → dumpSaved s o = false → exec (.dumpPageCopy handle) s = .next s) ∧
    (x.asked = true → dumpSaved s o = true → ∃ t, exec (.dumpPageCopy handle) s = .next t ∧ only t ∧
      (t.sessions.get o).asked = false ∧ (∀ p ∈ (t.sessions.get o).dump, ∃ k ∈ (s.owners.get o).ranges,
        k.base ≤ p ∧ p + 2 ^ 16 ≤ k.base + k.len) ∧
      ∀ k ∈ (s.owners.get o).ranges, ∀ n, (n + 1) * 2 ^ 16 ≤ k.len → k.base + n * 2 ^ 16 ∈ (t.sessions.get o).dump) ∧
    (∀ p ps, x.asked = false → x.dump = p :: ps → ∃ t, exec (.dumpPageCopy handle) s = .next t ∧ only t ∧
      (t.sessions.get o).dump = ps ∧ (t.sessions.get o).dumped.get p = s.devBytes p (2 ^ 16)) ∧
    (x.asked = false → x.dump = [] → x.out = [] → x.dumped ≠ [] → ∃ t, exec (.dumpPageCopy handle) s = .next t ∧ only t ∧
      let plain := x.dumped.flatMap (·.2)
      let y := s.owners.get o
      let hdr := sealHeader y y.epoch plain.length
      let c := gcmSeal (Config.sealKey y.secret y.handle) y.epoch hdr plain
      (t.sessions.get o).out = if s.crucible.lifecycle = .debugUnlocked then plain else hdr ++ c))


/-! ### The completion of each event of the units, the handlers and the scheduler -/

/-- Each event with which a unit answers, a bundle forms or a thread goes on has its effect: a pending result is written, its
flags recorded, its slot cleared and its waiting thread woken; a load reads its bytes; ready threads form bundles; threads
that waited for an engine resource are ready; a thread that has been ready for long is urgent (R22, R30, R35, R39, R56,
R68, R130, R142, R145, R158, R331, R347, R348). What the model reads or chooses here: assumption log 7 and 9. -/
def Obligations.UnitEventsHaveTheirEffect : Prop :=
  (∀ (s : State) (p : Pending) (l n : Nat) (v : Word), l < 32 → n < 384 → p.lanes = [l] → p.outer = false →
    let found := fun (u : WorkUnit) => s.pending.find? (fun x => x.pid == p.pid && x.unit == u) = some p
    let done := fun (t : State) => t.pending = s.pending.filter (fun x => x.pid != p.pid) ∧
      (t.thread p.warp l).slots = ((s.thread p.warp l).slotClear p.slot).slots ∧
      ((s.thread p.warp l).wait = .result p.pid → (t.thread p.warp l).wait = .ready) ∧
      (t.thread p.warp l).pc = (s.thread p.warp l).pc ∧ (t.warp p.warp).flags = (s.warp p.warp).flags ||| p.flags ∧
      t.mem = s.mem ∧ t.wregs = s.wregs ∧ ∀ k, k < 384 → k ≠ n → t.v p.warp l k = s.v p.warp l k
    let finishes := fun (u : WorkUnit) (i : Instr) => p.work = .writeRegs [(l, n, v)] → found u →
      ∃ t, exec i s = .next t ∧ done t ∧ t.v p.warp l n = v
    finishes .divider (.dividerComplete p.pid) ∧ finishes .special (.specialFunctionComplete p.pid) ∧
    finishes .conversion (.conversionComplete p.pid) ∧ finishes .tfill (.tfillComplete p.pid) ∧
    finishes .lnch (.lnchAnswer p.pid) ∧
    (∀ q, s.tinvs = [q] → q.pid = some p.pid → invWaits s q = false → finishes .tinv (.tinvComplete q.id)) ∧
    (∀ (x : LaneWork) (a : Nat), p.work = .load .global .b64 n [x] → x.lane = l → x.loc = .dev a → found .memory → s.port = [] →
      awayPending s p.pid = none → s.absent = none → (∀ k, k < 8 → (homeOf (a + k)).isSome = true) →
      ∃ t, exec (.memoryAccessComplete p.pid) s = .next t ∧ done t ∧
        t.v p.warp l n = BitVec.ofNat 64 (leNat (s.devBytes a 8)))) ∧
  (∀ (s : State),
    (∀ quad, ∃ t new, exec (.bundleFormation quad) s = .next t ∧ t.issueQ = s.issueQ ++ new ∧ t.mem = s.mem ∧
      t.warps = s.warps ∧ (∀ w l, l < 32 → quadOf w ≠ quad → t.thread w l = s.thread w l) ∧
      (∀ w l, l < 32 → quadOf w = quad → mayIssue s w = true → (s.warp w).live = true → (s.thread w l).live = true →
        (s.thread w l).wait = .ready → isSup w = false → new ≠ [])) ∧
    (∀ die, ∃ t, exec (.engineResourceFreed die) s = .next t ∧ t = { s with threads := t.threads } ∧
      ∀ w l, l < 32 → (t.thread w l).wait =
        if dieOf w = die ∧ (s.thread w l).wait = .resource then .ready else (s.thread w l).wait) ∧
    (∀ w l, l < 32 → (s.thread w l).live = true → (s.thread w l).wait = .ready →
      ∃ t, exec (.threadUrgent (tid w l)) s = .next t ∧ t = { s with threads := t.threads } ∧
        (t.thread w l).urgent = true ∧ (t.thread w l).wait = .ready))

/-- Each event of a supervisor warp, the fault queue, the service hart and the scheduler has its effect: a walk invocation is
entered; AUTODISP and DISPATCH hand a posted entry to a core; FQDONE ends one; FILLGO answers and INVGO begins; the hart's
store reaches its port; a workgroup stops, is saved past its deadline, comes back, or leaves at the end of a time slice or
to make room (R206, R211, R326–R328, R341–R343, R357, R361, R362). What the model reads or chooses here: assumption log
11, 24, 42, 48 and 77. -/
def Obligations.SupervisorHartAndSchedulerEventsHaveTheirEffect : Prop :=
  ∀ (s : State) (core v o : Nat) (w : Word),
    let sup := supOf core
    let hart := fun (t : State) (off : Nat) => (t.owners.get o).hart.get off
    let g := s.wgs.get v
    (∀ r pc, (s.cores.get core).inv = none → s.absent = none → walkItems s core = [r] → walkPc s r.owner = some pc →
      ∃ t i, exec (.handlerInvocation core) s = .next t ∧ (t.cores.get core).inv = some i ∧ i.owner = r.owner ∧
        i.kind = .walk ∧ i.depth = 1 ∧ (t.warp sup).live = true ∧ (t.warp sup).owner = r.owner ∧
        ∀ l, l < 32 → (t.thread sup l).pc = BitVec.ofNat 64 pc ∧ (t.thread sup l).live = true) ∧
    (∀ k f, autodisp s o = true → s.absent = none → s.held = [] → dirWord s o 16 = dirWord s o 15 → unseen s o = some (k, f) →
      f.kind = 1 → faultState s o f.index = 0 →
      ∃ t, exec (.autodispDispatch o) s = .next t ∧ t = { s with faults := t.faults, serial := s.serial + 1 } ∧
        (t.faults.get k).dispatched = some f.core ∧ (t.faults.get k).seen = true) ∧
    (∀ k f, entryAt s o (bitsOf w.toNat 31 0) = some (k, f) →
      let n := bitsOf w.toNat 42 41 * 512 + bitsOf w.toNat 40 32
      f.taken = false → n ∈ ownerCores (s.owners.get o) → (faultPc s o).isSome = true →
      ∃ t, exec (.dispatch o w) s = .next t ∧ t = { s with faults := t.faults, serial := s.serial + 1 } ∧
        (t.faults.get k).dispatched = some n ∧ (t.faults.get k).seen = true) ∧
    (∀ serial f, serial < 2 ^ 32 → entryAt s o (bitsOf w.toNat 31 0) = some (faultKey o serial, f) →
      s.faults.get (faultKey o serial) = f → f.live = true → f.kind = 1 → f.waiters = [] →
      2 ≤ bitsOf w.toNat 34 32 → bitsOf w.toNat 34 32 ≤ 4 →
      let u := s.resWrite o (faultEntryVa s o f.index + 32) [BitVec.ofNat 8 (bitsOf w.toNat 34 32)]
      u.absent = none → ∃ t, exec (.fqdone o w) s = .next t ∧ (t.faults.get (faultKey o serial)).live = false ∧
        t.mem = u.mem ∧ t.threads = u.threads) ∧
    (w.toNat < 4 → ∃ t, exec (.fillgo o w) s = .next t ∧ t.mem = s.mem ∧ hart t 0x28 =
      BitVec.ofNat 64 (fillOne s o w.toNat none (hart s 0x10).toNat (hart s 0x18).toNat (hart s 0x20).toNat).1) ∧
    ((hart s 0x38).toNat = 0 ∨ (hart s 0x30).toNat + (hart s 0x38).toNat ≤ 2 ^ 56 ∧ (hart s 0x30).toNat < 2 ^ 56 →
      ∃ t, exec (.invgo o w) s = .next t ∧ hart t 0x40 = 1 ∧ t.tinvs.length = s.tinvs.length + 1) ∧
    (∀ (off j : Nat) (y : Byte), off ∈ [0x10, 0x18, 0x20, 0x30, 0x38] → j < 8 →
      ∃ t, exec (.serviceHartAccess o (0x100000 + off + j) (some y)) s = .next t ∧ t = { s with owners := t.owners } ∧
        hart t off = putByte (hart s off) j y) ∧
    (∀ f, g.phase = .resident → (s.launches.get g.launch).ending = false → setStands s v = true → together s v = [v] →
      doomedWarp s g = none → stopFrame s v = some f → (s.stopWg v f).absent = none →
      ∃ t, exec (.workgroupStop v) s = .next t ∧ (t.wgs.get v).phase = .stopping ∧ (t.wgs.get v).frame = some f) ∧
    (∀ k base slot y, saverOf s v = none → g.phase = .stopping → savable s v = true → g.frame = some (k, slot) →
      frameOf s g = some (base, slot) → layoutFor s g k base slot = some y → (s.crucibleSave v).absent = none →
      ∃ t, exec (.saveDeadlineExpiry v) s = .next t ∧ (t.wgs.get v).phase = .saved ∧ (t.wgs.get v).warps = []) ∧
    (∀ t, readyToRestore s v = true → ownerRuns s g.owner = true → (s.launches.get g.launch).ending = false →
      (∀ e ∈ earlierLaunches s g.launch, (placeLaunch s e).isSome = false) → (∀ k ∈ g.sets, (s.sets.get k).co = false) →
      (∀ x ∈ g.savedX, x.2.ended = none) → restoreOn s v core = some t → exec (.workgroupRestore v core) s = .next t ∧ (t.wgs.get v).phase = .restoring ∧
        (t.wgs.get v).core = core) ∧
    (∀ n, nextTurn s core = some n → ∃ t, exec (.timeSliceExpiry core) s = .next t ∧ (t.cores.get core).turn = n + 1 ∧
      t.agenda = s.agenda ++ (((residents s core).filter (fun e => e.2.owner != n && e.2.phase == .resident)).map
        (fun e => Instr.workgroupStop e.1))) ∧
    (∀ die k vs ix, ownerRuns s o = true → allWaiting s die o = true → firstWanting s o = some k → placeLaunch s k = none →
      toDisplace s k (residentsOnDie s die o).length ((residentsOnDie s die o).map (·.1)) [] = some (vs, ix) →
      (s.displaceAll (k, ix) vs).1 = true →
      ∃ t, exec (.displacement die o) s = .next t ∧ t.agenda = s.agenda ++ vs.map Instr.workgroupStop)

end
end

