-- ==== Sys2Proof/Laws/Maps.lean ====
section
/-! SUPPORT. Laws of sparse maps: a read after a write, and that every write keeps the canonical form. -/

namespace Sys2Proof.Machine

@[simp] theorem SMap.get_nil {α : Type} [Inhabited α] (k : Nat) : SMap.get ([] : SMap α) k = default := rfl

theorem SMap.get_put {α : Type} [Inhabited α] (m : SMap α) (k j : Nat) (v : α) :
    (m.put k v).get j = if j = k then v else m.get j := by
  induction m with
  | nil => simp only [SMap.put, SMap.get, eq_comm]
  | cons e r ih =>
    obtain ⟨k', v'⟩ := e
    simp only [SMap.put]
    split
    · simp only [SMap.get, eq_comm]
    · split
      · simp only [SMap.get]; split <;> split <;> first | rfl | (exfalso; omega) | (split <;> first | rfl | (exfalso; omega))
      · simp only [SMap.get, ih]; split <;> split <;> first | rfl | (exfalso; omega) | (split <;> first | rfl | (exfalso; omega))

theorem SMap.get_del {α : Type} [Inhabited α] (m : SMap α) (k j : Nat) :
    (m.del k).get j = if j = k then default else m.get j := by
  induction m with
  | nil => simp [SMap.del, SMap.get]
  | cons e r ih =>
    obtain ⟨k', v'⟩ := e
    simp only [SMap.del, SMap.get] at *
    by_cases h : k' = k
    · simp only [h, ne_eq, not_true_eq_false, decide_false, Bool.false_eq_true, not_false_eq_true, List.filter_cons_of_neg, ih]
      by_cases hj : j = k
      · simp [hj]
      · simp only [hj, if_false, if_neg (Ne.symm hj)]
    · simp only [ne_eq, h, not_false_eq_true, decide_true, List.filter_cons_of_pos, SMap.get, ih]
      by_cases hj : j = k
      · simp [hj, h]
      · simp [hj]

/-- A read after a write. -/
@[simp] theorem SMap.get_set {α : Type} [DecidableEq α] [Inhabited α] (m : SMap α) (k j : Nat) (v : α) :
    (m.set k v).get j = if j = k then v else m.get j := by
  simp only [SMap.set]
  split
  · rename_i h; rw [SMap.get_del, h]
  · rw [SMap.get_put]

@[simp] theorem SMap.get_update {α : Type} [DecidableEq α] [Inhabited α] (m : SMap α) (k j : Nat) (f : α → α) :
    (m.update k f).get j = if j = k then f (m.get k) else m.get j := by
  simp [SMap.update]

/-- Writing a list of values from `k` up changes those keys only. -/
theorem SMap.get_setRange {α : Type} [DecidableEq α] [Inhabited α] (vs : List α) (m : SMap α) (k j : Nat) :
    (m.setRange k vs).get j = if k ≤ j ∧ j < k + vs.length then vs.getD (j - k) default else m.get j := by
  induction vs generalizing m k with
  | nil =>
    have h : ¬ (k ≤ j ∧ j < k) := by omega
    simp [SMap.setRange, h]
  | cons v r ih =>
    simp only [SMap.setRange, ih, SMap.get_set, List.length_cons]
    by_cases h : j = k
    · subst h
      have h1 : ¬ (j + 1 ≤ j ∧ j < j + 1 + r.length) := by omega
      have h2 : j ≤ j ∧ j < j + (r.length + 1) := by omega
      rw [if_neg h1, if_pos h2]
      simp
    · by_cases h1 : k + 1 ≤ j ∧ j < k + 1 + r.length
      · have h2 : k ≤ j ∧ j < k + (r.length + 1) := by omega
        have h3 : j - k = (j - (k + 1)) + 1 := by omega
        simp [h1, h2, h3]
      · have h2 : ¬ (k ≤ j ∧ j < k + (r.length + 1)) := by omega
        rw [if_neg h1, if_neg h2, if_neg h]

theorem SMap.length_getRange {α : Type} [Inhabited α] (m : SMap α) (k n : Nat) : (m.getRange k n).length = n := by
  simp [SMap.getRange]

/-! ### The canonical form -/

theorem SMap.wf_iff {α : Type} [DecidableEq α] [Inhabited α] (m : SMap α) :
    m.wf = true ↔ m.Pairwise (fun a b => a.1 < b.1) ∧ ∀ e ∈ m, e.2 ≠ default := by
  simp [SMap.wf]

theorem SMap.mem_put {α : Type} [Inhabited α] (m : SMap α) (k : Nat) (v : α) (e : Nat × α) (h : e ∈ m.put k v) :
    e = (k, v) ∨ e ∈ m := by
  induction m with
  | nil => simpa [SMap.put] using h
  | cons a r ih =>
    obtain ⟨k', v'⟩ := a
    simp only [SMap.put] at h
    split at h
    · simpa using h
    · split at h
      · simp at h ⊢; rcases h with h | h <;> simp [h]
      · simp at h ⊢
        rcases h with h | h
        · simp [h]
        · rcases ih h with h | h <;> simp [h]

theorem SMap.pairwise_put {α : Type} [Inhabited α] (m : SMap α) (k : Nat) (v : α)
    (h : m.Pairwise (fun a b => a.1 < b.1)) : (m.put k v).Pairwise (fun a b => a.1 < b.1) := by
  induction m with
  | nil => simp [SMap.put]
  | cons a r ih =>
    obtain ⟨k', v'⟩ := a
    rw [List.pairwise_cons] at h
    simp only [SMap.put]
    split
    · rename_i hk
      refine List.pairwise_cons.2 ⟨?_, List.pairwise_cons.2 h⟩
      intro e he
      rcases List.mem_cons.1 he with he | he
      · simpa [he] using hk
      · exact Nat.lt_trans hk (h.1 e he)
    · split
      · rename_i _ hk
        exact List.pairwise_cons.2 ⟨by simpa [hk] using h.1, h.2⟩
      · rename_i h1 h2
        refine List.pairwise_cons.2 ⟨?_, ih h.2⟩
        intro e he
        rcases SMap.mem_put r k v e he with he | he
        · simp only [he]; omega
        · exact h.1 e he

theorem SMap.put_wf {α : Type} [DecidableEq α] [Inhabited α] (m : SMap α) (k : Nat) (v : α) (hv : v ≠ default)
    (h : m.wf = true) : (m.put k v).wf = true := by
  rw [SMap.wf_iff] at *
  refine ⟨SMap.pairwise_put m k v h.1, fun e he => ?_⟩
  rcases SMap.mem_put m k v e he with he | he
  · simpa [he] using hv
  · exact h.2 e he

theorem SMap.filter_wf {α : Type} [DecidableEq α] [Inhabited α] (m : SMap α) (p : Nat × α → Bool) (h : m.wf = true) :
    SMap.wf (m.filter p) = true := by
  rw [SMap.wf_iff] at *
  exact ⟨h.1.filter p, fun e he => h.2 e (List.mem_filter.1 he).1⟩

theorem SMap.del_wf {α : Type} [DecidableEq α] [Inhabited α] (m : SMap α) (k : Nat) (h : m.wf = true) :
    (m.del k).wf = true := SMap.filter_wf m _ h

/-- Every write keeps the canonical form. -/
theorem SMap.set_wf {α : Type} [DecidableEq α] [Inhabited α] (m : SMap α) (k : Nat) (v : α) (h : m.wf = true) :
    (m.set k v).wf = true := by
  simp only [SMap.set]
  split
  · exact SMap.del_wf m k h
  · rename_i hv; exact SMap.put_wf m k v hv h

theorem SMap.update_wf {α : Type} [DecidableEq α] [Inhabited α] (m : SMap α) (k : Nat) (f : α → α) (h : m.wf = true) :
    (m.update k f).wf = true := SMap.set_wf m k _ h

theorem SMap.setRange_wf {α : Type} [DecidableEq α] [Inhabited α] (vs : List α) (m : SMap α) (k : Nat) (h : m.wf = true) :
    (m.setRange k vs).wf = true := by
  induction vs generalizing m k with
  | nil => exact h
  | cons v r ih => exact ih _ _ (SMap.set_wf m k v h)

theorem SMap.fill_wf {α : Type} [DecidableEq α] [Inhabited α] (m : SMap α) (k n : Nat) (v : α) (h : m.wf = true) :
    (m.fill k n v).wf = true := by
  simp only [SMap.fill]
  split
  · exact SMap.filter_wf m _ h
  · exact SMap.setRange_wf _ m k h

/-- Two maps in canonical form that read alike are equal data. -/
theorem SMap.ext_of_wf {α : Type} [DecidableEq α] [Inhabited α] : ∀ (m n : SMap α), m.wf = true → n.wf = true →
    (∀ k, m.get k = n.get k) → m = n := by
  have lower : ∀ (m : SMap α) (k : Nat), (∀ e ∈ m, k < e.1) → m.get k = default := by
    intro m k
    induction m with
    | nil => simp
    | cons e r ih =>
      intro h
      have h1 := h e (by simp)
      have h2 := ih (fun x hx => h x (by simp [hx]))
      simp only [SMap.get]
      split
      · omega
      · exact h2
  intro m
  induction m with
  | nil =>
    intro n _ hn h
    match n with
    | [] => rfl
    | e :: r =>
      have := h e.1
      rw [SMap.wf_iff] at hn
      have hd := hn.2 e (by simp)
      simp [SMap.get] at this
      exact absurd this.symm hd
  | cons a r ih =>
    intro n hm hn h
    match n with
    | [] =>
      have := h a.1
      rw [SMap.wf_iff] at hm
      have hd := hm.2 a (by simp)
      simp [SMap.get] at this
      exact absurd this hd
    | b :: q =>
      have hm' := (SMap.wf_iff _).1 hm
      have hn' := (SMap.wf_iff _).1 hn
      have hr := List.pairwise_cons.1 hm'.1
      have hq := List.pairwise_cons.1 hn'.1
      have hab : a.1 = b.1 := by
        rcases Nat.lt_trichotomy a.1 b.1 with hlt | heq | hlt
        · have := h a.1
          rw [lower (b :: q) a.1 (by intro e he; rcases List.mem_cons.1 he with he | he
                                     · simpa [he] using hlt
                                     · exact Nat.lt_trans hlt (hq.1 e he))] at this
          simp [SMap.get] at this
          exact absurd this (hm'.2 a (by simp))
        · exact heq
        · have := h b.1
          rw [lower (a :: r) b.1 (by intro e he; rcases List.mem_cons.1 he with he | he
                                     · simpa [he] using hlt
                                     · exact Nat.lt_trans hlt (hr.1 e he))] at this
          simp [SMap.get] at this
          exact absurd this.symm (hn'.2 b (by simp))
      have hv : a.2 = b.2 := by
        have := h a.1
        simpa [SMap.get, hab] using this
      have hrq : r = q := by
        refine ih q ?_ ?_ ?_
        · exact (SMap.wf_iff _).2 ⟨hr.2, fun e he => hm'.2 e (by simp [he])⟩
        · exact (SMap.wf_iff _).2 ⟨hq.2, fun e he => hn'.2 e (by simp [he])⟩
        · intro k
          by_cases hk : a.1 = k
          · rw [lower r k (by intro e he; rw [← hk]; exact hr.1 e he),
              lower q k (by intro e he; rw [← hk, hab]; exact hq.1 e he)]
          · have := h k
            have hk' : ¬ b.1 = k := by rw [← hab]; exact hk
            simpa [SMap.get, hk, hk'] using this
      rw [hrq, Prod.ext hab hv]

end Sys2Proof.Machine
end

