-- ==== Sys2Proof/Laws/Network.lean ====
section
/-! SUPPORT. What sealing and opening do (R293, R379): what is sealed opens to the same bytes, and a sealed datagram holds its tag. -/

namespace Sys2Proof.Machine

theorem leBytes_length (n x : Nat) : (leBytes n x).length = n := by
  induction n generalizing x with
  | zero => rfl
  | succ n ih => simp [leBytes, ih]

theorem aesXor_length (key nonce : Nat) (bs : List Byte) : (aesXor key nonce bs).length = bs.length := by
  simp [aesXor]

theorem aesXor_aesXor (key nonce : Nat) (bs : List Byte) : aesXor key nonce (aesXor key nonce bs) = bs := by
  refine List.ext_getElem (by simp [aesXor_length]) (fun i h1 h2 => ?_)
  simp [aesXor, BitVec.xor_assoc]

theorem gcmSeal_length (key nonce : Nat) (header plain : List Byte) : (gcmSeal key nonce header plain).length = plain.length + 16 := by
  simp [gcmSeal, aesXor_length, leBytes_length]

theorem gcmOpen_gcmSeal (key nonce : Nat) (header plain : List Byte) :
    gcmOpen key nonce header (gcmSeal key nonce header plain) = some plain := by
  have hl : (gcmSeal key nonce header plain).length - 16 = (aesXor key nonce plain).length := by
    simp [gcmSeal_length, aesXor_length]
  simp only [gcmOpen, hl]
  simp [gcmSeal, aesXor_aesXor]

/-- A datagram with a well-formed header whose payload the other side has sealed holds its tag (R292, R293). -/
theorem kdtOk_sealed (f : Flow) (type : Nat) (header payload : List Byte) (hl : header.length = 32)
    (hf : kdtField header 7 0 = 1 ∧ kdtField header 15 8 = type ∧ kdtField header 47 19 = 0 ∧
      kdtField header 63 48 = payload.length ∧ payload.length ≤ 8960) :
    let n := kdtNonce (kdtField header 95 64) (kdtField header 127 96) (!f.side)
    kdtOk f (header ++ gcmSeal f.secret n header payload) type = true := by
  intro n
  have ht : ∀ x, (header ++ x).take 32 = header := fun x => by rw [← hl]; simp
  have hd : ∀ x : List Byte, (header ++ x).drop 32 = x := fun x => by rw [← hl]; simp
  have hk : ∀ x a b, kdtField (header ++ x) a b = kdtField header a b := fun x a b => by
    have : header.take 32 = header := List.take_of_length_le (by omega)
    simp only [kdtField, ht, this]
  obtain ⟨h1, h2, h3, h4, h5⟩ := hf
  simp only [kdtOk, hk, kdtOpen, ht, hd, h1, h2, h3, h4, List.length_append, hl, gcmSeal_length]
  simp only [n, gcmOpen_gcmSeal]
  simp; omega

end Sys2Proof.Machine
end

