-- ==== Sys2Proof/Laws/State.lean ====
section
/-! SUPPORT. What each named update of the state leaves: one lemma per field per update, so that no later proof unfolds a
record update. -/

namespace Sys2Proof.Machine

/-! ### `setV` -/

@[simp] theorem State.setV_tick (s : State) (w l n : Nat) (x : Word) : (s.setV w l n x).tick = s.tick := rfl
@[simp] theorem State.setV_turn (s : State) (w l n : Nat) (x : Word) : (s.setV w l n x).turn = s.turn := rfl
@[simp] theorem State.setV_fresh (s : State) (w l n : Nat) (x : Word) : (s.setV w l n x).fresh = s.fresh := rfl
@[simp] theorem State.setV_serial (s : State) (w l n : Nat) (x : Word) : (s.setV w l n x).serial = s.serial := rfl
@[simp] theorem State.setV_cur (s : State) (w l n : Nat) (x : Word) : (s.setV w l n x).cur = s.cur := rfl
@[simp] theorem State.setV_issueQ (s : State) (w l n : Nat) (x : Word) : (s.setV w l n x).issueQ = s.issueQ := rfl
@[simp] theorem State.setV_agenda (s : State) (w l n : Nat) (x : Word) : (s.setV w l n x).agenda = s.agenda := rfl
@[simp] theorem State.setV_absent (s : State) (w l n : Nat) (x : Word) : (s.setV w l n x).absent = s.absent := rfl
@[simp] theorem State.setV_threads (s : State) (w l n : Nat) (x : Word) : (s.setV w l n x).threads = s.threads := rfl
@[simp] theorem State.setV_warps (s : State) (w l n : Nat) (x : Word) : (s.setV w l n x).warps = s.warps := rfl
@[simp] theorem State.setV_vregs (s : State) (w l n : Nat) (x : Word) : (s.setV w l n x).vregs = s.vregs.set (vkey w l n) x := rfl
@[simp] theorem State.setV_wregs (s : State) (w l n : Nat) (x : Word) : (s.setV w l n x).wregs = s.wregs := rfl
@[simp] theorem State.setV_mem (s : State) (w l n : Nat) (x : Word) : (s.setV w l n x).mem = s.mem := rfl
@[simp] theorem State.setV_bench (s : State) (w l n : Nat) (x : Word) : (s.setV w l n x).bench = s.bench := rfl
@[simp] theorem State.setV_benchAbs (s : State) (w l n : Nat) (x : Word) : (s.setV w l n x).benchAbs = s.benchAbs := rfl
@[simp] theorem State.setV_acc (s : State) (w l n : Nat) (x : Word) : (s.setV w l n x).acc = s.acc := rfl
@[simp] theorem State.setV_marver (s : State) (w l n : Nat) (x : Word) : (s.setV w l n x).marver = s.marver := rfl
@[simp] theorem State.setV_marvAbs (s : State) (w l n : Nat) (x : Word) : (s.setV w l n x).marvAbs = s.marvAbs := rfl
@[simp] theorem State.setV_icache (s : State) (w l n : Nat) (x : Word) : (s.setV w l n x).icache = s.icache := rfl
@[simp] theorem State.setV_bars (s : State) (w l n : Nat) (x : Word) : (s.setV w l n x).bars = s.bars := rfl
@[simp] theorem State.setV_locks (s : State) (w l n : Nat) (x : Word) : (s.setV w l n x).locks = s.locks := rfl
@[simp] theorem State.setV_tlb (s : State) (w l n : Nat) (x : Word) : (s.setV w l n x).tlb = s.tlb := rfl
@[simp] theorem State.setV_opened (s : State) (w l n : Nat) (x : Word) : (s.setV w l n x).opened = s.opened := rfl
@[simp] theorem State.setV_pending (s : State) (w l n : Nat) (x : Word) : (s.setV w l n x).pending = s.pending := rfl
@[simp] theorem State.setV_port (s : State) (w l n : Nat) (x : Word) : (s.setV w l n x).port = s.port := rfl
@[simp] theorem State.setV_wgs (s : State) (w l n : Nat) (x : Word) : (s.setV w l n x).wgs = s.wgs := rfl
@[simp] theorem State.setV_sets (s : State) (w l n : Nat) (x : Word) : (s.setV w l n x).sets = s.sets := rfl
@[simp] theorem State.setV_released (s : State) (w l n : Nat) (x : Word) : (s.setV w l n x).released = s.released := rfl
@[simp] theorem State.setV_launches (s : State) (w l n : Nat) (x : Word) : (s.setV w l n x).launches = s.launches := rfl
@[simp] theorem State.setV_xfer (s : State) (w l n : Nat) (x : Word) : (s.setV w l n x).xfer = s.xfer := rfl
@[simp] theorem State.setV_asked (s : State) (w l n : Nat) (x : Word) : (s.setV w l n x).asked = s.asked := rfl
@[simp] theorem State.setV_bsends (s : State) (w l n : Nat) (x : Word) : (s.setV w l n x).bsends = s.bsends := rfl
@[simp] theorem State.setV_credits (s : State) (w l n : Nat) (x : Word) : (s.setV w l n x).credits = s.credits := rfl
@[simp] theorem State.setV_colls (s : State) (w l n : Nat) (x : Word) : (s.setV w l n x).colls = s.colls := rfl
@[simp] theorem State.setV_contribs (s : State) (w l n : Nat) (x : Word) : (s.setV w l n x).contribs = s.contribs := rfl
@[simp] theorem State.setV_flows (s : State) (w l n : Nat) (x : Word) : (s.setV w l n x).flows = s.flows := rfl
@[simp] theorem State.setV_flowAsk (s : State) (w l n : Nat) (x : Word) : (s.setV w l n x).flowAsk = s.flowAsk := rfl
@[simp] theorem State.setV_flowGot (s : State) (w l n : Nat) (x : Word) : (s.setV w l n x).flowGot = s.flowGot := rfl
@[simp] theorem State.setV_walks (s : State) (w l n : Nat) (x : Word) : (s.setV w l n x).walks = s.walks := rfl
@[simp] theorem State.setV_faults (s : State) (w l n : Nat) (x : Word) : (s.setV w l n x).faults = s.faults := rfl
@[simp] theorem State.setV_held (s : State) (w l n : Nat) (x : Word) : (s.setV w l n x).held = s.held := rfl
@[simp] theorem State.setV_tinvs (s : State) (w l n : Nat) (x : Word) : (s.setV w l n x).tinvs = s.tinvs := rfl
@[simp] theorem State.setV_cores (s : State) (w l n : Nat) (x : Word) : (s.setV w l n x).cores = s.cores := rfl
@[simp] theorem State.setV_dies (s : State) (w l n : Nat) (x : Word) : (s.setV w l n x).dies = s.dies := rfl
@[simp] theorem State.setV_owners (s : State) (w l n : Nat) (x : Word) : (s.setV w l n x).owners = s.owners := rfl
@[simp] theorem State.setV_ifcs (s : State) (w l n : Nat) (x : Word) : (s.setV w l n x).ifcs = s.ifcs := rfl
@[simp] theorem State.setV_prgs (s : State) (w l n : Nat) (x : Word) : (s.setV w l n x).prgs = s.prgs := rfl
@[simp] theorem State.setV_ats (s : State) (w l n : Nat) (x : Word) : (s.setV w l n x).ats = s.ats := rfl
@[simp] theorem State.setV_dtc (s : State) (w l n : Nat) (x : Word) : (s.setV w l n x).dtc = s.dtc := rfl
@[simp] theorem State.setV_host (s : State) (w l n : Nat) (x : Word) : (s.setV w l n x).host = s.host := rfl
@[simp] theorem State.setV_hostL2 (s : State) (w l n : Nat) (x : Word) : (s.setV w l n x).hostL2 = s.hostL2 := rfl
@[simp] theorem State.setV_ports (s : State) (w l n : Nat) (x : Word) : (s.setV w l n x).ports = s.ports := rfl
@[simp] theorem State.setV_crucible (s : State) (w l n : Nat) (x : Word) : (s.setV w l n x).crucible = s.crucible := rfl
@[simp] theorem State.setV_sessions (s : State) (w l n : Nat) (x : Word) : (s.setV w l n x).sessions = s.sessions := rfl
@[simp] theorem State.setV_module (s : State) (w l n : Nat) (x : Word) : (s.setV w l n x).module = s.module := rfl

/-! ### `setW` -/

@[simp] theorem State.setW_tick (s : State) (w n : Nat) (x : Word) : (s.setW w n x).tick = s.tick := rfl
@[simp] theorem State.setW_turn (s : State) (w n : Nat) (x : Word) : (s.setW w n x).turn = s.turn := rfl
@[simp] theorem State.setW_fresh (s : State) (w n : Nat) (x : Word) : (s.setW w n x).fresh = s.fresh := rfl
@[simp] theorem State.setW_serial (s : State) (w n : Nat) (x : Word) : (s.setW w n x).serial = s.serial := rfl
@[simp] theorem State.setW_cur (s : State) (w n : Nat) (x : Word) : (s.setW w n x).cur = s.cur := rfl
@[simp] theorem State.setW_issueQ (s : State) (w n : Nat) (x : Word) : (s.setW w n x).issueQ = s.issueQ := rfl
@[simp] theorem State.setW_agenda (s : State) (w n : Nat) (x : Word) : (s.setW w n x).agenda = s.agenda := rfl
@[simp] theorem State.setW_absent (s : State) (w n : Nat) (x : Word) : (s.setW w n x).absent = s.absent := rfl
@[simp] theorem State.setW_threads (s : State) (w n : Nat) (x : Word) : (s.setW w n x).threads = s.threads := rfl
@[simp] theorem State.setW_warps (s : State) (w n : Nat) (x : Word) : (s.setW w n x).warps = s.warps := rfl
@[simp] theorem State.setW_vregs (s : State) (w n : Nat) (x : Word) : (s.setW w n x).vregs = s.vregs := rfl
@[simp] theorem State.setW_wregs (s : State) (w n : Nat) (x : Word) : (s.setW w n x).wregs = s.wregs.set (wkey w n) x := rfl
@[simp] theorem State.setW_mem (s : State) (w n : Nat) (x : Word) : (s.setW w n x).mem = s.mem := rfl
@[simp] theorem State.setW_bench (s : State) (w n : Nat) (x : Word) : (s.setW w n x).bench = s.bench := rfl
@[simp] theorem State.setW_benchAbs (s : State) (w n : Nat) (x : Word) : (s.setW w n x).benchAbs = s.benchAbs := rfl
@[simp] theorem State.setW_acc (s : State) (w n : Nat) (x : Word) : (s.setW w n x).acc = s.acc := rfl
@[simp] theorem State.setW_marver (s : State) (w n : Nat) (x : Word) : (s.setW w n x).marver = s.marver := rfl
@[simp] theorem State.setW_marvAbs (s : State) (w n : Nat) (x : Word) : (s.setW w n x).marvAbs = s.marvAbs := rfl
@[simp] theorem State.setW_icache (s : State) (w n : Nat) (x : Word) : (s.setW w n x).icache = s.icache := rfl
@[simp] theorem State.setW_bars (s : State) (w n : Nat) (x : Word) : (s.setW w n x).bars = s.bars := rfl
@[simp] theorem State.setW_locks (s : State) (w n : Nat) (x : Word) : (s.setW w n x).locks = s.locks := rfl
@[simp] theorem State.setW_tlb (s : State) (w n : Nat) (x : Word) : (s.setW w n x).tlb = s.tlb := rfl
@[simp] theorem State.setW_opened (s : State) (w n : Nat) (x : Word) : (s.setW w n x).opened = s.opened := rfl
@[simp] theorem State.setW_pending (s : State) (w n : Nat) (x : Word) : (s.setW w n x).pending = s.pending := rfl
@[simp] theorem State.setW_port (s : State) (w n : Nat) (x : Word) : (s.setW w n x).port = s.port := rfl
@[simp] theorem State.setW_wgs (s : State) (w n : Nat) (x : Word) : (s.setW w n x).wgs = s.wgs := rfl
@[simp] theorem State.setW_sets (s : State) (w n : Nat) (x : Word) : (s.setW w n x).sets = s.sets := rfl
@[simp] theorem State.setW_released (s : State) (w n : Nat) (x : Word) : (s.setW w n x).released = s.released := rfl
@[simp] theorem State.setW_launches (s : State) (w n : Nat) (x : Word) : (s.setW w n x).launches = s.launches := rfl
@[simp] theorem State.setW_xfer (s : State) (w n : Nat) (x : Word) : (s.setW w n x).xfer = s.xfer := rfl
@[simp] theorem State.setW_asked (s : State) (w n : Nat) (x : Word) : (s.setW w n x).asked = s.asked := rfl
@[simp] theorem State.setW_bsends (s : State) (w n : Nat) (x : Word) : (s.setW w n x).bsends = s.bsends := rfl
@[simp] theorem State.setW_credits (s : State) (w n : Nat) (x : Word) : (s.setW w n x).credits = s.credits := rfl
@[simp] theorem State.setW_colls (s : State) (w n : Nat) (x : Word) : (s.setW w n x).colls = s.colls := rfl
@[simp] theorem State.setW_contribs (s : State) (w n : Nat) (x : Word) : (s.setW w n x).contribs = s.contribs := rfl
@[simp] theorem State.setW_flows (s : State) (w n : Nat) (x : Word) : (s.setW w n x).flows = s.flows := rfl
@[simp] theorem State.setW_flowAsk (s : State) (w n : Nat) (x : Word) : (s.setW w n x).flowAsk = s.flowAsk := rfl
@[simp] theorem State.setW_flowGot (s : State) (w n : Nat) (x : Word) : (s.setW w n x).flowGot = s.flowGot := rfl
@[simp] theorem State.setW_walks (s : State) (w n : Nat) (x : Word) : (s.setW w n x).walks = s.walks := rfl
@[simp] theorem State.setW_faults (s : State) (w n : Nat) (x : Word) : (s.setW w n x).faults = s.faults := rfl
@[simp] theorem State.setW_held (s : State) (w n : Nat) (x : Word) : (s.setW w n x).held = s.held := rfl
@[simp] theorem State.setW_tinvs (s : State) (w n : Nat) (x : Word) : (s.setW w n x).tinvs = s.tinvs := rfl
@[simp] theorem State.setW_cores (s : State) (w n : Nat) (x : Word) : (s.setW w n x).cores = s.cores := rfl
@[simp] theorem State.setW_dies (s : State) (w n : Nat) (x : Word) : (s.setW w n x).dies = s.dies := rfl
@[simp] theorem State.setW_owners (s : State) (w n : Nat) (x : Word) : (s.setW w n x).owners = s.owners := rfl
@[simp] theorem State.setW_ifcs (s : State) (w n : Nat) (x : Word) : (s.setW w n x).ifcs = s.ifcs := rfl
@[simp] theorem State.setW_prgs (s : State) (w n : Nat) (x : Word) : (s.setW w n x).prgs = s.prgs := rfl
@[simp] theorem State.setW_ats (s : State) (w n : Nat) (x : Word) : (s.setW w n x).ats = s.ats := rfl
@[simp] theorem State.setW_dtc (s : State) (w n : Nat) (x : Word) : (s.setW w n x).dtc = s.dtc := rfl
@[simp] theorem State.setW_host (s : State) (w n : Nat) (x : Word) : (s.setW w n x).host = s.host := rfl
@[simp] theorem State.setW_hostL2 (s : State) (w n : Nat) (x : Word) : (s.setW w n x).hostL2 = s.hostL2 := rfl
@[simp] theorem State.setW_ports (s : State) (w n : Nat) (x : Word) : (s.setW w n x).ports = s.ports := rfl
@[simp] theorem State.setW_crucible (s : State) (w n : Nat) (x : Word) : (s.setW w n x).crucible = s.crucible := rfl
@[simp] theorem State.setW_sessions (s : State) (w n : Nat) (x : Word) : (s.setW w n x).sessions = s.sessions := rfl
@[simp] theorem State.setW_module (s : State) (w n : Nat) (x : Word) : (s.setW w n x).module = s.module := rfl

/-! ### `setThread` -/

@[simp] theorem State.setThread_tick (s : State) (w l : Nat) (f : Thread → Thread) : (s.setThread w l f).tick = s.tick := rfl
@[simp] theorem State.setThread_turn (s : State) (w l : Nat) (f : Thread → Thread) : (s.setThread w l f).turn = s.turn := rfl
@[simp] theorem State.setThread_fresh (s : State) (w l : Nat) (f : Thread → Thread) : (s.setThread w l f).fresh = s.fresh := rfl
@[simp] theorem State.setThread_serial (s : State) (w l : Nat) (f : Thread → Thread) : (s.setThread w l f).serial = s.serial := rfl
@[simp] theorem State.setThread_cur (s : State) (w l : Nat) (f : Thread → Thread) : (s.setThread w l f).cur = s.cur := rfl
@[simp] theorem State.setThread_issueQ (s : State) (w l : Nat) (f : Thread → Thread) : (s.setThread w l f).issueQ = s.issueQ := rfl
@[simp] theorem State.setThread_agenda (s : State) (w l : Nat) (f : Thread → Thread) : (s.setThread w l f).agenda = s.agenda := rfl
@[simp] theorem State.setThread_absent (s : State) (w l : Nat) (f : Thread → Thread) : (s.setThread w l f).absent = s.absent := rfl
@[simp] theorem State.setThread_threads (s : State) (w l : Nat) (f : Thread → Thread) : (s.setThread w l f).threads = s.threads.update (tid w l) f := rfl
@[simp] theorem State.setThread_warps (s : State) (w l : Nat) (f : Thread → Thread) : (s.setThread w l f).warps = s.warps := rfl
@[simp] theorem State.setThread_vregs (s : State) (w l : Nat) (f : Thread → Thread) : (s.setThread w l f).vregs = s.vregs := rfl
@[simp] theorem State.setThread_wregs (s : State) (w l : Nat) (f : Thread → Thread) : (s.setThread w l f).wregs = s.wregs := rfl
@[simp] theorem State.setThread_mem (s : State) (w l : Nat) (f : Thread → Thread) : (s.setThread w l f).mem = s.mem := rfl
@[simp] theorem State.setThread_bench (s : State) (w l : Nat) (f : Thread → Thread) : (s.setThread w l f).bench = s.bench := rfl
@[simp] theorem State.setThread_benchAbs (s : State) (w l : Nat) (f : Thread → Thread) : (s.setThread w l f).benchAbs = s.benchAbs := rfl
@[simp] theorem State.setThread_acc (s : State) (w l : Nat) (f : Thread → Thread) : (s.setThread w l f).acc = s.acc := rfl
@[simp] theorem State.setThread_marver (s : State) (w l : Nat) (f : Thread → Thread) : (s.setThread w l f).marver = s.marver := rfl
@[simp] theorem State.setThread_marvAbs (s : State) (w l : Nat) (f : Thread → Thread) : (s.setThread w l f).marvAbs = s.marvAbs := rfl
@[simp] theorem State.setThread_icache (s : State) (w l : Nat) (f : Thread → Thread) : (s.setThread w l f).icache = s.icache := rfl
@[simp] theorem State.setThread_bars (s : State) (w l : Nat) (f : Thread → Thread) : (s.setThread w l f).bars = s.bars := rfl
@[simp] theorem State.setThread_locks (s : State) (w l : Nat) (f : Thread → Thread) : (s.setThread w l f).locks = s.locks := rfl
@[simp] theorem State.setThread_tlb (s : State) (w l : Nat) (f : Thread → Thread) : (s.setThread w l f).tlb = s.tlb := rfl
@[simp] theorem State.setThread_opened (s : State) (w l : Nat) (f : Thread → Thread) : (s.setThread w l f).opened = s.opened := rfl
@[simp] theorem State.setThread_pending (s : State) (w l : Nat) (f : Thread → Thread) : (s.setThread w l f).pending = s.pending := rfl
@[simp] theorem State.setThread_port (s : State) (w l : Nat) (f : Thread → Thread) : (s.setThread w l f).port = s.port := rfl
@[simp] theorem State.setThread_wgs (s : State) (w l : Nat) (f : Thread → Thread) : (s.setThread w l f).wgs = s.wgs := rfl
@[simp] theorem State.setThread_sets (s : State) (w l : Nat) (f : Thread → Thread) : (s.setThread w l f).sets = s.sets := rfl
@[simp] theorem State.setThread_released (s : State) (w l : Nat) (f : Thread → Thread) : (s.setThread w l f).released = s.released := rfl
@[simp] theorem State.setThread_launches (s : State) (w l : Nat) (f : Thread → Thread) : (s.setThread w l f).launches = s.launches := rfl
@[simp] theorem State.setThread_xfer (s : State) (w l : Nat) (f : Thread → Thread) : (s.setThread w l f).xfer = s.xfer := rfl
@[simp] theorem State.setThread_asked (s : State) (w l : Nat) (f : Thread → Thread) : (s.setThread w l f).asked = s.asked := rfl
@[simp] theorem State.setThread_bsends (s : State) (w l : Nat) (f : Thread → Thread) : (s.setThread w l f).bsends = s.bsends := rfl
@[simp] theorem State.setThread_credits (s : State) (w l : Nat) (f : Thread → Thread) : (s.setThread w l f).credits = s.credits := rfl
@[simp] theorem State.setThread_colls (s : State) (w l : Nat) (f : Thread → Thread) : (s.setThread w l f).colls = s.colls := rfl
@[simp] theorem State.setThread_contribs (s : State) (w l : Nat) (f : Thread → Thread) : (s.setThread w l f).contribs = s.contribs := rfl
@[simp] theorem State.setThread_flows (s : State) (w l : Nat) (f : Thread → Thread) : (s.setThread w l f).flows = s.flows := rfl
@[simp] theorem State.setThread_flowAsk (s : State) (w l : Nat) (f : Thread → Thread) : (s.setThread w l f).flowAsk = s.flowAsk := rfl
@[simp] theorem State.setThread_flowGot (s : State) (w l : Nat) (f : Thread → Thread) : (s.setThread w l f).flowGot = s.flowGot := rfl
@[simp] theorem State.setThread_walks (s : State) (w l : Nat) (f : Thread → Thread) : (s.setThread w l f).walks = s.walks := rfl
@[simp] theorem State.setThread_faults (s : State) (w l : Nat) (f : Thread → Thread) : (s.setThread w l f).faults = s.faults := rfl
@[simp] theorem State.setThread_held (s : State) (w l : Nat) (f : Thread → Thread) : (s.setThread w l f).held = s.held := rfl
@[simp] theorem State.setThread_tinvs (s : State) (w l : Nat) (f : Thread → Thread) : (s.setThread w l f).tinvs = s.tinvs := rfl
@[simp] theorem State.setThread_cores (s : State) (w l : Nat) (f : Thread → Thread) : (s.setThread w l f).cores = s.cores := rfl
@[simp] theorem State.setThread_dies (s : State) (w l : Nat) (f : Thread → Thread) : (s.setThread w l f).dies = s.dies := rfl
@[simp] theorem State.setThread_owners (s : State) (w l : Nat) (f : Thread → Thread) : (s.setThread w l f).owners = s.owners := rfl
@[simp] theorem State.setThread_ifcs (s : State) (w l : Nat) (f : Thread → Thread) : (s.setThread w l f).ifcs = s.ifcs := rfl
@[simp] theorem State.setThread_prgs (s : State) (w l : Nat) (f : Thread → Thread) : (s.setThread w l f).prgs = s.prgs := rfl
@[simp] theorem State.setThread_ats (s : State) (w l : Nat) (f : Thread → Thread) : (s.setThread w l f).ats = s.ats := rfl
@[simp] theorem State.setThread_dtc (s : State) (w l : Nat) (f : Thread → Thread) : (s.setThread w l f).dtc = s.dtc := rfl
@[simp] theorem State.setThread_host (s : State) (w l : Nat) (f : Thread → Thread) : (s.setThread w l f).host = s.host := rfl
@[simp] theorem State.setThread_hostL2 (s : State) (w l : Nat) (f : Thread → Thread) : (s.setThread w l f).hostL2 = s.hostL2 := rfl
@[simp] theorem State.setThread_ports (s : State) (w l : Nat) (f : Thread → Thread) : (s.setThread w l f).ports = s.ports := rfl
@[simp] theorem State.setThread_crucible (s : State) (w l : Nat) (f : Thread → Thread) : (s.setThread w l f).crucible = s.crucible := rfl
@[simp] theorem State.setThread_sessions (s : State) (w l : Nat) (f : Thread → Thread) : (s.setThread w l f).sessions = s.sessions := rfl
@[simp] theorem State.setThread_module (s : State) (w l : Nat) (f : Thread → Thread) : (s.setThread w l f).module = s.module := rfl

/-! ### `setWarp` -/

@[simp] theorem State.setWarp_tick (s : State) (w : Nat) (f : Warp → Warp) : (s.setWarp w f).tick = s.tick := rfl
@[simp] theorem State.setWarp_turn (s : State) (w : Nat) (f : Warp → Warp) : (s.setWarp w f).turn = s.turn := rfl
@[simp] theorem State.setWarp_fresh (s : State) (w : Nat) (f : Warp → Warp) : (s.setWarp w f).fresh = s.fresh := rfl
@[simp] theorem State.setWarp_serial (s : State) (w : Nat) (f : Warp → Warp) : (s.setWarp w f).serial = s.serial := rfl
@[simp] theorem State.setWarp_cur (s : State) (w : Nat) (f : Warp → Warp) : (s.setWarp w f).cur = s.cur := rfl
@[simp] theorem State.setWarp_issueQ (s : State) (w : Nat) (f : Warp → Warp) : (s.setWarp w f).issueQ = s.issueQ := rfl
@[simp] theorem State.setWarp_agenda (s : State) (w : Nat) (f : Warp → Warp) : (s.setWarp w f).agenda = s.agenda := rfl
@[simp] theorem State.setWarp_absent (s : State) (w : Nat) (f : Warp → Warp) : (s.setWarp w f).absent = s.absent := rfl
@[simp] theorem State.setWarp_threads (s : State) (w : Nat) (f : Warp → Warp) : (s.setWarp w f).threads = s.threads := rfl
@[simp] theorem State.setWarp_warps (s : State) (w : Nat) (f : Warp → Warp) : (s.setWarp w f).warps = s.warps.update w f := rfl
@[simp] theorem State.setWarp_vregs (s : State) (w : Nat) (f : Warp → Warp) : (s.setWarp w f).vregs = s.vregs := rfl
@[simp] theorem State.setWarp_wregs (s : State) (w : Nat) (f : Warp → Warp) : (s.setWarp w f).wregs = s.wregs := rfl
@[simp] theorem State.setWarp_mem (s : State) (w : Nat) (f : Warp → Warp) : (s.setWarp w f).mem = s.mem := rfl
@[simp] theorem State.setWarp_bench (s : State) (w : Nat) (f : Warp → Warp) : (s.setWarp w f).bench = s.bench := rfl
@[simp] theorem State.setWarp_benchAbs (s : State) (w : Nat) (f : Warp → Warp) : (s.setWarp w f).benchAbs = s.benchAbs := rfl
@[simp] theorem State.setWarp_acc (s : State) (w : Nat) (f : Warp → Warp) : (s.setWarp w f).acc = s.acc := rfl
@[simp] theorem State.setWarp_marver (s : State) (w : Nat) (f : Warp → Warp) : (s.setWarp w f).marver = s.marver := rfl
@[simp] theorem State.setWarp_marvAbs (s : State) (w : Nat) (f : Warp → Warp) : (s.setWarp w f).marvAbs = s.marvAbs := rfl
@[simp] theorem State.setWarp_icache (s : State) (w : Nat) (f : Warp → Warp) : (s.setWarp w f).icache = s.icache := rfl
@[simp] theorem State.setWarp_bars (s : State) (w : Nat) (f : Warp → Warp) : (s.setWarp w f).bars = s.bars := rfl
@[simp] theorem State.setWarp_locks (s : State) (w : Nat) (f : Warp → Warp) : (s.setWarp w f).locks = s.locks := rfl
@[simp] theorem State.setWarp_tlb (s : State) (w : Nat) (f : Warp → Warp) : (s.setWarp w f).tlb = s.tlb := rfl
@[simp] theorem State.setWarp_opened (s : State) (w : Nat) (f : Warp → Warp) : (s.setWarp w f).opened = s.opened := rfl
@[simp] theorem State.setWarp_pending (s : State) (w : Nat) (f : Warp → Warp) : (s.setWarp w f).pending = s.pending := rfl
@[simp] theorem State.setWarp_port (s : State) (w : Nat) (f : Warp → Warp) : (s.setWarp w f).port = s.port := rfl
@[simp] theorem State.setWarp_wgs (s : State) (w : Nat) (f : Warp → Warp) : (s.setWarp w f).wgs = s.wgs := rfl
@[simp] theorem State.setWarp_sets (s : State) (w : Nat) (f : Warp → Warp) : (s.setWarp w f).sets = s.sets := rfl
@[simp] theorem State.setWarp_released (s : State) (w : Nat) (f : Warp → Warp) : (s.setWarp w f).released = s.released := rfl
@[simp] theorem State.setWarp_launches (s : State) (w : Nat) (f : Warp → Warp) : (s.setWarp w f).launches = s.launches := rfl
@[simp] theorem State.setWarp_xfer (s : State) (w : Nat) (f : Warp → Warp) : (s.setWarp w f).xfer = s.xfer := rfl
@[simp] theorem State.setWarp_asked (s : State) (w : Nat) (f : Warp → Warp) : (s.setWarp w f).asked = s.asked := rfl
@[simp] theorem State.setWarp_bsends (s : State) (w : Nat) (f : Warp → Warp) : (s.setWarp w f).bsends = s.bsends := rfl
@[simp] theorem State.setWarp_credits (s : State) (w : Nat) (f : Warp → Warp) : (s.setWarp w f).credits = s.credits := rfl
@[simp] theorem State.setWarp_colls (s : State) (w : Nat) (f : Warp → Warp) : (s.setWarp w f).colls = s.colls := rfl
@[simp] theorem State.setWarp_contribs (s : State) (w : Nat) (f : Warp → Warp) : (s.setWarp w f).contribs = s.contribs := rfl
@[simp] theorem State.setWarp_flows (s : State) (w : Nat) (f : Warp → Warp) : (s.setWarp w f).flows = s.flows := rfl
@[simp] theorem State.setWarp_flowAsk (s : State) (w : Nat) (f : Warp → Warp) : (s.setWarp w f).flowAsk = s.flowAsk := rfl
@[simp] theorem State.setWarp_flowGot (s : State) (w : Nat) (f : Warp → Warp) : (s.setWarp w f).flowGot = s.flowGot := rfl
@[simp] theorem State.setWarp_walks (s : State) (w : Nat) (f : Warp → Warp) : (s.setWarp w f).walks = s.walks := rfl
@[simp] theorem State.setWarp_faults (s : State) (w : Nat) (f : Warp → Warp) : (s.setWarp w f).faults = s.faults := rfl
@[simp] theorem State.setWarp_held (s : State) (w : Nat) (f : Warp → Warp) : (s.setWarp w f).held = s.held := rfl
@[simp] theorem State.setWarp_tinvs (s : State) (w : Nat) (f : Warp → Warp) : (s.setWarp w f).tinvs = s.tinvs := rfl
@[simp] theorem State.setWarp_cores (s : State) (w : Nat) (f : Warp → Warp) : (s.setWarp w f).cores = s.cores := rfl
@[simp] theorem State.setWarp_dies (s : State) (w : Nat) (f : Warp → Warp) : (s.setWarp w f).dies = s.dies := rfl
@[simp] theorem State.setWarp_owners (s : State) (w : Nat) (f : Warp → Warp) : (s.setWarp w f).owners = s.owners := rfl
@[simp] theorem State.setWarp_ifcs (s : State) (w : Nat) (f : Warp → Warp) : (s.setWarp w f).ifcs = s.ifcs := rfl
@[simp] theorem State.setWarp_prgs (s : State) (w : Nat) (f : Warp → Warp) : (s.setWarp w f).prgs = s.prgs := rfl
@[simp] theorem State.setWarp_ats (s : State) (w : Nat) (f : Warp → Warp) : (s.setWarp w f).ats = s.ats := rfl
@[simp] theorem State.setWarp_dtc (s : State) (w : Nat) (f : Warp → Warp) : (s.setWarp w f).dtc = s.dtc := rfl
@[simp] theorem State.setWarp_host (s : State) (w : Nat) (f : Warp → Warp) : (s.setWarp w f).host = s.host := rfl
@[simp] theorem State.setWarp_hostL2 (s : State) (w : Nat) (f : Warp → Warp) : (s.setWarp w f).hostL2 = s.hostL2 := rfl
@[simp] theorem State.setWarp_ports (s : State) (w : Nat) (f : Warp → Warp) : (s.setWarp w f).ports = s.ports := rfl
@[simp] theorem State.setWarp_crucible (s : State) (w : Nat) (f : Warp → Warp) : (s.setWarp w f).crucible = s.crucible := rfl
@[simp] theorem State.setWarp_sessions (s : State) (w : Nat) (f : Warp → Warp) : (s.setWarp w f).sessions = s.sessions := rfl
@[simp] theorem State.setWarp_module (s : State) (w : Nat) (f : Warp → Warp) : (s.setWarp w f).module = s.module := rfl

/-! ### `setWg` -/

@[simp] theorem State.setWg_tick (s : State) (v : Nat) (f : Workgroup → Workgroup) : (s.setWg v f).tick = s.tick := rfl
@[simp] theorem State.setWg_turn (s : State) (v : Nat) (f : Workgroup → Workgroup) : (s.setWg v f).turn = s.turn := rfl
@[simp] theorem State.setWg_fresh (s : State) (v : Nat) (f : Workgroup → Workgroup) : (s.setWg v f).fresh = s.fresh := rfl
@[simp] theorem State.setWg_serial (s : State) (v : Nat) (f : Workgroup → Workgroup) : (s.setWg v f).serial = s.serial := rfl
@[simp] theorem State.setWg_cur (s : State) (v : Nat) (f : Workgroup → Workgroup) : (s.setWg v f).cur = s.cur := rfl
@[simp] theorem State.setWg_issueQ (s : State) (v : Nat) (f : Workgroup → Workgroup) : (s.setWg v f).issueQ = s.issueQ := rfl
@[simp] theorem State.setWg_agenda (s : State) (v : Nat) (f : Workgroup → Workgroup) : (s.setWg v f).agenda = s.agenda := rfl
@[simp] theorem State.setWg_absent (s : State) (v : Nat) (f : Workgroup → Workgroup) : (s.setWg v f).absent = s.absent := rfl
@[simp] theorem State.setWg_threads (s : State) (v : Nat) (f : Workgroup → Workgroup) : (s.setWg v f).threads = s.threads := rfl
@[simp] theorem State.setWg_warps (s : State) (v : Nat) (f : Workgroup → Workgroup) : (s.setWg v f).warps = s.warps := rfl
@[simp] theorem State.setWg_vregs (s : State) (v : Nat) (f : Workgroup → Workgroup) : (s.setWg v f).vregs = s.vregs := rfl
@[simp] theorem State.setWg_wregs (s : State) (v : Nat) (f : Workgroup → Workgroup) : (s.setWg v f).wregs = s.wregs := rfl
@[simp] theorem State.setWg_mem (s : State) (v : Nat) (f : Workgroup → Workgroup) : (s.setWg v f).mem = s.mem := rfl
@[simp] theorem State.setWg_bench (s : State) (v : Nat) (f : Workgroup → Workgroup) : (s.setWg v f).bench = s.bench := rfl
@[simp] theorem State.setWg_benchAbs (s : State) (v : Nat) (f : Workgroup → Workgroup) : (s.setWg v f).benchAbs = s.benchAbs := rfl
@[simp] theorem State.setWg_acc (s : State) (v : Nat) (f : Workgroup → Workgroup) : (s.setWg v f).acc = s.acc := rfl
@[simp] theorem State.setWg_marver (s : State) (v : Nat) (f : Workgroup → Workgroup) : (s.setWg v f).marver = s.marver := rfl
@[simp] theorem State.setWg_marvAbs (s : State) (v : Nat) (f : Workgroup → Workgroup) : (s.setWg v f).marvAbs = s.marvAbs := rfl
@[simp] theorem State.setWg_icache (s : State) (v : Nat) (f : Workgroup → Workgroup) : (s.setWg v f).icache = s.icache := rfl
@[simp] theorem State.setWg_bars (s : State) (v : Nat) (f : Workgroup → Workgroup) : (s.setWg v f).bars = s.bars := rfl
@[simp] theorem State.setWg_locks (s : State) (v : Nat) (f : Workgroup → Workgroup) : (s.setWg v f).locks = s.locks := rfl
@[simp] theorem State.setWg_tlb (s : State) (v : Nat) (f : Workgroup → Workgroup) : (s.setWg v f).tlb = s.tlb := rfl
@[simp] theorem State.setWg_opened (s : State) (v : Nat) (f : Workgroup → Workgroup) : (s.setWg v f).opened = s.opened := rfl
@[simp] theorem State.setWg_pending (s : State) (v : Nat) (f : Workgroup → Workgroup) : (s.setWg v f).pending = s.pending := rfl
@[simp] theorem State.setWg_port (s : State) (v : Nat) (f : Workgroup → Workgroup) : (s.setWg v f).port = s.port := rfl
@[simp] theorem State.setWg_wgs (s : State) (v : Nat) (f : Workgroup → Workgroup) : (s.setWg v f).wgs = s.wgs.update v f := rfl
@[simp] theorem State.setWg_sets (s : State) (v : Nat) (f : Workgroup → Workgroup) : (s.setWg v f).sets = s.sets := rfl
@[simp] theorem State.setWg_released (s : State) (v : Nat) (f : Workgroup → Workgroup) : (s.setWg v f).released = s.released := rfl
@[simp] theorem State.setWg_launches (s : State) (v : Nat) (f : Workgroup → Workgroup) : (s.setWg v f).launches = s.launches := rfl
@[simp] theorem State.setWg_xfer (s : State) (v : Nat) (f : Workgroup → Workgroup) : (s.setWg v f).xfer = s.xfer := rfl
@[simp] theorem State.setWg_asked (s : State) (v : Nat) (f : Workgroup → Workgroup) : (s.setWg v f).asked = s.asked := rfl
@[simp] theorem State.setWg_bsends (s : State) (v : Nat) (f : Workgroup → Workgroup) : (s.setWg v f).bsends = s.bsends := rfl
@[simp] theorem State.setWg_credits (s : State) (v : Nat) (f : Workgroup → Workgroup) : (s.setWg v f).credits = s.credits := rfl
@[simp] theorem State.setWg_colls (s : State) (v : Nat) (f : Workgroup → Workgroup) : (s.setWg v f).colls = s.colls := rfl
@[simp] theorem State.setWg_contribs (s : State) (v : Nat) (f : Workgroup → Workgroup) : (s.setWg v f).contribs = s.contribs := rfl
@[simp] theorem State.setWg_flows (s : State) (v : Nat) (f : Workgroup → Workgroup) : (s.setWg v f).flows = s.flows := rfl
@[simp] theorem State.setWg_flowAsk (s : State) (v : Nat) (f : Workgroup → Workgroup) : (s.setWg v f).flowAsk = s.flowAsk := rfl
@[simp] theorem State.setWg_flowGot (s : State) (v : Nat) (f : Workgroup → Workgroup) : (s.setWg v f).flowGot = s.flowGot := rfl
@[simp] theorem State.setWg_walks (s : State) (v : Nat) (f : Workgroup → Workgroup) : (s.setWg v f).walks = s.walks := rfl
@[simp] theorem State.setWg_faults (s : State) (v : Nat) (f : Workgroup → Workgroup) : (s.setWg v f).faults = s.faults := rfl
@[simp] theorem State.setWg_held (s : State) (v : Nat) (f : Workgroup → Workgroup) : (s.setWg v f).held = s.held := rfl
@[simp] theorem State.setWg_tinvs (s : State) (v : Nat) (f : Workgroup → Workgroup) : (s.setWg v f).tinvs = s.tinvs := rfl
@[simp] theorem State.setWg_cores (s : State) (v : Nat) (f : Workgroup → Workgroup) : (s.setWg v f).cores = s.cores := rfl
@[simp] theorem State.setWg_dies (s : State) (v : Nat) (f : Workgroup → Workgroup) : (s.setWg v f).dies = s.dies := rfl
@[simp] theorem State.setWg_owners (s : State) (v : Nat) (f : Workgroup → Workgroup) : (s.setWg v f).owners = s.owners := rfl
@[simp] theorem State.setWg_ifcs (s : State) (v : Nat) (f : Workgroup → Workgroup) : (s.setWg v f).ifcs = s.ifcs := rfl
@[simp] theorem State.setWg_prgs (s : State) (v : Nat) (f : Workgroup → Workgroup) : (s.setWg v f).prgs = s.prgs := rfl
@[simp] theorem State.setWg_ats (s : State) (v : Nat) (f : Workgroup → Workgroup) : (s.setWg v f).ats = s.ats := rfl
@[simp] theorem State.setWg_dtc (s : State) (v : Nat) (f : Workgroup → Workgroup) : (s.setWg v f).dtc = s.dtc := rfl
@[simp] theorem State.setWg_host (s : State) (v : Nat) (f : Workgroup → Workgroup) : (s.setWg v f).host = s.host := rfl
@[simp] theorem State.setWg_hostL2 (s : State) (v : Nat) (f : Workgroup → Workgroup) : (s.setWg v f).hostL2 = s.hostL2 := rfl
@[simp] theorem State.setWg_ports (s : State) (v : Nat) (f : Workgroup → Workgroup) : (s.setWg v f).ports = s.ports := rfl
@[simp] theorem State.setWg_crucible (s : State) (v : Nat) (f : Workgroup → Workgroup) : (s.setWg v f).crucible = s.crucible := rfl
@[simp] theorem State.setWg_sessions (s : State) (v : Nat) (f : Workgroup → Workgroup) : (s.setWg v f).sessions = s.sessions := rfl
@[simp] theorem State.setWg_module (s : State) (v : Nat) (f : Workgroup → Workgroup) : (s.setWg v f).module = s.module := rfl

/-! ### `setLaunch` -/

@[simp] theorem State.setLaunch_tick (s : State) (l : Nat) (f : Launch → Launch) : (s.setLaunch l f).tick = s.tick := rfl
@[simp] theorem State.setLaunch_turn (s : State) (l : Nat) (f : Launch → Launch) : (s.setLaunch l f).turn = s.turn := rfl
@[simp] theorem State.setLaunch_fresh (s : State) (l : Nat) (f : Launch → Launch) : (s.setLaunch l f).fresh = s.fresh := rfl
@[simp] theorem State.setLaunch_serial (s : State) (l : Nat) (f : Launch → Launch) : (s.setLaunch l f).serial = s.serial := rfl
@[simp] theorem State.setLaunch_cur (s : State) (l : Nat) (f : Launch → Launch) : (s.setLaunch l f).cur = s.cur := rfl
@[simp] theorem State.setLaunch_issueQ (s : State) (l : Nat) (f : Launch → Launch) : (s.setLaunch l f).issueQ = s.issueQ := rfl
@[simp] theorem State.setLaunch_agenda (s : State) (l : Nat) (f : Launch → Launch) : (s.setLaunch l f).agenda = s.agenda := rfl
@[simp] theorem State.setLaunch_absent (s : State) (l : Nat) (f : Launch → Launch) : (s.setLaunch l f).absent = s.absent := rfl
@[simp] theorem State.setLaunch_threads (s : State) (l : Nat) (f : Launch → Launch) : (s.setLaunch l f).threads = s.threads := rfl
@[simp] theorem State.setLaunch_warps (s : State) (l : Nat) (f : Launch → Launch) : (s.setLaunch l f).warps = s.warps := rfl
@[simp] theorem State.setLaunch_vregs (s : State) (l : Nat) (f : Launch → Launch) : (s.setLaunch l f).vregs = s.vregs := rfl
@[simp] theorem State.setLaunch_wregs (s : State) (l : Nat) (f : Launch → Launch) : (s.setLaunch l f).wregs = s.wregs := rfl
@[simp] theorem State.setLaunch_mem (s : State) (l : Nat) (f : Launch → Launch) : (s.setLaunch l f).mem = s.mem := rfl
@[simp] theorem State.setLaunch_bench (s : State) (l : Nat) (f : Launch → Launch) : (s.setLaunch l f).bench = s.bench := rfl
@[simp] theorem State.setLaunch_benchAbs (s : State) (l : Nat) (f : Launch → Launch) : (s.setLaunch l f).benchAbs = s.benchAbs := rfl
@[simp] theorem State.setLaunch_acc (s : State) (l : Nat) (f : Launch → Launch) : (s.setLaunch l f).acc = s.acc := rfl
@[simp] theorem State.setLaunch_marver (s : State) (l : Nat) (f : Launch → Launch) : (s.setLaunch l f).marver = s.marver := rfl
@[simp] theorem State.setLaunch_marvAbs (s : State) (l : Nat) (f : Launch → Launch) : (s.setLaunch l f).marvAbs = s.marvAbs := rfl
@[simp] theorem State.setLaunch_icache (s : State) (l : Nat) (f : Launch → Launch) : (s.setLaunch l f).icache = s.icache := rfl
@[simp] theorem State.setLaunch_bars (s : State) (l : Nat) (f : Launch → Launch) : (s.setLaunch l f).bars = s.bars := rfl
@[simp] theorem State.setLaunch_locks (s : State) (l : Nat) (f : Launch → Launch) : (s.setLaunch l f).locks = s.locks := rfl
@[simp] theorem State.setLaunch_tlb (s : State) (l : Nat) (f : Launch → Launch) : (s.setLaunch l f).tlb = s.tlb := rfl
@[simp] theorem State.setLaunch_opened (s : State) (l : Nat) (f : Launch → Launch) : (s.setLaunch l f).opened = s.opened := rfl
@[simp] theorem State.setLaunch_pending (s : State) (l : Nat) (f : Launch → Launch) : (s.setLaunch l f).pending = s.pending := rfl
@[simp] theorem State.setLaunch_port (s : State) (l : Nat) (f : Launch → Launch) : (s.setLaunch l f).port = s.port := rfl
@[simp] theorem State.setLaunch_wgs (s : State) (l : Nat) (f : Launch → Launch) : (s.setLaunch l f).wgs = s.wgs := rfl
@[simp] theorem State.setLaunch_sets (s : State) (l : Nat) (f : Launch → Launch) : (s.setLaunch l f).sets = s.sets := rfl
@[simp] theorem State.setLaunch_released (s : State) (l : Nat) (f : Launch → Launch) : (s.setLaunch l f).released = s.released := rfl
@[simp] theorem State.setLaunch_launches (s : State) (l : Nat) (f : Launch → Launch) : (s.setLaunch l f).launches = s.launches.update l f := rfl
@[simp] theorem State.setLaunch_xfer (s : State) (l : Nat) (f : Launch → Launch) : (s.setLaunch l f).xfer = s.xfer := rfl
@[simp] theorem State.setLaunch_asked (s : State) (l : Nat) (f : Launch → Launch) : (s.setLaunch l f).asked = s.asked := rfl
@[simp] theorem State.setLaunch_bsends (s : State) (l : Nat) (f : Launch → Launch) : (s.setLaunch l f).bsends = s.bsends := rfl
@[simp] theorem State.setLaunch_credits (s : State) (l : Nat) (f : Launch → Launch) : (s.setLaunch l f).credits = s.credits := rfl
@[simp] theorem State.setLaunch_colls (s : State) (l : Nat) (f : Launch → Launch) : (s.setLaunch l f).colls = s.colls := rfl
@[simp] theorem State.setLaunch_contribs (s : State) (l : Nat) (f : Launch → Launch) : (s.setLaunch l f).contribs = s.contribs := rfl
@[simp] theorem State.setLaunch_flows (s : State) (l : Nat) (f : Launch → Launch) : (s.setLaunch l f).flows = s.flows := rfl
@[simp] theorem State.setLaunch_flowAsk (s : State) (l : Nat) (f : Launch → Launch) : (s.setLaunch l f).flowAsk = s.flowAsk := rfl
@[simp] theorem State.setLaunch_flowGot (s : State) (l : Nat) (f : Launch → Launch) : (s.setLaunch l f).flowGot = s.flowGot := rfl
@[simp] theorem State.setLaunch_walks (s : State) (l : Nat) (f : Launch → Launch) : (s.setLaunch l f).walks = s.walks := rfl
@[simp] theorem State.setLaunch_faults (s : State) (l : Nat) (f : Launch → Launch) : (s.setLaunch l f).faults = s.faults := rfl
@[simp] theorem State.setLaunch_held (s : State) (l : Nat) (f : Launch → Launch) : (s.setLaunch l f).held = s.held := rfl
@[simp] theorem State.setLaunch_tinvs (s : State) (l : Nat) (f : Launch → Launch) : (s.setLaunch l f).tinvs = s.tinvs := rfl
@[simp] theorem State.setLaunch_cores (s : State) (l : Nat) (f : Launch → Launch) : (s.setLaunch l f).cores = s.cores := rfl
@[simp] theorem State.setLaunch_dies (s : State) (l : Nat) (f : Launch → Launch) : (s.setLaunch l f).dies = s.dies := rfl
@[simp] theorem State.setLaunch_owners (s : State) (l : Nat) (f : Launch → Launch) : (s.setLaunch l f).owners = s.owners := rfl
@[simp] theorem State.setLaunch_ifcs (s : State) (l : Nat) (f : Launch → Launch) : (s.setLaunch l f).ifcs = s.ifcs := rfl
@[simp] theorem State.setLaunch_prgs (s : State) (l : Nat) (f : Launch → Launch) : (s.setLaunch l f).prgs = s.prgs := rfl
@[simp] theorem State.setLaunch_ats (s : State) (l : Nat) (f : Launch → Launch) : (s.setLaunch l f).ats = s.ats := rfl
@[simp] theorem State.setLaunch_dtc (s : State) (l : Nat) (f : Launch → Launch) : (s.setLaunch l f).dtc = s.dtc := rfl
@[simp] theorem State.setLaunch_host (s : State) (l : Nat) (f : Launch → Launch) : (s.setLaunch l f).host = s.host := rfl
@[simp] theorem State.setLaunch_hostL2 (s : State) (l : Nat) (f : Launch → Launch) : (s.setLaunch l f).hostL2 = s.hostL2 := rfl
@[simp] theorem State.setLaunch_ports (s : State) (l : Nat) (f : Launch → Launch) : (s.setLaunch l f).ports = s.ports := rfl
@[simp] theorem State.setLaunch_crucible (s : State) (l : Nat) (f : Launch → Launch) : (s.setLaunch l f).crucible = s.crucible := rfl
@[simp] theorem State.setLaunch_sessions (s : State) (l : Nat) (f : Launch → Launch) : (s.setLaunch l f).sessions = s.sessions := rfl
@[simp] theorem State.setLaunch_module (s : State) (l : Nat) (f : Launch → Launch) : (s.setLaunch l f).module = s.module := rfl

/-! ### `setCore` -/

@[simp] theorem State.setCore_tick (s : State) (c : Nat) (f : Core → Core) : (s.setCore c f).tick = s.tick := rfl
@[simp] theorem State.setCore_turn (s : State) (c : Nat) (f : Core → Core) : (s.setCore c f).turn = s.turn := rfl
@[simp] theorem State.setCore_fresh (s : State) (c : Nat) (f : Core → Core) : (s.setCore c f).fresh = s.fresh := rfl
@[simp] theorem State.setCore_serial (s : State) (c : Nat) (f : Core → Core) : (s.setCore c f).serial = s.serial := rfl
@[simp] theorem State.setCore_cur (s : State) (c : Nat) (f : Core → Core) : (s.setCore c f).cur = s.cur := rfl
@[simp] theorem State.setCore_issueQ (s : State) (c : Nat) (f : Core → Core) : (s.setCore c f).issueQ = s.issueQ := rfl
@[simp] theorem State.setCore_agenda (s : State) (c : Nat) (f : Core → Core) : (s.setCore c f).agenda = s.agenda := rfl
@[simp] theorem State.setCore_absent (s : State) (c : Nat) (f : Core → Core) : (s.setCore c f).absent = s.absent := rfl
@[simp] theorem State.setCore_threads (s : State) (c : Nat) (f : Core → Core) : (s.setCore c f).threads = s.threads := rfl
@[simp] theorem State.setCore_warps (s : State) (c : Nat) (f : Core → Core) : (s.setCore c f).warps = s.warps := rfl
@[simp] theorem State.setCore_vregs (s : State) (c : Nat) (f : Core → Core) : (s.setCore c f).vregs = s.vregs := rfl
@[simp] theorem State.setCore_wregs (s : State) (c : Nat) (f : Core → Core) : (s.setCore c f).wregs = s.wregs := rfl
@[simp] theorem State.setCore_mem (s : State) (c : Nat) (f : Core → Core) : (s.setCore c f).mem = s.mem := rfl
@[simp] theorem State.setCore_bench (s : State) (c : Nat) (f : Core → Core) : (s.setCore c f).bench = s.bench := rfl
@[simp] theorem State.setCore_benchAbs (s : State) (c : Nat) (f : Core → Core) : (s.setCore c f).benchAbs = s.benchAbs := rfl
@[simp] theorem State.setCore_acc (s : State) (c : Nat) (f : Core → Core) : (s.setCore c f).acc = s.acc := rfl
@[simp] theorem State.setCore_marver (s : State) (c : Nat) (f : Core → Core) : (s.setCore c f).marver = s.marver := rfl
@[simp] theorem State.setCore_marvAbs (s : State) (c : Nat) (f : Core → Core) : (s.setCore c f).marvAbs = s.marvAbs := rfl
@[simp] theorem State.setCore_icache (s : State) (c : Nat) (f : Core → Core) : (s.setCore c f).icache = s.icache := rfl
@[simp] theorem State.setCore_bars (s : State) (c : Nat) (f : Core → Core) : (s.setCore c f).bars = s.bars := rfl
@[simp] theorem State.setCore_locks (s : State) (c : Nat) (f : Core → Core) : (s.setCore c f).locks = s.locks := rfl
@[simp] theorem State.setCore_tlb (s : State) (c : Nat) (f : Core → Core) : (s.setCore c f).tlb = s.tlb := rfl
@[simp] theorem State.setCore_opened (s : State) (c : Nat) (f : Core → Core) : (s.setCore c f).opened = s.opened := rfl
@[simp] theorem State.setCore_pending (s : State) (c : Nat) (f : Core → Core) : (s.setCore c f).pending = s.pending := rfl
@[simp] theorem State.setCore_port (s : State) (c : Nat) (f : Core → Core) : (s.setCore c f).port = s.port := rfl
@[simp] theorem State.setCore_wgs (s : State) (c : Nat) (f : Core → Core) : (s.setCore c f).wgs = s.wgs := rfl
@[simp] theorem State.setCore_sets (s : State) (c : Nat) (f : Core → Core) : (s.setCore c f).sets = s.sets := rfl
@[simp] theorem State.setCore_released (s : State) (c : Nat) (f : Core → Core) : (s.setCore c f).released = s.released := rfl
@[simp] theorem State.setCore_launches (s : State) (c : Nat) (f : Core → Core) : (s.setCore c f).launches = s.launches := rfl
@[simp] theorem State.setCore_xfer (s : State) (c : Nat) (f : Core → Core) : (s.setCore c f).xfer = s.xfer := rfl
@[simp] theorem State.setCore_asked (s : State) (c : Nat) (f : Core → Core) : (s.setCore c f).asked = s.asked := rfl
@[simp] theorem State.setCore_bsends (s : State) (c : Nat) (f : Core → Core) : (s.setCore c f).bsends = s.bsends := rfl
@[simp] theorem State.setCore_credits (s : State) (c : Nat) (f : Core → Core) : (s.setCore c f).credits = s.credits := rfl
@[simp] theorem State.setCore_colls (s : State) (c : Nat) (f : Core → Core) : (s.setCore c f).colls = s.colls := rfl
@[simp] theorem State.setCore_contribs (s : State) (c : Nat) (f : Core → Core) : (s.setCore c f).contribs = s.contribs := rfl
@[simp] theorem State.setCore_flows (s : State) (c : Nat) (f : Core → Core) : (s.setCore c f).flows = s.flows := rfl
@[simp] theorem State.setCore_flowAsk (s : State) (c : Nat) (f : Core → Core) : (s.setCore c f).flowAsk = s.flowAsk := rfl
@[simp] theorem State.setCore_flowGot (s : State) (c : Nat) (f : Core → Core) : (s.setCore c f).flowGot = s.flowGot := rfl
@[simp] theorem State.setCore_walks (s : State) (c : Nat) (f : Core → Core) : (s.setCore c f).walks = s.walks := rfl
@[simp] theorem State.setCore_faults (s : State) (c : Nat) (f : Core → Core) : (s.setCore c f).faults = s.faults := rfl
@[simp] theorem State.setCore_held (s : State) (c : Nat) (f : Core → Core) : (s.setCore c f).held = s.held := rfl
@[simp] theorem State.setCore_tinvs (s : State) (c : Nat) (f : Core → Core) : (s.setCore c f).tinvs = s.tinvs := rfl
@[simp] theorem State.setCore_cores (s : State) (c : Nat) (f : Core → Core) : (s.setCore c f).cores = s.cores.update c f := rfl
@[simp] theorem State.setCore_dies (s : State) (c : Nat) (f : Core → Core) : (s.setCore c f).dies = s.dies := rfl
@[simp] theorem State.setCore_owners (s : State) (c : Nat) (f : Core → Core) : (s.setCore c f).owners = s.owners := rfl
@[simp] theorem State.setCore_ifcs (s : State) (c : Nat) (f : Core → Core) : (s.setCore c f).ifcs = s.ifcs := rfl
@[simp] theorem State.setCore_prgs (s : State) (c : Nat) (f : Core → Core) : (s.setCore c f).prgs = s.prgs := rfl
@[simp] theorem State.setCore_ats (s : State) (c : Nat) (f : Core → Core) : (s.setCore c f).ats = s.ats := rfl
@[simp] theorem State.setCore_dtc (s : State) (c : Nat) (f : Core → Core) : (s.setCore c f).dtc = s.dtc := rfl
@[simp] theorem State.setCore_host (s : State) (c : Nat) (f : Core → Core) : (s.setCore c f).host = s.host := rfl
@[simp] theorem State.setCore_hostL2 (s : State) (c : Nat) (f : Core → Core) : (s.setCore c f).hostL2 = s.hostL2 := rfl
@[simp] theorem State.setCore_ports (s : State) (c : Nat) (f : Core → Core) : (s.setCore c f).ports = s.ports := rfl
@[simp] theorem State.setCore_crucible (s : State) (c : Nat) (f : Core → Core) : (s.setCore c f).crucible = s.crucible := rfl
@[simp] theorem State.setCore_sessions (s : State) (c : Nat) (f : Core → Core) : (s.setCore c f).sessions = s.sessions := rfl
@[simp] theorem State.setCore_module (s : State) (c : Nat) (f : Core → Core) : (s.setCore c f).module = s.module := rfl

/-! ### `setDie` -/

@[simp] theorem State.setDie_tick (s : State) (d : Nat) (f : Die → Die) : (s.setDie d f).tick = s.tick := rfl
@[simp] theorem State.setDie_turn (s : State) (d : Nat) (f : Die → Die) : (s.setDie d f).turn = s.turn := rfl
@[simp] theorem State.setDie_fresh (s : State) (d : Nat) (f : Die → Die) : (s.setDie d f).fresh = s.fresh := rfl
@[simp] theorem State.setDie_serial (s : State) (d : Nat) (f : Die → Die) : (s.setDie d f).serial = s.serial := rfl
@[simp] theorem State.setDie_cur (s : State) (d : Nat) (f : Die → Die) : (s.setDie d f).cur = s.cur := rfl
@[simp] theorem State.setDie_issueQ (s : State) (d : Nat) (f : Die → Die) : (s.setDie d f).issueQ = s.issueQ := rfl
@[simp] theorem State.setDie_agenda (s : State) (d : Nat) (f : Die → Die) : (s.setDie d f).agenda = s.agenda := rfl
@[simp] theorem State.setDie_absent (s : State) (d : Nat) (f : Die → Die) : (s.setDie d f).absent = s.absent := rfl
@[simp] theorem State.setDie_threads (s : State) (d : Nat) (f : Die → Die) : (s.setDie d f).threads = s.threads := rfl
@[simp] theorem State.setDie_warps (s : State) (d : Nat) (f : Die → Die) : (s.setDie d f).warps = s.warps := rfl
@[simp] theorem State.setDie_vregs (s : State) (d : Nat) (f : Die → Die) : (s.setDie d f).vregs = s.vregs := rfl
@[simp] theorem State.setDie_wregs (s : State) (d : Nat) (f : Die → Die) : (s.setDie d f).wregs = s.wregs := rfl
@[simp] theorem State.setDie_mem (s : State) (d : Nat) (f : Die → Die) : (s.setDie d f).mem = s.mem := rfl
@[simp] theorem State.setDie_bench (s : State) (d : Nat) (f : Die → Die) : (s.setDie d f).bench = s.bench := rfl
@[simp] theorem State.setDie_benchAbs (s : State) (d : Nat) (f : Die → Die) : (s.setDie d f).benchAbs = s.benchAbs := rfl
@[simp] theorem State.setDie_acc (s : State) (d : Nat) (f : Die → Die) : (s.setDie d f).acc = s.acc := rfl
@[simp] theorem State.setDie_marver (s : State) (d : Nat) (f : Die → Die) : (s.setDie d f).marver = s.marver := rfl
@[simp] theorem State.setDie_marvAbs (s : State) (d : Nat) (f : Die → Die) : (s.setDie d f).marvAbs = s.marvAbs := rfl
@[simp] theorem State.setDie_icache (s : State) (d : Nat) (f : Die → Die) : (s.setDie d f).icache = s.icache := rfl
@[simp] theorem State.setDie_bars (s : State) (d : Nat) (f : Die → Die) : (s.setDie d f).bars = s.bars := rfl
@[simp] theorem State.setDie_locks (s : State) (d : Nat) (f : Die → Die) : (s.setDie d f).locks = s.locks := rfl
@[simp] theorem State.setDie_tlb (s : State) (d : Nat) (f : Die → Die) : (s.setDie d f).tlb = s.tlb := rfl
@[simp] theorem State.setDie_opened (s : State) (d : Nat) (f : Die → Die) : (s.setDie d f).opened = s.opened := rfl
@[simp] theorem State.setDie_pending (s : State) (d : Nat) (f : Die → Die) : (s.setDie d f).pending = s.pending := rfl
@[simp] theorem State.setDie_port (s : State) (d : Nat) (f : Die → Die) : (s.setDie d f).port = s.port := rfl
@[simp] theorem State.setDie_wgs (s : State) (d : Nat) (f : Die → Die) : (s.setDie d f).wgs = s.wgs := rfl
@[simp] theorem State.setDie_sets (s : State) (d : Nat) (f : Die → Die) : (s.setDie d f).sets = s.sets := rfl
@[simp] theorem State.setDie_released (s : State) (d : Nat) (f : Die → Die) : (s.setDie d f).released = s.released := rfl
@[simp] theorem State.setDie_launches (s : State) (d : Nat) (f : Die → Die) : (s.setDie d f).launches = s.launches := rfl
@[simp] theorem State.setDie_xfer (s : State) (d : Nat) (f : Die → Die) : (s.setDie d f).xfer = s.xfer := rfl
@[simp] theorem State.setDie_asked (s : State) (d : Nat) (f : Die → Die) : (s.setDie d f).asked = s.asked := rfl
@[simp] theorem State.setDie_bsends (s : State) (d : Nat) (f : Die → Die) : (s.setDie d f).bsends = s.bsends := rfl
@[simp] theorem State.setDie_credits (s : State) (d : Nat) (f : Die → Die) : (s.setDie d f).credits = s.credits := rfl
@[simp] theorem State.setDie_colls (s : State) (d : Nat) (f : Die → Die) : (s.setDie d f).colls = s.colls := rfl
@[simp] theorem State.setDie_contribs (s : State) (d : Nat) (f : Die → Die) : (s.setDie d f).contribs = s.contribs := rfl
@[simp] theorem State.setDie_flows (s : State) (d : Nat) (f : Die → Die) : (s.setDie d f).flows = s.flows := rfl
@[simp] theorem State.setDie_flowAsk (s : State) (d : Nat) (f : Die → Die) : (s.setDie d f).flowAsk = s.flowAsk := rfl
@[simp] theorem State.setDie_flowGot (s : State) (d : Nat) (f : Die → Die) : (s.setDie d f).flowGot = s.flowGot := rfl
@[simp] theorem State.setDie_walks (s : State) (d : Nat) (f : Die → Die) : (s.setDie d f).walks = s.walks := rfl
@[simp] theorem State.setDie_faults (s : State) (d : Nat) (f : Die → Die) : (s.setDie d f).faults = s.faults := rfl
@[simp] theorem State.setDie_held (s : State) (d : Nat) (f : Die → Die) : (s.setDie d f).held = s.held := rfl
@[simp] theorem State.setDie_tinvs (s : State) (d : Nat) (f : Die → Die) : (s.setDie d f).tinvs = s.tinvs := rfl
@[simp] theorem State.setDie_cores (s : State) (d : Nat) (f : Die → Die) : (s.setDie d f).cores = s.cores := rfl
@[simp] theorem State.setDie_dies (s : State) (d : Nat) (f : Die → Die) : (s.setDie d f).dies = s.dies.update d f := rfl
@[simp] theorem State.setDie_owners (s : State) (d : Nat) (f : Die → Die) : (s.setDie d f).owners = s.owners := rfl
@[simp] theorem State.setDie_ifcs (s : State) (d : Nat) (f : Die → Die) : (s.setDie d f).ifcs = s.ifcs := rfl
@[simp] theorem State.setDie_prgs (s : State) (d : Nat) (f : Die → Die) : (s.setDie d f).prgs = s.prgs := rfl
@[simp] theorem State.setDie_ats (s : State) (d : Nat) (f : Die → Die) : (s.setDie d f).ats = s.ats := rfl
@[simp] theorem State.setDie_dtc (s : State) (d : Nat) (f : Die → Die) : (s.setDie d f).dtc = s.dtc := rfl
@[simp] theorem State.setDie_host (s : State) (d : Nat) (f : Die → Die) : (s.setDie d f).host = s.host := rfl
@[simp] theorem State.setDie_hostL2 (s : State) (d : Nat) (f : Die → Die) : (s.setDie d f).hostL2 = s.hostL2 := rfl
@[simp] theorem State.setDie_ports (s : State) (d : Nat) (f : Die → Die) : (s.setDie d f).ports = s.ports := rfl
@[simp] theorem State.setDie_crucible (s : State) (d : Nat) (f : Die → Die) : (s.setDie d f).crucible = s.crucible := rfl
@[simp] theorem State.setDie_sessions (s : State) (d : Nat) (f : Die → Die) : (s.setDie d f).sessions = s.sessions := rfl
@[simp] theorem State.setDie_module (s : State) (d : Nat) (f : Die → Die) : (s.setDie d f).module = s.module := rfl

/-! ### `setOwner` -/

@[simp] theorem State.setOwner_tick (s : State) (o : Nat) (f : Owner → Owner) : (s.setOwner o f).tick = s.tick := rfl
@[simp] theorem State.setOwner_turn (s : State) (o : Nat) (f : Owner → Owner) : (s.setOwner o f).turn = s.turn := rfl
@[simp] theorem State.setOwner_fresh (s : State) (o : Nat) (f : Owner → Owner) : (s.setOwner o f).fresh = s.fresh := rfl
@[simp] theorem State.setOwner_serial (s : State) (o : Nat) (f : Owner → Owner) : (s.setOwner o f).serial = s.serial := rfl
@[simp] theorem State.setOwner_cur (s : State) (o : Nat) (f : Owner → Owner) : (s.setOwner o f).cur = s.cur := rfl
@[simp] theorem State.setOwner_issueQ (s : State) (o : Nat) (f : Owner → Owner) : (s.setOwner o f).issueQ = s.issueQ := rfl
@[simp] theorem State.setOwner_agenda (s : State) (o : Nat) (f : Owner → Owner) : (s.setOwner o f).agenda = s.agenda := rfl
@[simp] theorem State.setOwner_absent (s : State) (o : Nat) (f : Owner → Owner) : (s.setOwner o f).absent = s.absent := rfl
@[simp] theorem State.setOwner_threads (s : State) (o : Nat) (f : Owner → Owner) : (s.setOwner o f).threads = s.threads := rfl
@[simp] theorem State.setOwner_warps (s : State) (o : Nat) (f : Owner → Owner) : (s.setOwner o f).warps = s.warps := rfl
@[simp] theorem State.setOwner_vregs (s : State) (o : Nat) (f : Owner → Owner) : (s.setOwner o f).vregs = s.vregs := rfl
@[simp] theorem State.setOwner_wregs (s : State) (o : Nat) (f : Owner → Owner) : (s.setOwner o f).wregs = s.wregs := rfl
@[simp] theorem State.setOwner_mem (s : State) (o : Nat) (f : Owner → Owner) : (s.setOwner o f).mem = s.mem := rfl
@[simp] theorem State.setOwner_bench (s : State) (o : Nat) (f : Owner → Owner) : (s.setOwner o f).bench = s.bench := rfl
@[simp] theorem State.setOwner_benchAbs (s : State) (o : Nat) (f : Owner → Owner) : (s.setOwner o f).benchAbs = s.benchAbs := rfl
@[simp] theorem State.setOwner_acc (s : State) (o : Nat) (f : Owner → Owner) : (s.setOwner o f).acc = s.acc := rfl
@[simp] theorem State.setOwner_marver (s : State) (o : Nat) (f : Owner → Owner) : (s.setOwner o f).marver = s.marver := rfl
@[simp] theorem State.setOwner_marvAbs (s : State) (o : Nat) (f : Owner → Owner) : (s.setOwner o f).marvAbs = s.marvAbs := rfl
@[simp] theorem State.setOwner_icache (s : State) (o : Nat) (f : Owner → Owner) : (s.setOwner o f).icache = s.icache := rfl
@[simp] theorem State.setOwner_bars (s : State) (o : Nat) (f : Owner → Owner) : (s.setOwner o f).bars = s.bars := rfl
@[simp] theorem State.setOwner_locks (s : State) (o : Nat) (f : Owner → Owner) : (s.setOwner o f).locks = s.locks := rfl
@[simp] theorem State.setOwner_tlb (s : State) (o : Nat) (f : Owner → Owner) : (s.setOwner o f).tlb = s.tlb := rfl
@[simp] theorem State.setOwner_opened (s : State) (o : Nat) (f : Owner → Owner) : (s.setOwner o f).opened = s.opened := rfl
@[simp] theorem State.setOwner_pending (s : State) (o : Nat) (f : Owner → Owner) : (s.setOwner o f).pending = s.pending := rfl
@[simp] theorem State.setOwner_port (s : State) (o : Nat) (f : Owner → Owner) : (s.setOwner o f).port = s.port := rfl
@[simp] theorem State.setOwner_wgs (s : State) (o : Nat) (f : Owner → Owner) : (s.setOwner o f).wgs = s.wgs := rfl
@[simp] theorem State.setOwner_sets (s : State) (o : Nat) (f : Owner → Owner) : (s.setOwner o f).sets = s.sets := rfl
@[simp] theorem State.setOwner_released (s : State) (o : Nat) (f : Owner → Owner) : (s.setOwner o f).released = s.released := rfl
@[simp] theorem State.setOwner_launches (s : State) (o : Nat) (f : Owner → Owner) : (s.setOwner o f).launches = s.launches := rfl
@[simp] theorem State.setOwner_xfer (s : State) (o : Nat) (f : Owner → Owner) : (s.setOwner o f).xfer = s.xfer := rfl
@[simp] theorem State.setOwner_asked (s : State) (o : Nat) (f : Owner → Owner) : (s.setOwner o f).asked = s.asked := rfl
@[simp] theorem State.setOwner_bsends (s : State) (o : Nat) (f : Owner → Owner) : (s.setOwner o f).bsends = s.bsends := rfl
@[simp] theorem State.setOwner_credits (s : State) (o : Nat) (f : Owner → Owner) : (s.setOwner o f).credits = s.credits := rfl
@[simp] theorem State.setOwner_colls (s : State) (o : Nat) (f : Owner → Owner) : (s.setOwner o f).colls = s.colls := rfl
@[simp] theorem State.setOwner_contribs (s : State) (o : Nat) (f : Owner → Owner) : (s.setOwner o f).contribs = s.contribs := rfl
@[simp] theorem State.setOwner_flows (s : State) (o : Nat) (f : Owner → Owner) : (s.setOwner o f).flows = s.flows := rfl
@[simp] theorem State.setOwner_flowAsk (s : State) (o : Nat) (f : Owner → Owner) : (s.setOwner o f).flowAsk = s.flowAsk := rfl
@[simp] theorem State.setOwner_flowGot (s : State) (o : Nat) (f : Owner → Owner) : (s.setOwner o f).flowGot = s.flowGot := rfl
@[simp] theorem State.setOwner_walks (s : State) (o : Nat) (f : Owner → Owner) : (s.setOwner o f).walks = s.walks := rfl
@[simp] theorem State.setOwner_faults (s : State) (o : Nat) (f : Owner → Owner) : (s.setOwner o f).faults = s.faults := rfl
@[simp] theorem State.setOwner_held (s : State) (o : Nat) (f : Owner → Owner) : (s.setOwner o f).held = s.held := rfl
@[simp] theorem State.setOwner_tinvs (s : State) (o : Nat) (f : Owner → Owner) : (s.setOwner o f).tinvs = s.tinvs := rfl
@[simp] theorem State.setOwner_cores (s : State) (o : Nat) (f : Owner → Owner) : (s.setOwner o f).cores = s.cores := rfl
@[simp] theorem State.setOwner_dies (s : State) (o : Nat) (f : Owner → Owner) : (s.setOwner o f).dies = s.dies := rfl
@[simp] theorem State.setOwner_owners (s : State) (o : Nat) (f : Owner → Owner) : (s.setOwner o f).owners = s.owners.update o f := rfl
@[simp] theorem State.setOwner_ifcs (s : State) (o : Nat) (f : Owner → Owner) : (s.setOwner o f).ifcs = s.ifcs := rfl
@[simp] theorem State.setOwner_prgs (s : State) (o : Nat) (f : Owner → Owner) : (s.setOwner o f).prgs = s.prgs := rfl
@[simp] theorem State.setOwner_ats (s : State) (o : Nat) (f : Owner → Owner) : (s.setOwner o f).ats = s.ats := rfl
@[simp] theorem State.setOwner_dtc (s : State) (o : Nat) (f : Owner → Owner) : (s.setOwner o f).dtc = s.dtc := rfl
@[simp] theorem State.setOwner_host (s : State) (o : Nat) (f : Owner → Owner) : (s.setOwner o f).host = s.host := rfl
@[simp] theorem State.setOwner_hostL2 (s : State) (o : Nat) (f : Owner → Owner) : (s.setOwner o f).hostL2 = s.hostL2 := rfl
@[simp] theorem State.setOwner_ports (s : State) (o : Nat) (f : Owner → Owner) : (s.setOwner o f).ports = s.ports := rfl
@[simp] theorem State.setOwner_crucible (s : State) (o : Nat) (f : Owner → Owner) : (s.setOwner o f).crucible = s.crucible := rfl
@[simp] theorem State.setOwner_sessions (s : State) (o : Nat) (f : Owner → Owner) : (s.setOwner o f).sessions = s.sessions := rfl
@[simp] theorem State.setOwner_module (s : State) (o : Nat) (f : Owner → Owner) : (s.setOwner o f).module = s.module := rfl

/-! ### `setIfc` -/

@[simp] theorem State.setIfc_tick (s : State) (i : Nat) (f : Ifc → Ifc) : (s.setIfc i f).tick = s.tick := rfl
@[simp] theorem State.setIfc_turn (s : State) (i : Nat) (f : Ifc → Ifc) : (s.setIfc i f).turn = s.turn := rfl
@[simp] theorem State.setIfc_fresh (s : State) (i : Nat) (f : Ifc → Ifc) : (s.setIfc i f).fresh = s.fresh := rfl
@[simp] theorem State.setIfc_serial (s : State) (i : Nat) (f : Ifc → Ifc) : (s.setIfc i f).serial = s.serial := rfl
@[simp] theorem State.setIfc_cur (s : State) (i : Nat) (f : Ifc → Ifc) : (s.setIfc i f).cur = s.cur := rfl
@[simp] theorem State.setIfc_issueQ (s : State) (i : Nat) (f : Ifc → Ifc) : (s.setIfc i f).issueQ = s.issueQ := rfl
@[simp] theorem State.setIfc_agenda (s : State) (i : Nat) (f : Ifc → Ifc) : (s.setIfc i f).agenda = s.agenda := rfl
@[simp] theorem State.setIfc_absent (s : State) (i : Nat) (f : Ifc → Ifc) : (s.setIfc i f).absent = s.absent := rfl
@[simp] theorem State.setIfc_threads (s : State) (i : Nat) (f : Ifc → Ifc) : (s.setIfc i f).threads = s.threads := rfl
@[simp] theorem State.setIfc_warps (s : State) (i : Nat) (f : Ifc → Ifc) : (s.setIfc i f).warps = s.warps := rfl
@[simp] theorem State.setIfc_vregs (s : State) (i : Nat) (f : Ifc → Ifc) : (s.setIfc i f).vregs = s.vregs := rfl
@[simp] theorem State.setIfc_wregs (s : State) (i : Nat) (f : Ifc → Ifc) : (s.setIfc i f).wregs = s.wregs := rfl
@[simp] theorem State.setIfc_mem (s : State) (i : Nat) (f : Ifc → Ifc) : (s.setIfc i f).mem = s.mem := rfl
@[simp] theorem State.setIfc_bench (s : State) (i : Nat) (f : Ifc → Ifc) : (s.setIfc i f).bench = s.bench := rfl
@[simp] theorem State.setIfc_benchAbs (s : State) (i : Nat) (f : Ifc → Ifc) : (s.setIfc i f).benchAbs = s.benchAbs := rfl
@[simp] theorem State.setIfc_acc (s : State) (i : Nat) (f : Ifc → Ifc) : (s.setIfc i f).acc = s.acc := rfl
@[simp] theorem State.setIfc_marver (s : State) (i : Nat) (f : Ifc → Ifc) : (s.setIfc i f).marver = s.marver := rfl
@[simp] theorem State.setIfc_marvAbs (s : State) (i : Nat) (f : Ifc → Ifc) : (s.setIfc i f).marvAbs = s.marvAbs := rfl
@[simp] theorem State.setIfc_icache (s : State) (i : Nat) (f : Ifc → Ifc) : (s.setIfc i f).icache = s.icache := rfl
@[simp] theorem State.setIfc_bars (s : State) (i : Nat) (f : Ifc → Ifc) : (s.setIfc i f).bars = s.bars := rfl
@[simp] theorem State.setIfc_locks (s : State) (i : Nat) (f : Ifc → Ifc) : (s.setIfc i f).locks = s.locks := rfl
@[simp] theorem State.setIfc_tlb (s : State) (i : Nat) (f : Ifc → Ifc) : (s.setIfc i f).tlb = s.tlb := rfl
@[simp] theorem State.setIfc_opened (s : State) (i : Nat) (f : Ifc → Ifc) : (s.setIfc i f).opened = s.opened := rfl
@[simp] theorem State.setIfc_pending (s : State) (i : Nat) (f : Ifc → Ifc) : (s.setIfc i f).pending = s.pending := rfl
@[simp] theorem State.setIfc_port (s : State) (i : Nat) (f : Ifc → Ifc) : (s.setIfc i f).port = s.port := rfl
@[simp] theorem State.setIfc_wgs (s : State) (i : Nat) (f : Ifc → Ifc) : (s.setIfc i f).wgs = s.wgs := rfl
@[simp] theorem State.setIfc_sets (s : State) (i : Nat) (f : Ifc → Ifc) : (s.setIfc i f).sets = s.sets := rfl
@[simp] theorem State.setIfc_released (s : State) (i : Nat) (f : Ifc → Ifc) : (s.setIfc i f).released = s.released := rfl
@[simp] theorem State.setIfc_launches (s : State) (i : Nat) (f : Ifc → Ifc) : (s.setIfc i f).launches = s.launches := rfl
@[simp] theorem State.setIfc_xfer (s : State) (i : Nat) (f : Ifc → Ifc) : (s.setIfc i f).xfer = s.xfer := rfl
@[simp] theorem State.setIfc_asked (s : State) (i : Nat) (f : Ifc → Ifc) : (s.setIfc i f).asked = s.asked := rfl
@[simp] theorem State.setIfc_bsends (s : State) (i : Nat) (f : Ifc → Ifc) : (s.setIfc i f).bsends = s.bsends := rfl
@[simp] theorem State.setIfc_credits (s : State) (i : Nat) (f : Ifc → Ifc) : (s.setIfc i f).credits = s.credits := rfl
@[simp] theorem State.setIfc_colls (s : State) (i : Nat) (f : Ifc → Ifc) : (s.setIfc i f).colls = s.colls := rfl
@[simp] theorem State.setIfc_contribs (s : State) (i : Nat) (f : Ifc → Ifc) : (s.setIfc i f).contribs = s.contribs := rfl
@[simp] theorem State.setIfc_flows (s : State) (i : Nat) (f : Ifc → Ifc) : (s.setIfc i f).flows = s.flows := rfl
@[simp] theorem State.setIfc_flowAsk (s : State) (i : Nat) (f : Ifc → Ifc) : (s.setIfc i f).flowAsk = s.flowAsk := rfl
@[simp] theorem State.setIfc_flowGot (s : State) (i : Nat) (f : Ifc → Ifc) : (s.setIfc i f).flowGot = s.flowGot := rfl
@[simp] theorem State.setIfc_walks (s : State) (i : Nat) (f : Ifc → Ifc) : (s.setIfc i f).walks = s.walks := rfl
@[simp] theorem State.setIfc_faults (s : State) (i : Nat) (f : Ifc → Ifc) : (s.setIfc i f).faults = s.faults := rfl
@[simp] theorem State.setIfc_held (s : State) (i : Nat) (f : Ifc → Ifc) : (s.setIfc i f).held = s.held := rfl
@[simp] theorem State.setIfc_tinvs (s : State) (i : Nat) (f : Ifc → Ifc) : (s.setIfc i f).tinvs = s.tinvs := rfl
@[simp] theorem State.setIfc_cores (s : State) (i : Nat) (f : Ifc → Ifc) : (s.setIfc i f).cores = s.cores := rfl
@[simp] theorem State.setIfc_dies (s : State) (i : Nat) (f : Ifc → Ifc) : (s.setIfc i f).dies = s.dies := rfl
@[simp] theorem State.setIfc_owners (s : State) (i : Nat) (f : Ifc → Ifc) : (s.setIfc i f).owners = s.owners := rfl
@[simp] theorem State.setIfc_ifcs (s : State) (i : Nat) (f : Ifc → Ifc) : (s.setIfc i f).ifcs = s.ifcs.update i f := rfl
@[simp] theorem State.setIfc_prgs (s : State) (i : Nat) (f : Ifc → Ifc) : (s.setIfc i f).prgs = s.prgs := rfl
@[simp] theorem State.setIfc_ats (s : State) (i : Nat) (f : Ifc → Ifc) : (s.setIfc i f).ats = s.ats := rfl
@[simp] theorem State.setIfc_dtc (s : State) (i : Nat) (f : Ifc → Ifc) : (s.setIfc i f).dtc = s.dtc := rfl
@[simp] theorem State.setIfc_host (s : State) (i : Nat) (f : Ifc → Ifc) : (s.setIfc i f).host = s.host := rfl
@[simp] theorem State.setIfc_hostL2 (s : State) (i : Nat) (f : Ifc → Ifc) : (s.setIfc i f).hostL2 = s.hostL2 := rfl
@[simp] theorem State.setIfc_ports (s : State) (i : Nat) (f : Ifc → Ifc) : (s.setIfc i f).ports = s.ports := rfl
@[simp] theorem State.setIfc_crucible (s : State) (i : Nat) (f : Ifc → Ifc) : (s.setIfc i f).crucible = s.crucible := rfl
@[simp] theorem State.setIfc_sessions (s : State) (i : Nat) (f : Ifc → Ifc) : (s.setIfc i f).sessions = s.sessions := rfl
@[simp] theorem State.setIfc_module (s : State) (i : Nat) (f : Ifc → Ifc) : (s.setIfc i f).module = s.module := rfl

/-! ### `post` -/

@[simp] theorem State.post_tick (s : State) (i : Instr) : (s.post i).tick = s.tick := rfl
@[simp] theorem State.post_turn (s : State) (i : Instr) : (s.post i).turn = s.turn := rfl
@[simp] theorem State.post_fresh (s : State) (i : Instr) : (s.post i).fresh = s.fresh := rfl
@[simp] theorem State.post_serial (s : State) (i : Instr) : (s.post i).serial = s.serial := rfl
@[simp] theorem State.post_cur (s : State) (i : Instr) : (s.post i).cur = s.cur := rfl
@[simp] theorem State.post_issueQ (s : State) (i : Instr) : (s.post i).issueQ = s.issueQ := rfl
@[simp] theorem State.post_agenda (s : State) (i : Instr) : (s.post i).agenda = s.agenda ++ [i] := rfl
@[simp] theorem State.post_absent (s : State) (i : Instr) : (s.post i).absent = s.absent := rfl
@[simp] theorem State.post_threads (s : State) (i : Instr) : (s.post i).threads = s.threads := rfl
@[simp] theorem State.post_warps (s : State) (i : Instr) : (s.post i).warps = s.warps := rfl
@[simp] theorem State.post_vregs (s : State) (i : Instr) : (s.post i).vregs = s.vregs := rfl
@[simp] theorem State.post_wregs (s : State) (i : Instr) : (s.post i).wregs = s.wregs := rfl
@[simp] theorem State.post_mem (s : State) (i : Instr) : (s.post i).mem = s.mem := rfl
@[simp] theorem State.post_bench (s : State) (i : Instr) : (s.post i).bench = s.bench := rfl
@[simp] theorem State.post_benchAbs (s : State) (i : Instr) : (s.post i).benchAbs = s.benchAbs := rfl
@[simp] theorem State.post_acc (s : State) (i : Instr) : (s.post i).acc = s.acc := rfl
@[simp] theorem State.post_marver (s : State) (i : Instr) : (s.post i).marver = s.marver := rfl
@[simp] theorem State.post_marvAbs (s : State) (i : Instr) : (s.post i).marvAbs = s.marvAbs := rfl
@[simp] theorem State.post_icache (s : State) (i : Instr) : (s.post i).icache = s.icache := rfl
@[simp] theorem State.post_bars (s : State) (i : Instr) : (s.post i).bars = s.bars := rfl
@[simp] theorem State.post_locks (s : State) (i : Instr) : (s.post i).locks = s.locks := rfl
@[simp] theorem State.post_tlb (s : State) (i : Instr) : (s.post i).tlb = s.tlb := rfl
@[simp] theorem State.post_opened (s : State) (i : Instr) : (s.post i).opened = s.opened := rfl
@[simp] theorem State.post_pending (s : State) (i : Instr) : (s.post i).pending = s.pending := rfl
@[simp] theorem State.post_port (s : State) (i : Instr) : (s.post i).port = s.port := rfl
@[simp] theorem State.post_wgs (s : State) (i : Instr) : (s.post i).wgs = s.wgs := rfl
@[simp] theorem State.post_sets (s : State) (i : Instr) : (s.post i).sets = s.sets := rfl
@[simp] theorem State.post_released (s : State) (i : Instr) : (s.post i).released = s.released := rfl
@[simp] theorem State.post_launches (s : State) (i : Instr) : (s.post i).launches = s.launches := rfl
@[simp] theorem State.post_xfer (s : State) (i : Instr) : (s.post i).xfer = s.xfer := rfl
@[simp] theorem State.post_asked (s : State) (i : Instr) : (s.post i).asked = s.asked := rfl
@[simp] theorem State.post_bsends (s : State) (i : Instr) : (s.post i).bsends = s.bsends := rfl
@[simp] theorem State.post_credits (s : State) (i : Instr) : (s.post i).credits = s.credits := rfl
@[simp] theorem State.post_colls (s : State) (i : Instr) : (s.post i).colls = s.colls := rfl
@[simp] theorem State.post_contribs (s : State) (i : Instr) : (s.post i).contribs = s.contribs := rfl
@[simp] theorem State.post_flows (s : State) (i : Instr) : (s.post i).flows = s.flows := rfl
@[simp] theorem State.post_flowAsk (s : State) (i : Instr) : (s.post i).flowAsk = s.flowAsk := rfl
@[simp] theorem State.post_flowGot (s : State) (i : Instr) : (s.post i).flowGot = s.flowGot := rfl
@[simp] theorem State.post_walks (s : State) (i : Instr) : (s.post i).walks = s.walks := rfl
@[simp] theorem State.post_faults (s : State) (i : Instr) : (s.post i).faults = s.faults := rfl
@[simp] theorem State.post_held (s : State) (i : Instr) : (s.post i).held = s.held := rfl
@[simp] theorem State.post_tinvs (s : State) (i : Instr) : (s.post i).tinvs = s.tinvs := rfl
@[simp] theorem State.post_cores (s : State) (i : Instr) : (s.post i).cores = s.cores := rfl
@[simp] theorem State.post_dies (s : State) (i : Instr) : (s.post i).dies = s.dies := rfl
@[simp] theorem State.post_owners (s : State) (i : Instr) : (s.post i).owners = s.owners := rfl
@[simp] theorem State.post_ifcs (s : State) (i : Instr) : (s.post i).ifcs = s.ifcs := rfl
@[simp] theorem State.post_prgs (s : State) (i : Instr) : (s.post i).prgs = s.prgs := rfl
@[simp] theorem State.post_ats (s : State) (i : Instr) : (s.post i).ats = s.ats := rfl
@[simp] theorem State.post_dtc (s : State) (i : Instr) : (s.post i).dtc = s.dtc := rfl
@[simp] theorem State.post_host (s : State) (i : Instr) : (s.post i).host = s.host := rfl
@[simp] theorem State.post_hostL2 (s : State) (i : Instr) : (s.post i).hostL2 = s.hostL2 := rfl
@[simp] theorem State.post_ports (s : State) (i : Instr) : (s.post i).ports = s.ports := rfl
@[simp] theorem State.post_crucible (s : State) (i : Instr) : (s.post i).crucible = s.crucible := rfl
@[simp] theorem State.post_sessions (s : State) (i : Instr) : (s.post i).sessions = s.sessions := rfl
@[simp] theorem State.post_module (s : State) (i : Instr) : (s.post i).module = s.module := rfl

/-! ### `nextSerial` -/

@[simp] theorem State.nextSerial_tick (s : State) : s.nextSerial.tick = s.tick := rfl
@[simp] theorem State.nextSerial_turn (s : State) : s.nextSerial.turn = s.turn := rfl
@[simp] theorem State.nextSerial_fresh (s : State) : s.nextSerial.fresh = s.fresh := rfl
@[simp] theorem State.nextSerial_serial (s : State) : s.nextSerial.serial = s.serial + 1 := rfl
@[simp] theorem State.nextSerial_cur (s : State) : s.nextSerial.cur = s.cur := rfl
@[simp] theorem State.nextSerial_issueQ (s : State) : s.nextSerial.issueQ = s.issueQ := rfl
@[simp] theorem State.nextSerial_agenda (s : State) : s.nextSerial.agenda = s.agenda := rfl
@[simp] theorem State.nextSerial_absent (s : State) : s.nextSerial.absent = s.absent := rfl
@[simp] theorem State.nextSerial_threads (s : State) : s.nextSerial.threads = s.threads := rfl
@[simp] theorem State.nextSerial_warps (s : State) : s.nextSerial.warps = s.warps := rfl
@[simp] theorem State.nextSerial_vregs (s : State) : s.nextSerial.vregs = s.vregs := rfl
@[simp] theorem State.nextSerial_wregs (s : State) : s.nextSerial.wregs = s.wregs := rfl
@[simp] theorem State.nextSerial_mem (s : State) : s.nextSerial.mem = s.mem := rfl
@[simp] theorem State.nextSerial_bench (s : State) : s.nextSerial.bench = s.bench := rfl
@[simp] theorem State.nextSerial_benchAbs (s : State) : s.nextSerial.benchAbs = s.benchAbs := rfl
@[simp] theorem State.nextSerial_acc (s : State) : s.nextSerial.acc = s.acc := rfl
@[simp] theorem State.nextSerial_marver (s : State) : s.nextSerial.marver = s.marver := rfl
@[simp] theorem State.nextSerial_marvAbs (s : State) : s.nextSerial.marvAbs = s.marvAbs := rfl
@[simp] theorem State.nextSerial_icache (s : State) : s.nextSerial.icache = s.icache := rfl
@[simp] theorem State.nextSerial_bars (s : State) : s.nextSerial.bars = s.bars := rfl
@[simp] theorem State.nextSerial_locks (s : State) : s.nextSerial.locks = s.locks := rfl
@[simp] theorem State.nextSerial_tlb (s : State) : s.nextSerial.tlb = s.tlb := rfl
@[simp] theorem State.nextSerial_opened (s : State) : s.nextSerial.opened = s.opened := rfl
@[simp] theorem State.nextSerial_pending (s : State) : s.nextSerial.pending = s.pending := rfl
@[simp] theorem State.nextSerial_port (s : State) : s.nextSerial.port = s.port := rfl
@[simp] theorem State.nextSerial_wgs (s : State) : s.nextSerial.wgs = s.wgs := rfl
@[simp] theorem State.nextSerial_sets (s : State) : s.nextSerial.sets = s.sets := rfl
@[simp] theorem State.nextSerial_released (s : State) : s.nextSerial.released = s.released := rfl
@[simp] theorem State.nextSerial_launches (s : State) : s.nextSerial.launches = s.launches := rfl
@[simp] theorem State.nextSerial_xfer (s : State) : s.nextSerial.xfer = s.xfer := rfl
@[simp] theorem State.nextSerial_asked (s : State) : s.nextSerial.asked = s.asked := rfl
@[simp] theorem State.nextSerial_bsends (s : State) : s.nextSerial.bsends = s.bsends := rfl
@[simp] theorem State.nextSerial_credits (s : State) : s.nextSerial.credits = s.credits := rfl
@[simp] theorem State.nextSerial_colls (s : State) : s.nextSerial.colls = s.colls := rfl
@[simp] theorem State.nextSerial_contribs (s : State) : s.nextSerial.contribs = s.contribs := rfl
@[simp] theorem State.nextSerial_flows (s : State) : s.nextSerial.flows = s.flows := rfl
@[simp] theorem State.nextSerial_flowAsk (s : State) : s.nextSerial.flowAsk = s.flowAsk := rfl
@[simp] theorem State.nextSerial_flowGot (s : State) : s.nextSerial.flowGot = s.flowGot := rfl
@[simp] theorem State.nextSerial_walks (s : State) : s.nextSerial.walks = s.walks := rfl
@[simp] theorem State.nextSerial_faults (s : State) : s.nextSerial.faults = s.faults := rfl
@[simp] theorem State.nextSerial_held (s : State) : s.nextSerial.held = s.held := rfl
@[simp] theorem State.nextSerial_tinvs (s : State) : s.nextSerial.tinvs = s.tinvs := rfl
@[simp] theorem State.nextSerial_cores (s : State) : s.nextSerial.cores = s.cores := rfl
@[simp] theorem State.nextSerial_dies (s : State) : s.nextSerial.dies = s.dies := rfl
@[simp] theorem State.nextSerial_owners (s : State) : s.nextSerial.owners = s.owners := rfl
@[simp] theorem State.nextSerial_ifcs (s : State) : s.nextSerial.ifcs = s.ifcs := rfl
@[simp] theorem State.nextSerial_prgs (s : State) : s.nextSerial.prgs = s.prgs := rfl
@[simp] theorem State.nextSerial_ats (s : State) : s.nextSerial.ats = s.ats := rfl
@[simp] theorem State.nextSerial_dtc (s : State) : s.nextSerial.dtc = s.dtc := rfl
@[simp] theorem State.nextSerial_host (s : State) : s.nextSerial.host = s.host := rfl
@[simp] theorem State.nextSerial_hostL2 (s : State) : s.nextSerial.hostL2 = s.hostL2 := rfl
@[simp] theorem State.nextSerial_ports (s : State) : s.nextSerial.ports = s.ports := rfl
@[simp] theorem State.nextSerial_crucible (s : State) : s.nextSerial.crucible = s.crucible := rfl
@[simp] theorem State.nextSerial_sessions (s : State) : s.nextSerial.sessions = s.sessions := rfl
@[simp] theorem State.nextSerial_module (s : State) : s.nextSerial.module = s.module := rfl

end Sys2Proof.Machine
end

