-- ==== Sys2Proof/Laws/Ops.lean ====
section
/-! SUPPORT. What the shared operations of Machine/Ops.lean do: reading after a write, changes to listed threads, moving past
an instruction, and an instruction's issue where it issues. -/

namespace Sys2Proof.Machine

/-! ### Keys -/

theorem tid_inj {w l w' l' : Nat} (h : l < 32) (h' : l' < 32) : tid w l = tid w' l' ↔ w = w' ∧ l = l' := by
  simp only [tid]; omega

theorem vkey_inj {w l n w' l' n' : Nat} (h : l < 32) (h' : l' < 32) (g : n < 512) (g' : n' < 512) :
    vkey w l n = vkey w' l' n' ↔ w = w' ∧ l = l' ∧ n = n' := by
  simp only [vkey]; omega

theorem wkey_inj {w n w' n' : Nat} (h : n < 64) (h' : n' < 64) : wkey w n = wkey w' n' ↔ w = w' ∧ n = n' := by
  simp only [wkey]; omega

/-! ### A read after a named update -/

theorem State.thread_setThread (s : State) (w l w' l' : Nat) (f : Thread → Thread) (h : l < 32) (h' : l' < 32) :
    (s.setThread w l f).thread w' l' = if w' = w ∧ l' = l then f (s.thread w l) else s.thread w' l' := by
  simp only [State.thread, State.setThread_threads, SMap.get_update, tid_inj h' h]

@[simp] theorem State.warp_setWarp (s : State) (w w' : Nat) (f : Warp → Warp) :
    (s.setWarp w f).warp w' = if w' = w then f (s.warp w) else s.warp w' := by
  simp only [State.warp, State.setWarp_warps, SMap.get_update]

theorem State.v_setV (s : State) (w l n w' l' n' : Nat) (x : Word) (h : l < 32) (h' : l' < 32) (g : n < 512) (g' : n' < 512) :
    (s.setV w l n x).v w' l' n' = if w' = w ∧ l' = l ∧ n' = n then x else s.v w' l' n' := by
  simp only [State.v, State.setV_vregs, SMap.get_set, vkey_inj h' h g' g]

theorem State.w_setW (s : State) (w n w' n' : Nat) (x : Word) (h : n < 64) (h' : n' < 64) :
    (s.setW w n x).w w' n' = if w' = w ∧ n' = n then x else s.w w' n' := by
  simp only [State.w, State.setW_wregs, SMap.get_set, wkey_inj h' h]

@[simp] theorem State.warp_setThread (s : State) (w l v : Nat) (f : Thread → Thread) :
    (s.setThread w l f).warp v = s.warp v := rfl
@[simp] theorem State.v_setThread (s : State) (w l v k n : Nat) (f : Thread → Thread) :
    (s.setThread w l f).v v k n = s.v v k n := rfl
@[simp] theorem State.w_setThread (s : State) (w l v n : Nat) (f : Thread → Thread) :
    (s.setThread w l f).w v n = s.w v n := rfl
@[simp] theorem State.thread_setWarp (s : State) (w v l : Nat) (f : Warp → Warp) :
    (s.setWarp w f).thread v l = s.thread v l := rfl
@[simp] theorem State.v_setWarp (s : State) (w v l n : Nat) (f : Warp → Warp) : (s.setWarp w f).v v l n = s.v v l n := rfl
@[simp] theorem State.w_setWarp (s : State) (w v n : Nat) (f : Warp → Warp) : (s.setWarp w f).w v n = s.w v n := rfl
@[simp] theorem State.thread_setV (s : State) (w l n v k : Nat) (x : Word) : (s.setV w l n x).thread v k = s.thread v k := rfl
@[simp] theorem State.warp_setV (s : State) (w l n v : Nat) (x : Word) : (s.setV w l n x).warp v = s.warp v := rfl
@[simp] theorem State.w_setV (s : State) (w l n v k : Nat) (x : Word) : (s.setV w l n x).w v k = s.w v k := rfl
@[simp] theorem State.thread_setW (s : State) (w n v k : Nat) (x : Word) : (s.setW w n x).thread v k = s.thread v k := rfl
@[simp] theorem State.warp_setW (s : State) (w n v : Nat) (x : Word) : (s.setW w n x).warp v = s.warp v := rfl
@[simp] theorem State.v_setW (s : State) (w n v k m : Nat) (x : Word) : (s.setW w n x).v v k m = s.v v k m := rfl

/-! ### Predicates -/

theorem Thread.p_setP (t : Thread) (p q : Nat) (b : Bool) (hq : q < 8) :
    (t.setP p b).p q = if q = p ∧ p < 7 then b else t.p q := by
  simp only [Thread.setP, Thread.p]
  by_cases hp : p = 7
  · simp [hp]
  · by_cases hq7 : q = 7
    · have h1 : ¬ (q = p ∧ p < 7) := by omega
      simp only [hq7, if_true]
      rw [if_neg (by omega)]
    · have h7 : q < 7 := by omega
      simp only [hp, hq7, if_false]
      by_cases h1 : q = p
      · cases b <;> simp [h1, show p < 7 by omega]
      · have h2 : ¬ (p = q) := fun h => h1 h.symm
        cases b <;> simp [h1] <;> omega

/-! ### Changes to the threads of listed lanes -/

/-- `onLanes` changes threads only. -/
theorem State.onLanes_eq (s : State) (w : Nat) (ls : List Nat) (f : Nat → Thread → Thread) :
    s.onLanes w ls f = { s with threads := (s.onLanes w ls f).threads } := by
  induction ls generalizing s with
  | nil => rfl
  | cons l r ih =>
    show (s.setThread w l (f l)).onLanes w r f = _
    rw [ih]
    rfl

/-- Each listed thread is changed once, and no other. -/
theorem State.thread_onLanes (s : State) (w : Nat) (ls : List Nat) (f : Nat → Thread → Thread) (hn : ls.Nodup)
    (hl : ∀ l ∈ ls, l < 32) (w' l' : Nat) (h' : l' < 32) :
    (s.onLanes w ls f).thread w' l' = if w' = w ∧ l' ∈ ls then f l' (s.thread w l') else s.thread w' l' := by
  induction ls generalizing s with
  | nil => simp [State.onLanes]
  | cons l r ih =>
    have hn' := List.nodup_cons.1 hn
    have hl0 : l < 32 := hl l (by simp)
    show ((s.setThread w l (f l)).onLanes w r f).thread w' l' = _
    rw [ih _ hn'.2 (fun k hk => hl k (by simp [hk]))]
    have key := fun a => State.thread_setThread s w l a l' (f l) hl0 h'
    simp only [key]
    by_cases hw : w' = w
    · by_cases hll : l' = l
      · subst hll; simp [hw, hn'.1]
      · simp [hw, hll]
    · simp [hw]

@[simp] theorem State.warp_onLanes (s : State) (w : Nat) (ls : List Nat) (f : Nat → Thread → Thread) (v : Nat) :
    (s.onLanes w ls f).warp v = s.warp v := by
  rw [State.onLanes_eq]; rfl

@[simp] theorem State.v_onLanes (s : State) (w : Nat) (ls : List Nat) (f : Nat → Thread → Thread) (v l n : Nat) :
    (s.onLanes w ls f).v v l n = s.v v l n := by
  rw [State.onLanes_eq]; rfl

@[simp] theorem State.w_onLanes (s : State) (w : Nat) (ls : List Nat) (f : Nat → Thread → Thread) (v n : Nat) :
    (s.onLanes w ls f).w v n = s.w v n := by
  rw [State.onLanes_eq]; rfl

@[simp] theorem State.cur_onLanes (s : State) (w : Nat) (ls : List Nat) (f : Nat → Thread → Thread) :
    (s.onLanes w ls f).cur = s.cur := by
  rw [State.onLanes_eq]

@[simp] theorem State.onLanes_nil (s : State) (w : Nat) (f : Nat → Thread → Thread) : s.onLanes w [] f = s := rfl

/-- `advance` moves the listed threads past the instruction (R63) and changes nothing else. -/
theorem State.advance_eq (s : State) (w : Nat) (ls : List Nat) (pc : Word) (len : Nat) :
    s.advance w ls pc len = { s with threads := (s.advance w ls pc len).threads } := State.onLanes_eq _ _ _ _

theorem State.thread_advance (s : State) (w : Nat) (ls : List Nat) (pc : Word) (len : Nat) (hn : ls.Nodup)
    (hl : ∀ l ∈ ls, l < 32) (w' l' : Nat) (h' : l' < 32) :
    (s.advance w ls pc len).thread w' l' =
      if w' = w ∧ l' ∈ ls then (s.thread w l').past pc len s.tick else s.thread w' l' :=
  State.thread_onLanes s w ls _ hn hl w' l' h'

/-! ### Which threads issue -/

theorem mem_issuing {s : State} {l : Nat} : l ∈ issuing s ↔ l ∈ s.cur.lanes ∧ (s.thread s.cur.warp l).live = true ∧
    (s.thread s.cur.warp l).pc = s.cur.pc ∧ (s.thread s.cur.warp l).wait = .ready := by
  simp [issuing, and_assoc]

theorem Issues.nodup_issuing {h : Hdr} {s : State} (hi : Issues h s) : (issuing s).Nodup := hi.nodup.filter _
theorem Issues.lt_issuing {h : Hdr} {s : State} (hi : Issues h s) : ∀ l ∈ issuing s, l < 32 :=
  fun l hl => hi.lanes l (mem_issuing.1 hl).1

theorem mem_guarded {h : Hdr} {s : State} {l : Nat} :
    l ∈ guarded h s ↔ l ∈ issuing s ∧ guardOf s s.cur.warp h.neg h.pred l = true := by
  simp [guarded]

theorem Issues.nodup_guarded {h : Hdr} {s : State} (hi : Issues h s) : (guarded h s).Nodup := hi.nodup_issuing.filter _
theorem Issues.lt_guarded {h : Hdr} {s : State} (hi : Issues h s) : ∀ l ∈ guarded h s, l < 32 :=
  fun l hl => hi.lt_issuing l (mem_guarded.1 hl).1

/-- What issuing does once the effect of the body is known. -/
def afterBody (s : State) (h : Hdr) (lanes : List Nat) (r : Res) : State :=
  match r with
  | .next s' => s'.advance s.cur.warp lanes s.cur.pc h.len
  | .split s' stay => s'.advance s.cur.warp (lanes.filter (fun l => !stay.contains l)) s.cur.pc h.len
  | .hold s' => s'
  | .trap rs => s.raise s.cur.warp rs

/-- An instruction that is not warp-collective, where it issues, runs its body for the guard-true threads; with none it only
moves past (R67). -/
theorem issue_of_issues {h : Hdr} {s : State} (hi : Issues h s) (hc : h.coll = false) (body : State → List Nat → Res) :
    issue h body s =
      if guarded h s = [] then s.advance s.cur.warp (issuing s) s.cur.pc h.len
      else afterBody s h (issuing s) (body s (guarded h s)) := by
  have hready : (issuing s).filter (fun l => (s.thread s.cur.warp l).slots &&& slotMask s h s.cur.warp l == 0) = issuing s := by
    rw [List.filter_eq_self]; intro l hl; simp [hi.slots l hl]
  have hlate : (issuing s).filter (fun l => (s.thread s.cur.warp l).slots &&& slotMask s h s.cur.warp l != 0) = [] := by
    rw [List.filter_eq_nil_iff]; intro l hl; simp [hi.slots l hl]
  have hp : (h.priv && !isSup s.cur.warp) = false := by
    cases hpr : h.priv
    · rfl
    · simp [hi.priv hpr]
  have hq : ¬ (32 * (s.warp s.cur.warp).units.length < h.vTop) := by have := hi.quota; omega
  have h1 : issue h body s = runBody s h (issuing s) body := by
    unfold issue
    simp only [hready, hlate, hi.some, hi.free, hp, hq, hc, State.onLanes_nil, ne_eq, not_true_eq_false, and_false, or_self,
      Bool.false_eq_true, if_false]
  rw [h1]
  unfold runBody
  by_cases hg : guarded h s = []
  · have hg' : (issuing s).filter (guardOf s s.cur.warp h.neg h.pred) = [] := hg
    simp [hg, hg']
  · have hg' : ¬ (issuing s).filter (guardOf s s.cur.warp h.neg h.pred) = [] := hg
    simp only [hg, hg', hi.bhold hg, Bool.false_eq_true, if_false]
    cases hb : body s (guarded h s) <;>
      (have hb' : body s ((issuing s).filter (guardOf s s.cur.warp h.neg h.pred)) = _ := hb
       rw [hb']; rfl)

/-! ### Warp-collective instructions (R38) -/

theorem mem_liveLanes {s : State} {w l : Nat} : l ∈ s.liveLanes w ↔ l < 32 ∧ (s.thread w l).live = true := by
  simp [State.liveLanes, lanes32]

theorem State.nodup_liveLanes (s : State) (w : Nat) : (s.liveLanes w).Nodup := List.nodup_range.filter _

/-- Two states read alike thread by thread, and differ in nothing else. -/
def SameThreads (s t : State) : Prop := t = { s with threads := t.threads } ∧ ∀ k, t.threads.get k = s.threads.get k

theorem SameThreads.thread {s t : State} (h : SameThreads s t) (w l : Nat) : t.thread w l = s.thread w l := h.2 _

/-- The threads that meet at a rendezvous are put back as they stood. -/
theorem sameThreads_rendezvous {h : Hdr} {s : State} (hi : Issues h s) (hall : ∀ l ∈ s.liveLanes s.cur.warp, l ∈ issuing s) :
    SameThreads s ((s.enterAll s.cur.warp (issuing s) .rendezvous).enterAll s.cur.warp (s.liveLanes s.cur.warp) .ready) := by
  refine ⟨?_, ?_⟩
  · simp only [State.enterAll]
    rw [State.onLanes_eq, State.onLanes_eq s]
  · intro k
    have hk : k = tid (k / 32) (k % 32) := by simp only [tid]; omega
    have h32 : k % 32 < 32 := Nat.mod_lt _ (by decide)
    rw [hk]
    show State.thread _ _ _ = State.thread _ _ _
    rw [State.enterAll, State.thread_onLanes _ _ _ _ (s.nodup_liveLanes _) (fun l hl => (mem_liveLanes.1 hl).1) _ _ h32]
    simp only [State.enterAll]
    simp only [State.thread_onLanes s _ _ _ hi.nodup_issuing hi.lt_issuing _ _ h32]
    by_cases hw : k / 32 = s.cur.warp
    · by_cases hm : k % 32 ∈ s.liveLanes s.cur.warp
      · have hiss := hall _ hm
        have hr := (mem_issuing.1 hiss).2.2.2
        simp only [hw, hm, hiss, and_self, if_true]
        rw [← hr]
      · have hni : k % 32 ∉ issuing s := fun hc => hm (mem_liveLanes.2 ⟨h32, (mem_issuing.1 hc).2.1⟩)
        simp [hw, hm, hni]
    · simp [hw]

/-- A warp-collective instruction, where it issues, runs its body for the guard-true live threads in lane order. -/
theorem issue_coll_of_issues {h : Hdr} {s : State} (hi : Issues h s) (hc : h.coll = true) (body : State → List Nat → Res) :
    ∃ s', SameThreads s s' ∧ issue h body s =
      (let gl := (s.liveLanes s.cur.warp).filter (guardOf s s.cur.warp h.neg h.pred)
       if gl = [] then s'.advance s.cur.warp (s.liveLanes s.cur.warp) s.cur.pc h.len
       else afterBody s' h (s.liveLanes s.cur.warp) (body s' gl)) := by
  have hall := hi.all hc
  have hst := sameThreads_rendezvous hi hall
  have hready : (issuing s).filter (fun l => (s.thread s.cur.warp l).slots &&& slotMask s h s.cur.warp l == 0) = issuing s := by
    rw [List.filter_eq_self]; intro l hl; simp [hi.slots l hl]
  have hlate : (issuing s).filter (fun l => (s.thread s.cur.warp l).slots &&& slotMask s h s.cur.warp l != 0) = [] := by
    rw [List.filter_eq_nil_iff]; intro l hl; simp [hi.slots l hl]
  have hp : (h.priv && !isSup s.cur.warp) = false := by
    cases hpr : h.priv
    · rfl
    · simp [hi.priv hpr]
  have hq : ¬ (32 * (s.warp s.cur.warp).units.length < h.vTop) := by have := hi.quota; omega
  have hth : ∀ l, l < 32 → (s.enterAll s.cur.warp (issuing s) .rendezvous).thread s.cur.warp l =
      if l ∈ issuing s then { s.thread s.cur.warp l with wait := .rendezvous } else s.thread s.cur.warp l := by
    intro l hl
    rw [State.enterAll, State.thread_onLanes _ _ _ _ hi.nodup_issuing hi.lt_issuing _ _ hl]
    simp
  have hlive : (s.enterAll s.cur.warp (issuing s) .rendezvous).liveLanes s.cur.warp = s.liveLanes s.cur.warp := by
    simp only [State.liveLanes]
    refine List.filter_congr (fun l hl => ?_)
    have hl' : l < 32 := by simpa [lanes32] using hl
    rw [hth l hl']
    split <;> rfl
  have h1 : issue h body s = rendezvous s h (issuing s) body := by
    unfold issue
    simp only [hready, hlate, hi.some, hi.free, hp, hq, hc, State.onLanes_nil, ne_eq, not_true_eq_false, and_false, or_self,
      Bool.false_eq_true, if_false, if_true]
  refine ⟨_, hst, ?_⟩
  rw [h1]
  unfold rendezvous
  have ha : ((s.liveLanes s.cur.warp).all (fun l =>
      decide (((s.enterAll s.cur.warp (issuing s) .rendezvous).thread s.cur.warp l).wait = .rendezvous))) = true := by
    rw [List.all_eq_true]; intro l hl
    rw [hth l (mem_liveLanes.1 hl).1]; simp [hall l hl]
  have hb : ((s.liveLanes s.cur.warp).all (fun l =>
      ((s.enterAll s.cur.warp (issuing s) .rendezvous).thread s.cur.warp l).pc == s.cur.pc)) = true := by
    rw [List.all_eq_true]; intro l hl
    rw [hth l (mem_liveLanes.1 hl).1]; simp [hall l hl, (mem_issuing.1 (hall l hl)).2.2.1]
  simp only [hlive, ha, hb, if_true]
  generalize hs2 : ((s.enterAll s.cur.warp (issuing s) .rendezvous).enterAll s.cur.warp (s.liveLanes s.cur.warp) .ready) = s2 at hst ⊢
  have hcur : s2.cur = s.cur := by rw [hst.1]
  have hloc : s2.locks = s.locks := by rw [hst.1]
  have hgd : (s.liveLanes s.cur.warp).filter (guardOf s2 s.cur.warp h.neg h.pred) =
      (s.liveLanes s.cur.warp).filter (guardOf s s.cur.warp h.neg h.pred) := by
    refine List.filter_congr (fun l _ => ?_)
    simp only [guardOf, hst.thread]
  have hbh : (s.liveLanes s.cur.warp).filter (guardOf s s.cur.warp h.neg h.pred) ≠ [] →
      h.dests.any (bholdLocked s2 s.cur.warp) = false := by
    intro hne
    have hg : guarded h s ≠ [] := by
      obtain ⟨l, hl⟩ := List.exists_mem_of_ne_nil _ hne
      have hl' := List.mem_filter.1 hl
      exact List.ne_nil_of_mem (mem_guarded.2 ⟨hall l hl'.1, hl'.2⟩)
    have := hi.bhold hg
    simpa [bholdLocked, hloc] using this
  unfold runBody
  simp only [hcur, hgd]
  by_cases hne : (s.liveLanes s.cur.warp).filter (guardOf s s.cur.warp h.neg h.pred) = []
  · simp [hne]
  · simp only [hne, if_false, hbh hne, Bool.false_eq_true, afterBody, hcur]
    all_goals (split <;> (rename_i hbody; rw [hbody]))

end Sys2Proof.Machine
end

