-- ==== Sys2Proof/Laws/Operands.lean ====
section
/-! SUPPORT. What writing registers, predicates and flags leaves, and what an instruction that computes a register or a
predicate per lane does where it issues. -/

namespace Sys2Proof.Machine

/-! ### Writing vector registers -/

theorem writeLanes_eq (s : State) (w d : Nat) (xs : List (Nat × Word)) :
    writeLanes s w d xs = { s with vregs := (writeLanes s w d xs).vregs } := by
  induction xs generalizing s with
  | nil => rfl
  | cons x r ih =>
    show writeLanes (s.writeD w x.1 d x.2) w d r = _
    rw [ih]
    simp only [writeLanes, List.foldl_cons]
    unfold State.writeD
    split <;> rfl

theorem State.v_writeD (s : State) (w l d : Nat) (x : Word) (w' l' n' : Nat) (hl : l < 32) (hl' : l' < 32) (hn : n' < 512) :
    (s.writeD w l d x).v w' l' n' = if w' = w ∧ l' = l ∧ n' = d ∧ d < 384 then x else s.v w' l' n' := by
  unfold State.writeD
  by_cases hd : d < 384
  · rw [if_pos hd, State.v_setV _ _ _ _ _ _ _ _ hl hl' (by omega) hn]; simp [hd]
  · rw [if_neg hd, if_neg (by omega)]

/-- Each listed lane's register takes its value, and no other register changes. -/
theorem v_writeLanes (s : State) (w d : Nat) (ls : List Nat) (g : Nat → Word) (hn : ls.Nodup) (hl : ∀ l ∈ ls, l < 32)
    (w' l' n' : Nat) (hl' : l' < 32) (hn' : n' < 512) :
    (writeLanes s w d (ls.map (fun l => (l, g l)))).v w' l' n' =
      if w' = w ∧ l' ∈ ls ∧ n' = d ∧ d < 384 then g l' else s.v w' l' n' := by
  induction ls generalizing s with
  | nil => simp [writeLanes]
  | cons l r ih =>
    have hn0 := List.nodup_cons.1 hn
    have hl0 : l < 32 := hl l (by simp)
    show (writeLanes (s.writeD w l d (g l)) w d (r.map (fun l => (l, g l)))).v w' l' n' = _
    rw [ih _ hn0.2 (fun k hk => hl k (by simp [hk])), State.v_writeD _ _ _ _ _ _ _ _ hl0 hl' hn']
    by_cases h1 : l' = l
    · subst h1; simp [hn0.1]
    · simp [h1]

/-! ### Sub-elements side by side (R72) -/

theorem packFold_lt (w : Nat) (xs : List Nat) : xs.foldr (fun x acc => x % 2 ^ w + 2 ^ w * acc) 0 < 2 ^ (w * xs.length) := by
  induction xs with
  | nil => simp
  | cons x r ih =>
    simp only [List.foldr_cons, List.length_cons]
    generalize hp : r.foldr (fun x acc => x % 2 ^ w + 2 ^ w * acc) 0 = p at ih ⊢
    have h1 : x % 2 ^ w < 2 ^ w := Nat.mod_lt _ (Nat.two_pow_pos w)
    have h3 : 2 ^ w * (p + 1) ≤ 2 ^ w * 2 ^ (w * r.length) := Nat.mul_le_mul_left _ ih
    have h4 : 2 ^ (w * (r.length + 1)) = 2 ^ w * 2 ^ (w * r.length) := by rw [← Nat.pow_add]; congr 1; ring
    rw [h4]
    have h5 : 2 ^ w * (p + 1) = 2 ^ w * p + 2 ^ w := by ring
    omega

theorem packFold_elem (w : Nat) (xs : List Nat) (k : Nat) (hk : k < xs.length) :
    xs.foldr (fun x acc => x % 2 ^ w + 2 ^ w * acc) 0 / 2 ^ (w * k) % 2 ^ w = xs.getD k 0 % 2 ^ w := by
  induction xs generalizing k with
  | nil => simp at hk
  | cons x r ih =>
    simp only [List.foldr_cons]
    have h1 : x % 2 ^ w < 2 ^ w := Nat.mod_lt _ (Nat.two_pow_pos w)
    cases k with
    | zero => simp [Nat.add_mul_mod_self_left]
    | succ k =>
      have hk' : k < r.length := by simpa using hk
      have h2 : 2 ^ (w * (k + 1)) = 2 ^ w * 2 ^ (w * k) := by rw [← Nat.pow_add]; congr 1; ring
      rw [h2, ← Nat.div_div_eq_div_mul, Nat.add_mul_div_left _ _ (Nat.two_pow_pos w), Nat.div_eq_of_lt h1, Nat.zero_add, ih k hk']
      simp

/-- Sub-element `k` of values packed side by side. -/
theorem elem_packElems (w : Nat) (xs : List Nat) (k : Nat) (hk : k < xs.length) (hw : w * xs.length ≤ 64) :
    elem w (packElems w xs) k = xs.getD k 0 % 2 ^ w := by
  unfold elem packElems
  have h1 := packFold_lt w xs
  have h2 : 2 ^ (w * xs.length) ≤ 2 ^ 64 := Nat.pow_le_pow_right (by decide) hw
  rw [BitVec.toNat_ofNat, Nat.mod_eq_of_lt (Nat.lt_of_lt_of_le h1 h2)]
  exact packFold_elem w xs k hk

theorem packElems_lt (w : Nat) (xs : List Nat) (hw : w * xs.length ≤ 64) : (packElems w xs).toNat < 2 ^ (w * xs.length) := by
  unfold packElems
  have h1 := packFold_lt w xs
  have h2 : 2 ^ (w * xs.length) ≤ 2 ^ 64 := Nat.pow_le_pow_right (by decide) hw
  rw [BitVec.toNat_ofNat, Nat.mod_eq_of_lt (Nat.lt_of_lt_of_le h1 h2)]
  exact h1

theorem length_srcElems (s : State) (f : F64) (lane w n : Nat) (i64 : Bool) (code : Nat) :
    (srcElems s f lane w n i64 code).length = n := by
  simp [srcElems, elems]

theorem length_second (s : State) (f : F64) (lane w n : Nat) (i64 : Bool) : (second s f lane w n i64).length = n := by
  unfold second
  split
  · simp [immElems]
  · exact length_srcElems _ _ _ _ _ _ _

theorem length_third (s : State) (f : F64) (lane w n : Nat) (i64 : Bool) : (third s f lane w n i64).length = n := by
  unfold third
  split
  · simp [immElems]
  · exact length_srcElems _ _ _ _ _ _ _

/-! ### Writing predicates -/

theorem writePreds_eq (s : State) (w p : Nat) (xs : List (Nat × Bool)) :
    writePreds s w p xs = { s with threads := (writePreds s w p xs).threads } := by
  induction xs generalizing s with
  | nil => rfl
  | cons x r ih =>
    show writePreds (s.setP w x.1 p x.2) w p r = _
    rw [ih]
    rfl

theorem thread_writePreds (s : State) (w p : Nat) (ls : List Nat) (g : Nat → Bool) (hn : ls.Nodup) (hl : ∀ l ∈ ls, l < 32)
    (w' l' : Nat) (hl' : l' < 32) :
    (writePreds s w p (ls.map (fun l => (l, g l)))).thread w' l' =
      if w' = w ∧ l' ∈ ls then (s.thread w l').setP p (g l') else s.thread w' l' := by
  induction ls generalizing s with
  | nil => simp [writePreds]
  | cons l r ih =>
    have hn0 := List.nodup_cons.1 hn
    have hl0 : l < 32 := hl l (by simp)
    show (writePreds (s.setP w l p (g l)) w p (r.map (fun l => (l, g l)))).thread w' l' = _
    rw [ih _ hn0.2 (fun k hk => hl k (by simp [hk]))]
    have key := fun a => State.thread_setThread s w l a l' (·.setP p (g l)) hl0 hl'
    simp only [State.setP, key]
    by_cases hw : w' = w
    · by_cases h1 : l' = l
      · subst h1; simp [hw, hn0.1]
      · simp [hw, h1]
    · simp [hw]

theorem Thread.setP_eq (t : Thread) (p : Nat) (b : Bool) : t.setP p b = { t with preds := (t.setP p b).preds } := by
  unfold Thread.setP; split <;> rfl

/-! ### Flags (R101, R102) -/

theorem allFlags_map (ls : List Nat) (fl : Nat → BitVec 9) : allFlags (ls.map (fun l => (l, fl l))) = unionFlags ls fl := by
  simp [allFlags, unionFlags, List.foldl_map]

theorem and_or_zero {w : Nat} (a x y : BitVec w) (hx : a &&& x = 0) (hy : a &&& y = 0) : a &&& (x ||| y) = 0 := by
  ext i hi
  have h1 := congrArg (fun z : BitVec w => z.getLsbD i) hx
  have h2 := congrArg (fun z : BitVec w => z.getLsbD i) hy
  simp at h1 h2 ⊢
  have e1 : ∀ z : BitVec w, z.getLsbD i = z[i] := fun z => by simp [BitVec.getLsbD_eq_getElem hi]
  simp only [e1] at h1 h2
  cases ha : a[i] <;> simp_all

theorem and_unionFlags (fen : BitVec 9) (ls : List Nat) (fl : Nat → BitVec 9) (h : ∀ l ∈ ls, fen &&& fl l = 0) :
    fen &&& unionFlags ls fl = 0 := by
  unfold unionFlags
  suffices H : ∀ acc : BitVec 9, fen &&& acc = 0 → fen &&& ls.foldl (fun a l => a ||| fl l) acc = 0 from
    H 0 (by simp)
  induction ls with
  | nil => intro acc ha; exact ha
  | cons l r ih =>
    intro acc ha
    exact ih (fun k hk => h k (by simp [hk])) _ (and_or_zero _ _ _ ha (h l (by simp)))

/-- With no raised flag enabled, the flags become sticky and the effect goes on. -/
theorem withFlags_of_disabled (s : State) (w : Nat) (ls : List Nat) (fl : Nat → BitVec 9) (k : State → Res)
    (h : ∀ l ∈ ls, (s.warp w).fen &&& fl l = 0) :
    withFlags s w (ls.map (fun l => (l, fl l))) k = k (s.orFlags w (unionFlags ls fl)) := by
  unfold withFlags
  rw [allFlags_map, and_unionFlags _ _ _ h]
  simp

/-- An enabled flag that a lane raises makes the instruction trap, with the causes of the enabled flags (R102, R147). -/
theorem withFlags_of_enabled (s : State) (w : Nat) (fls : List (Nat × BitVec 9)) (k : State → Res)
    (h : (s.warp w).fen &&& allFlags fls ≠ 0) : withFlags s w fls k = .trap (flagRaises (s.warp w).fen fls) := by
  unfold withFlags
  rw [if_pos (by simpa using h)]

/-! ### Instructions that compute a register or a predicate -/

/-- What a body that writes D and flags leaves, from any state that reads like `s` thread by thread. -/
theorem regEffect_write {h : Hdr} {s t : State} (hi : Issues h s) (d : Nat) (val : Nat → Word) (fl : BitVec 9)
    (ht : t = ((writeLanes (s.orFlags s.cur.warp fl) s.cur.warp d ((guarded h s).map (fun l => (l, val l)))).advance
      s.cur.warp (issuing s) s.cur.pc h.len)) (hg : guarded h s ≠ []) :
    RegEffect h s t { vec := toVec d val, flg := fl } := by
  subst ht
  generalize hu : writeLanes (s.orFlags s.cur.warp fl) s.cur.warp d ((guarded h s).map (fun l => (l, val l))) = u
  have hu1 : u = { s.orFlags s.cur.warp fl with vregs := u.vregs } := by rw [← hu]; exact writeLanes_eq _ _ _ _
  have hth : ∀ w l, u.thread w l = s.thread w l := by intro w l; rw [hu1]; rfl
  have hwp : ∀ w, u.warp w = if w = s.cur.warp then { s.warp w with flags := (s.warp w).flags ||| fl } else s.warp w := by
    intro w; rw [hu1]
    show (s.orFlags s.cur.warp fl).warp w = _
    simp only [State.orFlags, State.warp_setWarp]
    split
    · rename_i e; rw [e]
    · rfl
  have htk : u.tick = s.tick := by rw [hu1]; rfl
  refine { rest := ?_, vregs := ?_, wregs := ?_, warps := ?_, threads := ?_, preds := ?_ }
  · rw [State.advance_eq, hu1]; rfl
  · intro w l n hl hn
    rw [State.advance_eq]
    show u.v w l n = _
    rw [← hu, v_writeLanes _ _ _ _ _ hi.nodup_guarded hi.lt_guarded _ _ _ hl hn]
    have hsv : (s.orFlags s.cur.warp fl).v w l n = s.v w l n := rfl
    rw [hsv]
    by_cases h1 : w = s.cur.warp ∧ l ∈ guarded h s
    · by_cases h2 : n = d ∧ d < 384
      · rw [if_pos ⟨h1.1, h1.2, h2.1, h2.2⟩, if_pos h1]
        simp only [toVec, if_pos h2, Option.getD_some]
      · rw [if_neg (fun hc => h2 hc.2.2), if_pos h1]
        simp only [toVec, if_neg h2, Option.getD_none]
    · rw [if_neg h1, if_neg (fun hc => h1 ⟨hc.1, hc.2.1⟩)]
  · intro w n _
    rw [State.advance_eq, hu1]
    show s.w w n = _
    split <;> rfl
  · intro w
    rw [State.advance_eq]
    show u.warp w = _
    rw [hwp]
    simp [hg]
  · intro w l hl
    rw [State.thread_advance _ _ _ _ _ hi.nodup_issuing hi.lt_issuing _ _ hl]
    simp only [hth, htk]
    split
    · rename_i hc; rw [hc.1]; rfl
    · rfl
  · intro l p hl _
    rw [State.thread_advance _ _ _ _ _ hi.nodup_issuing hi.lt_issuing _ _ (hi.lt_issuing l hl)]
    simp only [hth, htk, hl, and_self, if_true]
    show (s.thread s.cur.warp l).p p = _
    split <;> rfl

/-- With no guard-true thread the instruction only moves its threads past it. -/
theorem regEffect_none {h : Hdr} {s : State} (hi : Issues h s) (x : Writes) (hg : guarded h s = []) :
    RegEffect h s (s.advance s.cur.warp (issuing s) s.cur.pc h.len) x := by
  refine { rest := ?_, vregs := ?_, wregs := ?_, warps := ?_, threads := ?_, preds := ?_ }
  · rw [State.advance_eq]
  · intro w l n _ _
    rw [State.advance_eq]
    show s.v w l n = _
    simp [hg]
  · intro w n _
    rw [State.advance_eq]
    show s.w w n = _
    simp [hg]
  · intro w
    rw [State.advance_eq]
    show s.warp w = _
    simp [hg]
  · intro w l hl
    rw [State.thread_advance _ _ _ _ _ hi.nodup_issuing hi.lt_issuing _ _ hl]
    split
    · rename_i hc; rw [hc.1]; rfl
    · rfl
  · intro l p hl _
    rw [State.thread_advance _ _ _ _ _ hi.nodup_issuing hi.lt_issuing _ _ (hi.lt_issuing l hl)]
    simp only [hl, and_self, if_true, hg, List.not_mem_nil, if_false]
    rfl

/-- An instruction of the shape of `issueAlu`, where it issues and raises no enabled flag. -/
theorem issueAlu_effect {i : Instr} {f : F64} {g : State → Nat → Word × BitVec 9} {s : State} (hi : Issues (hdrOf i f) s)
    (hfl : ∀ l ∈ guarded (hdrOf i f) s, (s.warp s.cur.warp).fen &&& (g s l).2 = 0) :
    RegEffect (hdrOf i f) s (issueAlu i f g s)
      { vec := toVec f.d.toNat (fun l => (g s l).1), flg := unionFlags (guarded (hdrOf i f) s) (fun l => (g s l).2) } := by
  unfold issueAlu
  rw [issue_of_issues hi rfl]
  by_cases hg : guarded (hdrOf i f) s = []
  · rw [if_pos hg]; exact regEffect_none hi _ hg
  · rw [if_neg hg]
    have hb : aluBody f g s (guarded (hdrOf i f) s) =
        .next (writeLanes (s.orFlags s.cur.warp (unionFlags (guarded (hdrOf i f) s) (fun l => (g s l).2))) s.cur.warp
          f.d.toNat ((guarded (hdrOf i f) s).map (fun l => (l, (g s l).1)))) := by
      unfold aluBody
      simp only [List.map_map, Function.comp_def]
      rw [withFlags_of_disabled _ _ _ (fun l => (g s l).2) _ hfl]
    rw [hb]
    exact regEffect_write hi _ _ _ rfl hg

/-- The completion statement of such an instruction, from what it computes in a lane. -/
theorem computesD_of_issueAlu {i : Instr} {f : F64} {s : State} {P : Nat → Word → BitVec 9 → Prop}
    (g : State → Nat → Word × BitVec 9) (hx : exec i s = .next (issueAlu i f g s)) (hP : ∀ l, P l (g s l).1 (g s l).2) :
    ComputesD i f s P := by
  intro _ hi
  exact ⟨fun l => (g s l).1, fun l => (g s l).2, fun l _ => hP l, fun hfl => ⟨_, hx, issueAlu_effect hi hfl⟩⟩

/-- An instruction that writes a predicate, where it issues. -/
theorem issuePred_effect {i : Instr} {f : F64} {g : State → Nat → Bool} {s : State} (hi : Issues (hdrOf i f) s) :
    RegEffect (hdrOf i f) s (issuePred i f g s) { prd := toPred (f.d.toNat % 8) (fun l => g s l) } := by
  unfold issuePred
  rw [issue_of_issues hi rfl]
  by_cases hg : guarded (hdrOf i f) s = []
  · rw [if_pos hg]; exact regEffect_none hi _ hg
  · rw [if_neg hg]
    simp only [predBody, afterBody]
    generalize hh : hdrOf i f = h at *
    generalize hu : writePreds s s.cur.warp (f.d.toNat % 8) ((guarded h s).map (fun l => (l, g s l))) = u
    have hu1 : u = { s with threads := u.threads } := by rw [← hu]; exact writePreds_eq _ _ _ _
    have hth : ∀ w l, l < 32 → u.thread w l =
        if w = s.cur.warp ∧ l ∈ guarded h s then (s.thread w l).setP (f.d.toNat % 8) (g s l) else s.thread w l := by
      intro w l hl
      rw [← hu, thread_writePreds _ _ _ _ _ hi.nodup_guarded hi.lt_guarded _ _ hl]
      split
      · rename_i hc; rw [hc.1]
      · rfl
    have htk : u.tick = s.tick := by rw [hu1]
    refine { rest := ?_, vregs := ?_, wregs := ?_, warps := ?_, threads := ?_, preds := ?_ }
    · rw [State.advance_eq, hu1]
    · intro w l n _ _
      rw [State.advance_eq, hu1]
      show s.v w l n = _
      split <;> rfl
    · intro w n _
      rw [State.advance_eq, hu1]
      show s.w w n = _
      split <;> rfl
    · intro w
      rw [State.advance_eq, hu1]
      show s.warp w = _
      split
      · simp
      · rfl
    · intro w l hl
      rw [State.thread_advance _ _ _ _ _ hi.nodup_issuing hi.lt_issuing _ _ hl]
      by_cases hc : w = s.cur.warp ∧ l ∈ issuing s
      · simp only [if_pos hc, htk]
        rw [hth _ _ hl, hc.1]
        split
        · rw [Thread.setP_eq]; rfl
        · rfl
      · simp only [if_neg hc]
        rw [hth _ _ hl, if_neg (fun h1 => hc ⟨h1.1, (mem_guarded.1 h1.2).1⟩)]
    · intro l p hl hp
      have hl32 := hi.lt_issuing l hl
      rw [State.thread_advance _ _ _ _ _ hi.nodup_issuing hi.lt_issuing _ _ hl32]
      simp only [hl, and_self, if_true]
      rw [hth _ _ hl32]
      by_cases h1 : l ∈ guarded h s
      · simp only [h1, and_self, if_true]
        show ((s.thread s.cur.warp l).setP (f.d.toNat % 8) (g s l)).p p = _
        rw [Thread.p_setP _ _ _ _ hp]
        by_cases h2 : p = f.d.toNat % 8 ∧ f.d.toNat % 8 < 7
        · rw [if_pos h2]; simp only [toPred, if_pos h2, Option.getD_some]
        · rw [if_neg h2]; simp only [toPred, if_neg h2, Option.getD_none]
      · simp only [h1, and_false, if_false]
        rfl

theorem computesP_of_issuePred {i : Instr} {f : F64} {s : State} {P : Nat → Bool → Prop} (g : State → Nat → Bool)
    (hx : exec i s = .next (issuePred i f g s)) (hP : ∀ l, P l (g s l)) : ComputesP i f s P := by
  intro _ hi
  exact ⟨fun l => g s l, fun l _ => hP l, _, hx, issuePred_effect hi⟩

end Sys2Proof.Machine
end

