-- ==== Sys2Proof/Tests/Slice0.lean ====
section
/-! SUPPORT. Tests: ill-formed terms for each check of WellFormed, decodings of words written out from the spec's encodings,
single steps with results worked out from the spec's tables and examples, and for each statement with hypotheses a state
and operands that meet them. -/

namespace Sys2Proof.Tests

open Sys2Proof Sys2Proof.Machine

set_option Elab.async false

/-- Fields of a 64-bit instruction that are all zero but the guard p7, constant true (R65). -/
def f0 : F64 := { md := 0, set := 0, wait := 0, neg := false, pred := 7, c := 0, b := 0, a := 0, d := 0, lit := none }
/-- Fields of a 32-bit instruction: guard p7, BODY 0 (R74). -/
def g0 : F32 := { neg := false, pred := 7, body := 0 }

/-! ### WellFormed: an ill-formed term for each check -/

/-- The machine's checks of R79 refuse each of these terms. -/
theorem test_wf_operands : ([
    .addInt .n64 { f0 with a := 475 },                 -- a reserved operand code (R70)
    .addInt .n64 { f0 with a := 449 },                 -- %lit without a literal (R66)
    .addInt .n64 { f0 with d := 384 },                 -- a w register as D (R73)
    .addInt .n64 { f0 with d := 450 },                 -- a special other than %zero as D (R73)
    .addInt .n64 { f0 with md := 4 },                  -- .hi on add (R117)
    .mulInt .n64 { f0 with md := 6 },                  -- .hi with .sat (R117)
    .addInt .n64 { f0 with c := 1 },                   -- C without the immediate selector (R113)
    .addInt .n64 { f0 with set := 1 },                 -- SET on an instruction that takes no slot (R68)
    .div .n64 { f0 with set := 7 },                    -- SET = 7 (R65)
    .divm .n64 { f0 with d := 383 },                   -- a register group past v383 (R128)
    .cmp .eq .n64 { f0 with d := 8 },                  -- a predicate above 7 (R125)
    .sel { f0 with c := 8 },                           -- C[8:3] of a predicate field (R125)
    .bfx false { f0 with b := 1 },                     -- an unused field (R120)
    .lea { f0 with md := 1, c := 8 },                  -- a shift above 7 (R132)
    .mvs f0,                                           -- a literal required (R132)
    .tret { f0 with lit := some 0 },                   -- a literal refused (R202)
    .cvt { f0 with c := 0x0D },                        -- a reserved format (R143)
    .cvt { f0 with c := 0x11 },                        -- equal formats (R143)
    .cvt { f0 with c := 0x10, b := 2 },                -- a group out of range (R144)
    .bcast { f0 with md := 1, c := 32 },               -- a lane above 31 (R154)
    .redAdd .b64 { f0 with md := 2 },                  -- a rounding mode on an integer sum (R154)
    .redAnd { f0 with md := 4 }].all (fun i => !Instr.wf i)) = true := by decide +kernel

theorem test_wf_memory_and_system : ([
    .ld .global .b64 { f0 with c := 5 },               -- an order above .sc (R148)
    .ld .global .b64 { f0 with c := 8 },               -- .rlx with a scope (R148)
    .ld .global .b64 { f0 with c := 2 },               -- a release on a load (R158)
    .st .global .b64 { f0 with c := 1 },               -- an acquire on a store (R158)
    .st .global .b64 { f0 with d := 1 },               -- D of a store (R157)
    .stA { f0 with c := 2 },                           -- an order on st.a (R160)
    .push { f0 with md := 1, c := 9 },                 -- more than 8 words (R161)
    .pop { f0 with md := 1, c := 2, d := 383 },        -- a group past v383 (R161)
    .bsend { f0 with d := 448, lit := some 0 },        -- a route without an end (R83)
    .bsend { f0 with d := 448 },                       -- no route (R172)
    .atomCas .n32 { f0 with b := 383 },                -- B of cas past v382 (R162)
    .atomAdd .n32 { f0 with md := 6 },                 -- the space 11 (R162)
    .fence f0,                                         -- .rlx on fence (R164)
    .barArm { f0 with md := 1, c := 64 },              -- an entry above 63 (R166)
    .sbarWait { f0 with md := 1, c := 4 },             -- a set slot above 3 (R166)
    .cntAdd { f0 with c := 1 },                        -- an order that cnt.add excludes (R170)
    .svc { f0 with lit := some 0 },                    -- svc without a slot (R175)
    .svc { f0 with set := 1, lit := some 0x10000 },    -- literal bits above 15 (R175)
    .mfsr { f0 with md := 1, c := 0x00B },             -- an unlisted register (R176)
    .mtsr { f0 with md := 1, c := 2 },                 -- a read-only register (R176)
    .causeclrReg f0,                                   -- a v register for the mask (R202)
    .tabort { f0 with md := 1, c := 128 },             -- a code above 127 (R202)
    .cubeMmaReg { f0 with md := 1, a := 377 },         -- a block past v383 (R263)
    .cubeBld { f0 with md := 1, c := 0 },              -- no register to load (R263)
    .xqueryImm { f0 with md := 1, c := 16 },           -- a channel above 15 (R230)
    .collRelImm { f0 with md := 1, c := 32 },          -- a zone above 31 (R309)
    .treplayImm { f0 with md := 1, c := 4 },           -- a code above 3 (R345)
    .csave { f0 with md := 1, c := 4 },                -- a part above 3 (R345)
    .bra { g0 with pred := 0, body := 0 }].map Instr.wf) = List.replicate 28 false ++ [true] := by decide +kernel

theorem test_wf_short_forms : ([
    .nop { g0 with body := 1 },                        -- shape N (R75)
    .wait { g0 with body := 64 },                      -- shape W (R75)
    .barArrive { g0 with body := 64 },                 -- shape B (R75)
    .mov { g0 with body := 384 },                      -- a w register as D (R73)
    .mov { g0 with body := 449 * 512 },                -- %lit in a 32-bit form (R66)
    .jmp { g0 with body := 1 },                        -- shape M with D zero (R76)
    .trap { g0 with body := 65536 }].all (fun i => !Instr.wf i)) = true := by decide +kernel

/-! ### Decoding -/

/-- Words packed by hand from the field layouts of R65, R66 and R75 and the opcode tables of each family's rules, with the
instructions they stand for: whether each decodes to its instruction, with nothing left over. -/
def decodesTo (xs : List (Nat × Nat × Instr)) : Bool :=
  xs.all (fun x => match decode (leBytes x.1 x.2.1) with
    | .ok (i, r) => decide (i = x.2.2) && r.isEmpty
    | .error _ => false)

theorem test_decode_short : decodesTo [
    (4, 0x700, .nop { neg := false, pred := 7, body := 0 }),
    (4, 0xFFFFE704, .bra { neg := false, pred := 7, body := 1048574 }),
    (4, 0x5108, .call { neg := false, pred := 1, body := 5 }),
    (4, 0xA0C, .ret { neg := true, pred := 2, body := 0 }),
    (4, 0x710, .exit { neg := false, pred := 7, body := 0 }),
    (4, 0x314, .yield { neg := false, pred := 3, body := 0 }),
    (4, 0x4118, .wait { neg := false, pred := 1, body := 4 }),
    (4, 0x3F71C, .barArrive { neg := false, pred := 7, body := 63 }),
    (4, 0x1720, .barWait { neg := false, pred := 7, body := 1 }),
    (4, 0x38003724, .mov { neg := false, pred := 7, body := 229379 }),
    (4, 0xFFFF728, .trap { neg := false, pred := 7, body := 65535 }),
    (4, 0x172C, .brk { neg := false, pred := 7, body := 1 }),
    (4, 0xA00730, .jmp { neg := false, pred := 7, body := 2560 })] = true := by decide +kernel

theorem test_decode_twins : decodesTo [
    (8, 0x3F7000000000B01, .nopTwin { f0 with wait := 63 }),
    (12, 0x100000027000000000B06, .braTwin { f0 with wait := 2, lit := some 0x10000 }),
    (12, 0xFFFFFFFF0007000000000B0A, .callTwin { f0 with lit := some 0xFFFFFFFF }),
    (8, 0x17000000000B0D, .retTwin { f0 with wait := 1 }),
    (8, 0x8000000000B11, .exitTwin { f0 with neg := true, pred := 0 }),
    (8, 0x47000000000B15, .yieldTwin { f0 with wait := 4 }),
    (8, 0x87000000000B19, .waitTwin { f0 with wait := 8 }),
    (8, 0x20171F8000000B1D, .barArriveTwin { f0 with md := 1, wait := 1, c := 63 }),
    (8, 0x2007010000000B21, .barWaitTwin { f0 with md := 1, c := 2 }),
    (8, 0x700003017FB25, .movTwinReg { f0 with a := 384, d := 383 }),
    (8, 0x2001028000001B25, .movTwinImm { f0 with md := 1, pred := 1, c := 5, d := 1 }),
    (12, 0x800000000007000038201B26, .movTwinLit { f0 with a := 449, d := 1, lit := some 0x80000000 }),
    (12, 0x70007000000000B2A, .trapTwin { f0 with lit := some 0x7 }),
    (12, 0xFFFF0007000000000B2E, .brkTwin { f0 with lit := some 0xFFFF }),
    (8, 0x7000000A00B31, .jmpTwinReg { f0 with a := 5 }),
    (12, 0x400007000038200B32, .jmpTwinLit { f0 with a := 449, lit := some 0x40 })] = true := by decide +kernel

theorem test_decode_arith : decodesTo [
    (8, 0x40070000C0401001, .addInt .i8x8 { f0 with md := 2, b := 3, a := 2, d := 1 }),
    (8, 0x70000C0401035, .subInt .n32x2 { f0 with b := 3, a := 2, d := 1 }),
    (8, 0x80070000C040105D, .mulInt .n64 { f0 with md := 4, b := 3, a := 2, d := 1 }),
    (8, 0x40070200C0401061, .mad .i8x8 { f0 with md := 2, c := 4, b := 3, a := 2, d := 1 }),
    (8, 0x2007FF8000401085, .minInt .n8x8 { f0 with md := 1, c := 511, a := 2, d := 1 }),
    (8, 0x70000C04010B9, .maxInt .i64 { f0 with b := 3, a := 2, d := 1 }),
    (8, 0x40070000004010C9, .abs .i16x4 { f0 with md := 2, a := 2, d := 1 }),
    (8, 0x70000004010F9, .neg .i64 { f0 with a := 2, d := 1 })] = true := by decide +kernel

theorem test_decode_logic : decodesTo [
    (8, 0x70000C0401101, .andB { f0 with b := 3, a := 2, d := 1 }),
    (8, 0x2007020000401105, .orB { f0 with md := 1, c := 4, a := 2, d := 1 }),
    (12, 0xFFFF0000000700704040110A, .xorB { f0 with b := 449, a := 2, d := 1, lit := some 0xFFFF0000 }),
    (8, 0x70000C040110D, .andnB { f0 with b := 3, a := 2, d := 1 }),
    (8, 0x7000000401111, .notB { f0 with a := 2, d := 1 }),
    (8, 0x70000C0401121, .shl .b8x8 { f0 with b := 3, a := 2, d := 1 }),
    (8, 0x2007020000401139, .shr .b32x2 { f0 with md := 1, c := 4, a := 2, d := 1 }),
    (8, 0x70000C0401145, .sar .b16x4 { f0 with b := 3, a := 2, d := 1 }),
    (8, 0x70000C040115D, .rot .b64 { f0 with b := 3, a := 2, d := 1 }),
    (8, 0x7020000401161, .bfx false { f0 with c := 4, a := 2, d := 1 }),
    (8, 0x7020000401165, .bfx true { f0 with c := 4, a := 2, d := 1 }),
    (8, 0x70200C0401169, .bfi { f0 with c := 4, b := 3, a := 2, d := 1 }),
    (8, 0x700000040116D, .popc { f0 with a := 2, d := 1 }),
    (8, 0x7000000401171, .clz { f0 with a := 2, d := 1 }),
    (8, 0x7000000401175, .brev { f0 with a := 2, d := 1 }),
    (8, 0x20071F01C1009179, .shrf { f0 with md := 1, c := 62, b := 7, a := 8, d := 9 })] = true := by decide +kernel

theorem test_decode_select : decodesTo [
    (8, 0x700010060224D, .cmp .lt .n16 { f0 with b := 4, a := 3, d := 2 }),
    (8, 0x70280C04012C1, .sel { f0 with c := 5, b := 3, a := 2, d := 1 }),
    (8, 0x70200C04012C5, .selm { f0 with c := 4, b := 3, a := 2, d := 1 }),
    (8, 0x70000C04012E1, .pand { f0 with b := 3, a := 2, d := 1 }),
    (8, 0x70000C04012E5, .por { f0 with b := 3, a := 2, d := 1 }),
    (8, 0x70001C04012E9, .pxor { f0 with b := 7, a := 2, d := 1 }),
    (8, 0x7000100A062ED, .pandn { f0 with b := 4, a := 5, d := 6 }),
    (8, 0x18070000C0401301, .div .i32x2 { f0 with set := 6, b := 3, a := 2, d := 1 }),
    (8, 0x200705000040131D, .rem .n64 { f0 with md := 1, c := 10, a := 2, d := 1 }),
    (8, 0x70000C057E329, .divm .i64 { f0 with b := 3, a := 2, d := 382 }),
    (8, 0x20070380C0401381, .lea { f0 with md := 1, c := 7, b := 3, a := 2, d := 1 }),
    (12, 0x123456780007000000201386, .mvh { f0 with a := 1, d := 1, lit := some 0x12345678 }),
    (12, 0x80000000000700000000138A, .mvs { f0 with d := 1, lit := some 0x80000000 })] = true := by decide +kernel

theorem test_decode_float : decodesTo [
    (8, 0x20070000C0401401, .addFloat .f32 { f0 with md := 1, b := 3, a := 2, d := 1 }),
    (8, 0x40070000C0401415, .subFloat .f32x2 { f0 with md := 2, b := 3, a := 2, d := 1 }),
    (8, 0x60070000C0401429, .mulFloat .f16x4 { f0 with md := 3, b := 3, a := 2, d := 1 }),
    (8, 0x70200C040143D, .fma .bf16x4 { f0 with c := 4, b := 3, a := 2, d := 1 }),
    (8, 0x70200C0401441, .fnma .f32 { f0 with c := 4, b := 3, a := 2, d := 1 }),
    (8, 0x70000C0401505, .minFloat .f32x2 { f0 with b := 3, a := 2, d := 1 }),
    (8, 0x70000C040151D, .maxFloat .bf16x4 { f0 with b := 3, a := 2, d := 1 }),
    (8, 0xE007000100602525, .fcmp .f16 { f0 with md := 7, b := 4, a := 3, d := 2 }),
    (8, 0x7000000401539, .fclass .bf16 { f0 with a := 2, d := 1 })] = true := by decide +kernel

theorem test_decode_special : decodesTo [
    (8, 0x407000000401601, .frnd false { f0 with set := 1, a := 2, d := 1 }),
    (8, 0x80700000040160D, .fexpf true { f0 with set := 2, a := 2, d := 1 }),
    (8, 0xC070000C0401611, .fscale false { f0 with set := 3, b := 3, a := 2, d := 1 }),
    (8, 0x100700000040161D, .frcp true { f0 with set := 4, a := 2, d := 1 }),
    (8, 0x1407000000401621, .frsqrt false { f0 with set := 5, a := 2, d := 1 }),
    (8, 0x180700000040162D, .fsqrt true { f0 with set := 6, a := 2, d := 1 }),
    (8, 0x407000000401631, .flog2 false { f0 with set := 1, a := 2, d := 1 }),
    (8, 0x7080040401681, .cvt { f0 with c := 16, b := 1, a := 2, d := 1 })] = true := by decide +kernel

theorem test_decode_lanes : decodesTo [
    (8, 0x70000C0202709, .shfl .b32x2 { f0 with b := 3, a := 1, d := 2 }),
    (8, 0x20070F8000380711, .bcast { f0 with md := 1, c := 31, a := 1, d := 384 }),
    (8, 0x7000000202715, .ptestSome { f0 with a := 1, d := 2 }),
    (8, 0x2007000000202715, .ptestEvery { f0 with md := 1, a := 1, d := 2 }),
    (8, 0x4007000000202715, .ptestAlike { f0 with md := 2, a := 1, d := 2 }),
    (8, 0x60070000003BF715, .pmask { f0 with md := 3, a := 1, d := 447 }),
    (8, 0x800700000040172D, .redAdd .f32x2 { f0 with md := 4, a := 2, d := 1 }),
    (8, 0x700000040174D, .redMin .n64 { f0 with a := 2, d := 1 }),
    (8, 0x7000000401761, .redMax .i32x2 { f0 with a := 2, d := 1 }),
    (8, 0x7000000401781, .redAnd { f0 with a := 2, d := 1 }),
    (8, 0x7000000401785, .redOr { f0 with a := 2, d := 1 }),
    (8, 0x7000000401789, .redXor { f0 with a := 2, d := 1 }),
    (8, 0x30000000017A1, .elect { f0 with pred := 3, d := 1 })] = true := by decide +kernel

theorem test_decode_memory : decodesTo [
    (8, 0x2407000000404811, .ld .global .b128 { f0 with md := 1, set := 1, a := 2, d := 4 }),
    (8, 0x70C8000404835, .ld .bench .i8 { f0 with c := 25, a := 2, d := 4 }),
    (12, 0xFFFFFFF8000700000040484E, .ld .marver .b64 { f0 with a := 2, d := 4, lit := some 0xFFFFFFF8 }),
    (8, 0x200700028060086D, .st .global .b64 { f0 with md := 1, b := 10, a := 3 }),
    (8, 0x20170000C0200881, .st .bench .b8 { f0 with md := 1, wait := 1, b := 3, a := 1 }),
    (8, 0x20010180780008C1, .stA { f0 with md := 1, pred := 1, c := 3, b := 1, a := 448 }),
    (8, 0x20070400008008C5, .push { f0 with md := 1, c := 8, a := 4 }),
    (8, 0x20070080000048C9, .pop { f0 with md := 1, c := 1, d := 4 }),
    (12, 0x500070000803C08CE, .bsend { f0 with b := 2, a := 1, d := 448, lit := some 0x5 })] = true := by decide +kernel

theorem test_decode_atomics : decodesTo [
    (8, 0x70000C0401901, .atomAdd .n32 { f0 with b := 3, a := 2, d := 1 }),
    (8, 0x40070000C0401915, .atomAnd .i32 { f0 with md := 2, b := 3, a := 2, d := 1 }),
    (8, 0x80070000C0401929, .atomOr .n64 { f0 with md := 4, b := 3, a := 2, d := 1 }),
    (8, 0x70000C040193D, .atomXor .i64 { f0 with b := 3, a := 2, d := 1 }),
    (8, 0x40070000C0401941, .atomMin .n32 { f0 with md := 2, b := 3, a := 2, d := 1 }),
    (8, 0x80070000C0401955, .atomMax .i32 { f0 with md := 4, b := 3, a := 2, d := 1 }),
    (8, 0x70000C0401969, .atomExch .n64 { f0 with b := 3, a := 2, d := 1 }),
    (8, 0x40070000C040197D, .atomCas .i64 { f0 with md := 2, b := 3, a := 2, d := 1 }),
    (8, 0x14070000C0401985, .atomFadd .bf16x2 { f0 with set := 5, b := 3, a := 2, d := 1 })] = true := by decide +kernel

theorem test_decode_sync : decodesTo [
    (8, 0x20071F8000400A01, .barArm { f0 with md := 1, c := 63, a := 2 }),
    (8, 0x20070080C0400A05, .barCredit { f0 with md := 1, c := 1, b := 3, a := 2 }),
    (8, 0x200700800017EA09, .barQuery { f0 with md := 1, c := 1, d := 382 }),
    (8, 0x2007008000400A0D, .barSpill { f0 with md := 1, c := 1, a := 2 }),
    (8, 0x2007008000400A11, .barFill { f0 with md := 1, c := 1, a := 2 }),
    (8, 0x2007018000000A15, .sbarArrive { f0 with md := 1, c := 3 }),
    (8, 0x2007010000000A19, .sbarWait { f0 with md := 1, c := 2 }),
    (8, 0xC07000080200A41, .cntAdd { f0 with set := 3, b := 2, a := 1 }),
    (8, 0x70CE0B0202A49, .cntWait { f0 with c := 25, b := 386, a := 385, d := 2 }),
    (8, 0x70CE0B0202A4D, .cntPoll { f0 with c := 25, b := 386, a := 385, d := 2 }),
    (8, 0x4070D0080200A45, .cntFail { f0 with set := 1, c := 26, b := 2, a := 1 }),
    (8, 0x70E0000000A81, .fence { f0 with c := 28 }),
    (8, 0x4007000000400A85, .watch { f0 with md := 2, a := 2 }),
    (8, 0x7000000000A89, .mwait f0)] = true := by decide +kernel

theorem test_decode_system : decodesTo [
    (8, 0x2007050000001B81, .mfsr { f0 with md := 1, c := 10, d := 1 }),
    (8, 0x2007008030000B85, .mtsr { f0 with md := 1, c := 1, a := 384 }),
    (12, 0x904070000C0401B8A, .svc { f0 with set := 1, b := 3, a := 2, d := 1, lit := some 0x9 }),
    (8, 0x7000030600BC1, .causeclrReg { f0 with a := 387 }),
    (12, 0x3FFFFF0007000038200BC2, .causeclrLit { f0 with a := 449, lit := some 0x3FFFFF }),
    (8, 0x2007040000000BC1, .causeclrImm { f0 with md := 1, c := 8 }),
    (8, 0x7000000000BC5, .tret f0),
    (8, 0x20073F8000000BC9, .tabort { f0 with md := 1, c := 127 })] = true := by decide +kernel

theorem test_decode_engines : decodesTo [
    (8, 0xC01000030A00C01, .cubeMmaBench { f0 with set := 3, pred := 1, a := 389 }),
    (8, 0x200700002F000C01, .cubeMmaReg { f0 with md := 1, a := 376 }),
    (8, 0x7000000A00C05, .cubeOutBench { f0 with a := 5 }),
    (8, 0x2007000005000C05, .cubeOutReg { f0 with md := 1, a := 40 }),
    (8, 0x600708000060AC09, .cubeArd { f0 with md := 3, c := 16, a := 3, d := 10 }),
    (8, 0x7000100600C0D, .cubeAwr { f0 with b := 4, a := 3 }),
    (8, 0x7000100600C11, .cubeAzero { f0 with b := 4, a := 3 }),
    (8, 0x2807040000440C15, .cubeBld { f0 with md := 1, set := 2, c := 8, a := 2, d := 64 }),
    (8, 0x7000000007C19, .cubeQuery { f0 with d := 7 }),
    (8, 0x7000001202D01, .xqueryReg { f0 with a := 9, d := 2 }),
    (8, 0x2007018000007D01, .xqueryImm { f0 with md := 1, c := 3, d := 7 }),
    (8, 0x7000001202D05, .xcancelReg { f0 with a := 9, d := 2 }),
    (8, 0x20070780001C0D05, .xcancelImm { f0 with md := 1, c := 15, d := 448 }),
    (8, 0x807000000800D81, .collRun { f0 with set := 2, a := 4 }),
    (8, 0x7000000C02D85, .collArm { f0 with a := 6, d := 2 }),
    (8, 0x7000240200D89, .collRelReg { f0 with b := 9, a := 1 }),
    (8, 0x2007018240000D89, .collRelImm { f0 with md := 1, c := 3, b := 9 }),
    (8, 0x7000000401D8D, .collDisarmReg { f0 with a := 2, d := 1 }),
    (8, 0x20070F8000001D8D, .collDisarmImm { f0 with md := 1, c := 31, d := 1 }),
    (8, 0x7000000401D91, .collQueryReg { f0 with a := 2, d := 1 }),
    (8, 0x200701800000AD91, .collQueryImm { f0 with md := 1, c := 3, d := 10 }),
    (8, 0x7000000005D95, .collCancel { f0 with d := 5 })] = true := by decide +kernel

theorem test_decode_launch : decodesTo [
    (8, 0x807000001003E01, .lnch { f0 with set := 2, a := 8, d := 3 }),
    (8, 0x7000030805E05, .lcancel { f0 with a := 388, d := 5 }),
    (8, 0x7000000606E09, .lquery { f0 with a := 3, d := 6 }),
    (8, 0x2007030000002E61, .regqImm { f0 with md := 1, c := 6, d := 2 }),
    (8, 0x7000030C02E61, .regqReg { f0 with a := 390, d := 2 }),
    (8, 0x702810000AE81, .tfill { f0 with c := 5, b := 4, d := 10 }),
    (8, 0x70000803C0E85, .tinv { f0 with b := 2, a := 1, d := 448 }),
    (8, 0x7000000401E89, .tprobe { f0 with a := 2, d := 1 }),
    (8, 0x7000080200E8D, .treplayReg { f0 with b := 2, a := 1 }),
    (8, 0x200700F000000E8D, .treplayImm { f0 with md := 1, c := 1, b := 448 }),
    (8, 0x7000000000E91, .hret f0),
    (8, 0x2007000000600E95, .csave { f0 with md := 1, a := 3 }),
    (8, 0x2007018080600E99, .crestore { f0 with md := 1, c := 3, b := 2, a := 3 }),
    (8, 0x7000080200E9D, .sreply { f0 with b := 2, a := 1 })] = true := by decide +kernel
/-- Words that the decoder refuses: LEN 11, unassigned OP6 and major opcodes, MOD, SET, reserved fields (R79). -/
theorem test_decode_refuses : ([(4, 0x00000703), (4, 0x00000734), (8, 0x0007000000000F01), (8, 0x0007000000000B35),
    (8, 0x800700000020201D), (8, 0x1C07000000202301), (8, 0x0007008000202015), (8, 0x0007000000002581), (12, 0x0007000000000BC6),
    (4, 0x0000002D), (8, 0x0007007B40201101)].map (fun x : Nat × Nat => match decode (leBytes x.1 x.2) with
      | .ok _ => true
      | .error _ => false)) = List.replicate 11 false := by decide +kernel

/-- The bits above `nbits` are 0, and the first word is the least significant. -/
theorem test_decodeTableWord : decodeTableWord 32 0x00012704 = some (.bra { g0 with body := 18 }) ∧
    decodeTableWord 64 0x000700600020201D = some (.addInt .n64 { f0 with b := 384, a := 1, d := 2 }) ∧
    decodeTableWord 8 0x03 = none := by decide +kernel

/-! ### Single steps: one lane runs one instruction from reset, with given v registers -/

/-- The state after one step that fetches and runs a word, from reset with v registers of lane 0 of warp 0. -/
def after (bits w : Nat) (regs : List (Nat × Word)) : State :=
  match step ({ State.reset with vregs := regs }.withFetchWord bits w) with
  | .next t => t
  | _ => State.reset

/-- Whether each word leaves its value in its v register, its sticky flags, and the thread at the next instruction. -/
def runsTo (xs : List (Nat × Nat × List (Nat × Word) × Nat × Word × BitVec 9)) : Bool :=
  xs.all (fun (bits, w, regs, d, x, fl) =>
    let t := after bits w regs
    t.v 0 0 d == x && (t.warp 0).flags == fl && (t.thread 0 0).pc.toNat == bits / 8)

theorem test_step_arith : runsTo [
    (64, 0x40070000C0401001, [(2, 0x7F), (3, 0x1)], 1, 0x7F, 128), -- R119: 127 + 1 saturates to 127
    (64, 0x70000C0401001, [(2, 0x7F), (3, 0x1)], 1, 0x80, 0), -- R119: 127 + 1 wraps
    (64, 0x40070000C040102D, [(2, 0x3), (3, 0x5)], 1, 0x0, 128), -- R119: sub.sat.n16x4, 3 - 5
    (64, 0x80070000C040105D, [(2, 0x100000000), (3, 0x100000000)], 1, 0x1, 0), -- R119: mul.hi.n64
    (64, 0x80070000C0401059, [(2, 0xFFFFFFFFFFFFFFFF), (3, 0xFFFFFFFFFFFFFFFF)], 1, 0x0, 0), -- R119: mul.hi.i64 of -1 and -1
    (64, 0x40070000C0401051, [(2, 0x10000), (3, 0x10000)], 1, 0x7FFFFFFF, 128), -- R119: mul.sat.i32x2
    (64, 0x40070200C0401061, [(2, 0x64), (3, 0x2), (4, 0x9C)], 1, 0x64, 0), -- R119: mad.sat.i8x8, one clamp
    (64, 0x70000C0401081, [(2, 0x80), (3, 0x1)], 1, 0x80, 0), -- R119: min.i8x8
    (64, 0x70000C0401085, [(2, 0x80), (3, 0x1)], 1, 0x1, 0), -- R119: min.n8x8
    (64, 0x70000C04010B9, [(2, 0xFFFFFFFFFFFFFFFF), (3, 0x1)], 1, 0x1, 0), -- max.i64 of -1 and 1
    (64, 0x40070000004010C1, [(2, 0x80)], 1, 0x7F, 128), -- R119: abs.sat.i8x8 of -128
    (64, 0x70000004010F9, [(2, 0x8000000000000000)], 1, 0x8000000000000000, 0), -- R119: neg.i64 of -2^63
    (64, 0x2007FF8000401019, [(2, 0x5)], 1, 0x4, 0) -- R113: add.i64 with immediate 0x1FF adds -1
    ] = true := by decide +kernel

theorem test_step_logic : runsTo [
    (64, 0x70000C0401101, [(2, 0xF0F0), (3, 0xFF00)], 1, 0xF000, 0), -- and
    (64, 0x70000C040110D, [(2, 0xF0F0), (3, 0xFF00)], 1, 0xF0, 0), -- andn
    (96, 0x800000000007007040401106, [(2, 0x1)], 1, 0x80000001, 0), -- orB with a literal, zero-extended
    (64, 0x70000C0401109, [(2, 0xFF), (3, 0xF)], 1, 0xF0, 0), -- xor
    (64, 0x7000000401111, [], 1, 0xFFFFFFFFFFFFFFFF, 0), -- not
    (64, 0x70000C0401121, [(2, 0xFF), (3, 0x8)], 1, 0x0, 0), -- R122: a count of the width gives zeros
    (64, 0x70000C040114D, [(2, 0x8000000000000000), (3, 0xC8)], 1, 0xFFFFFFFFFFFFFFFF, 0), -- R122: sar by more than the width gives the sign
    (64, 0x70000C0401139, [(2, 0x8000000080000000), (3, 0x400000008)], 1, 0x800000000800000, 0), -- shr.b32x2, a count for each half
    (64, 0x70000C0401151, [(2, 0x81), (3, 0x9)], 1, 0x3, 0), -- R122: rot reduces its count
    (64, 0x7020000401165, [(2, 0x1C0000000), (4, 0x31E)], 1, 0xFFFFFFFFFFFFFFFF, 0), -- R123: bfx.i64, p = 30, n = 3
    (64, 0x7020000401161, [(2, 0x8000000000000000), (4, 0x7F3F)], 1, 0x1, 0), -- R123: bfx.n64, length cut at bit 63
    (64, 0x70200C0401169, [(2, 0xFFFFFFFFFFFFFFFF), (4, 0x808)], 1, 0xFFFFFFFFFFFF00FF, 0), -- R123: bfi
    (64, 0x700000040116D, [(2, 0xFFFFFFFFFFFFFFFF)], 1, 0x40, 0), -- popc
    (64, 0x7000000401171, [], 1, 0x40, 0), -- R121: clz of 0
    (64, 0x7000000401175, [(2, 0x1)], 1, 0x8000000000000000, 0), -- brev
    (64, 0x20071F00C0401179, [(2, 0xC000000000000000), (3, 0x5)], 1, 0x17, 0) -- R124: shrf joins two words
    ] = true := by decide +kernel

theorem test_step_select : runsTo [
    (64, 0x70380C04012C1, [(2, 0xA), (3, 0x14)], 1, 0xA, 0), -- sel naming p7 takes A
    (64, 0x70080C04012C1, [(2, 0xA), (3, 0x14)], 1, 0x14, 0), -- sel on a false predicate takes B
    (64, 0x70200C04012C5, [(2, 0xFF), (3, 0xFF00), (4, 0xF)], 1, 0xFF0F, 0), -- selm
    (64, 0x70000C0401309, [(2, 0xFFFFFFFFFFFFFFF9), (3, 0x2)], 1, 0xFFFFFFFFFFFFFFFD, 0), -- R131: -7 / 2
    (64, 0x70000C0401319, [(2, 0xFFFFFFFFFFFFFFF9), (3, 0x2)], 1, 0xFFFFFFFFFFFFFFFF, 0), -- R131: -7 rem 2
    (64, 0x70000C040130D, [(2, 0x7)], 1, 0xFFFFFFFFFFFFFFFF, 32), -- R131: 7 / 0
    (64, 0x70000C0401309, [(2, 0x8000000000000000), (3, 0xFFFFFFFFFFFFFFFF)], 1, 0x8000000000000000, 64), -- R131: -2^63 / -1
    (64, 0x70000C0401305, [(2, 0x900000007), (3, 0x300000000)], 1, 0x3FFFFFFFF, 32), -- R131: div.n32x2 with (7, 9) / (0, 3)
    (64, 0x70000C0404329, [(2, 0x7), (3, 0x2)], 5, 0x1, 0), -- R129: divm writes the remainder to D + 1
    (64, 0x20070180C0401381, [(2, 0x5), (3, 0x2)], 1, 0x15, 0), -- lea
    (96, 0x123456780007000000401386, [(2, 0xFFFFFFFF9ABCDEF0)], 1, 0x123456789ABCDEF0, 0), -- mvh
    (96, 0x80000000000700000000138A, [], 1, 0xFFFFFFFF80000000, 0), -- mvs
    (64, 0x7000038401B25, [(1, 0x63)], 1, 0x0, 0) -- mov of a special: %lane
    ] = true := by decide +kernel

theorem test_step_float : runsTo [
    (64, 0x70000C0401401, [(1, 0xFFFFFFFFFFFFFFFF), (2, 0x3F800000), (3, 0x40000000)], 1, 0x40400000, 0), -- 1 + 2
    (64, 0x70000C0401401, [(2, 0x7F800000), (3, 0xFF800000)], 1, 0x7FC00000, 1), -- R136: +Inf + -Inf
    (64, 0x70000C0401411, [(2, 0x3F800000), (3, 0xFFC00001)], 1, 0xFFC00001, 0), -- R136: sub of 1.0 and 0xFFC00001
    (64, 0x70000C0401421, [(3, 0x7F800000)], 1, 0x7FC00000, 1), -- R136: 0 * Inf
    (64, 0x70200C0401431, [(2, 0x3F800001), (3, 0x3F800001), (4, 0xBF800002)], 1, 0x28800000, 0), -- R136: fma rounds once
    (64, 0x60070200C0401431, [(2, 0x40000000), (3, 0x40400000), (4, 0xC0C00000)], 1, 0x80000000, 0), -- R136: 2 * 3 + (-6) in RDN is -0
    (64, 0x70200C0401441, [(2, 0x40000000), (3, 0x40400000), (4, 0x40E00000)], 1, 0x3F800000, 0), -- fnma: -(2 * 3) + 7
    (64, 0x70000C040140D, [(2, 0x3F80), (3, 0x3B80)], 1, 0x3F80, 16), -- R136: add.bf16x4, a tie to even
    (64, 0x70000C0401511, [(3, 0x80000000)], 1, 0x0, 0), -- R140: max of +0 and -0
    (64, 0x70000C0401501, [(3, 0x80000000)], 1, 0x80000000, 0), -- R138: min of -0 and +0
    (64, 0x7000000401539, [(2, 0x1)], 1, 0x20, 0), -- R140: fclass.bf16 of 0x0001
    (64, 0x7000000401531, [(2, 0x7F800001)], 1, 0x100, 0) -- R140: fclass.f32 of a signalling NaN
    ] = true := by decide +kernel

theorem test_step_special : runsTo [
    (64, 0x7000000401609, [(2, 0x3F000000)], 1, 0x3FB504F3, 16), -- R142: fexpf of 0.5
    (64, 0x7000000401609, [(2, 0xBF000000)], 1, 0x3F3504F3, 16), -- R142: fexpf of -0.5
    (64, 0x70000C0401611, [(2, 0x3FC00000), (3, 0xFFFFFF74)], 1, 0x300, 0), -- R142: fscale of 1.5 by -140
    (64, 0x70000C0401611, [(2, 0x3FC00000), (3, 0xFFFFFF6B)], 1, 0x2, 24), -- R142: fscale of 1.5 by -149
    (64, 0x7000000401601, [(2, 0xBE99999A)], 1, 0x80000000, 0), -- R142: frnd of -0.3 is -0
    (64, 0x7000000401619, [(2, 0x40800000)], 1, 0x3E800000, 0), -- frcp of 4
    (64, 0x7000000401619, [(2, 0x80000000)], 1, 0xFF800000, 2), -- R142: frcp of -0
    (64, 0x7000000401621, [(2, 0x40800000)], 1, 0x3F000000, 0), -- frsqrt of 4
    (64, 0x7000000401629, [(2, 0x41100000)], 1, 0x40400000, 0), -- fsqrt of 9
    (64, 0x7000000401631, [(2, 0x41000000)], 1, 0x40400000, 0), -- R142: flog2 of 8
    (64, 0x7018040401681, [(2, 0xFF80000043960000)], 1, 0xFF790000, 17), -- R146: cvt.e4m3.f32, group 1
    (64, 0x7100040401681, [(2, 0x3FB5C04000000000)], 1, 0x3FB50000C0400000, 0), -- R146: cvt.f32.bf16, group 1
    (64, 0x72D0000401681, [(2, 0xFFFFFFFB)], 1, 0x0, 128), -- R146: cvt.n8.i32 of -5
    (64, 0x74D8000401681, [(2, 0x7F)], 1, 0x7, 128), -- R146: cvt.i4.i8 of 0x7F
    (64, 0x7600000401681, [(2, 0x2)], 1, 0x0, 256), -- R146: cvt.f32.t2 of 0b10
    (64, 0x7288000401681, [(2, 0x11170)], 1, 0x7C00, 20), -- R146: cvt.f16.i32 of 70000
    (64, 0x2007028000401681, [(2, 0xC06CCCCD)], 1, 0xFFFFFFFD, 16) -- R146: cvt.i32.f32 of -3.7 in RTZ
    ] = true := by decide +kernel

theorem test_step_lanes : runsTo [
    (64, 0x2007100000401709, [(2, 0xAAAA0000BBBB)], 1, 0xAAAA0000AAAA, 0), -- R155: shfl of lane 0, sub-element 1
    (64, 0x2007000000401711, [(2, 0x7)], 1, 0x7, 0), -- bcast from lane 0
    (64, 0x7000000401729, [(2, 0x40490FDB)], 1, 0x40490FDB, 0), -- R156: red.add.f32 with one live lane gives its value
    (64, 0x7000000401721, [(2, 0x300000004)], 1, 0x7, 0), -- red.add.b32x2 sums over the positions
    (64, 0x8007000000401721, [(2, 0x300000004)], 1, 0x300000004, 0), -- red.add.b32x2.lanes keeps the positions
    (64, 0x7000000401749, [(2, 0x5)], 1, 0x5, 0), -- red.min.i64 over the identity
    (64, 0x7000000401781, [(2, 0xF0)], 1, 0xF0, 0), -- red.and over the identity
    (64, 0x6007000000E01715, [], 1, 0x1, 0) -- pmask of p7 in the one live lane
    ] = true := by decide +kernel

theorem test_step_memory : runsTo [
    (64, 0x2007000000401809, [], 1, 0x401809, 0), -- ld.g.b32 reads the code word at 0
    (64, 0x2007FC0000401815, [(2, 0x9)], 1, 0x18, 0), -- ld.g.i8 with an offset of -8 reads byte 1 of the code
    (64, 0x70000C0401901, [(2, 0x1000), (3, 0x1)], 1, 0x0, 0), -- atom.add.n32 returns the old word
    (64, 0x2007020000001B81, [(1, 0x9)], 1, 0x0, 0), -- mfsr of SPBASE
    (64, 0x2007018000001D01, [], 1, 0x40000000000000, 0), -- R231: xquery of an empty channel: four places free
    (64, 0x7000000001C19, [], 1, 0x4, 0) -- R276: cube.query of an empty queue: four places free
    ] = true := by decide +kernel
/-- Whether each word raises its cause in the one thread, with its ADDR, the thread standing at its PC. -/
def raisesTo (xs : List (Nat × Nat × List (Nat × Word) × Nat × Word × Word)) : Bool :=
  xs.all (fun (bits, w, regs, bit, va, pc) =>
    let t := after bits w regs
    (t.warp 0).cause == 1#32 <<< bit && (t.warp 0).syncNew && (t.thread 0 0).raised && (t.thread 0 0).faultVa == va &&
      (t.thread 0 0).pc == pc)

theorem test_step_causes : raisesTo [
    (64, 0x0007000000000F01, [], causeIllegal, 0, 0),                     -- an unassigned opcode (R79)
    (64, 0x0007000000000E91, [], causePriv, 0, 0),                        -- hret outside the supervisor warp (R79)
    (64, 0x2007000000401809, [(2, 2)], causeAlign, 2, 0),                 -- ld.g.b32 at 2 (R26)
    (64, 0x2007000000401801, [(2, 2 ^ 56)], causeBounds, 2 ^ 56, 0),      -- ld.g.b8 at 2^56 (R26)
    (64, 0x2007000000401821, [(2, 0)], causeBounds, 0, 0),                -- ld.b.b8 of a workgroup without bench (R11)
    (64, 0x20070080004008C5, [], causeStack, 0, 0),                       -- push with no spill area (R150)
    (32, 0x00007728, [], causeTrap, 0, 4),                                -- trap 7: the next PC (R177)
    (64, 0x0007000000000BC5, [], causeIllegal, 0, 0),                     -- tret outside a handler (R203)
    (64, 0x2007000000002E61, [], causeRegquota, 0, 0),                    -- regq of 0 units (R44)
    (32, 0x0000071C, [], causeBounds, 0, 0),                              -- bar.arrive with no entry (R167)
    (32, 0x00A00730, [(5, 2)], causeAlign, 2, 0),                         -- jmp to 2 (R151)
    (32, 0x00A00730, [(5, 2 ^ 56)], causeBounds, 2 ^ 56, 0)               -- jmp to 2^56 (R151)
    ] = true := by decide +kernel

/-- Control: the PC of the one thread after a step (R63, R67, R77, R151). -/
theorem test_step_control : ((after 32 0x00012704 []).thread 0 0).pc = 72 ∧ ((after 32 0x00000700 []).thread 0 0).pc = 4 ∧
    ((after 32 0x00A00730 [(5, 64)]).thread 0 0).pc = 64 ∧ ((after 32 0x00A00130 [(5, 64)]).thread 0 0).pc = 4 ∧
    ((after 96 0x000000100007000000000B06 []).thread 0 0).pc = 64 := by decide +kernel

/-- `exit` ends the thread; `yield` leaves the ready set (R33, R36). -/
theorem test_step_exit : ((after 32 0x00000710 []).thread 0 0).live = false ∧
    ((after 32 0x00000714 []).thread 0 0).wait = .formation := by decide +kernel

/-- A compare writes its predicate: 0xFF is below 1 as `.i8` and not as `.n8`; p7 takes no write (R73, R127). -/
theorem test_step_compare : ((after 64 0x00070000C0402241 [(2, 0xFF), (3, 1)]).thread 0 0).preds = 4 ∧
    ((after 64 0x00070000C0402245 [(2, 0xFF), (3, 1)]).thread 0 0).preds = 0 ∧
    ((after 64 0x00070000C0407241 [(2, 0xFF), (3, 1)]).thread 0 0).preds = 0 := by decide +kernel

/-- A store of scope `.wg` waits at the core's memory port and changes no byte yet; at `.die` it is home (R178). -/
theorem test_step_store : (after 64 0x20070000C0400861 [(2, 64), (3, 5)]).port.length = 1 ∧
    (after 64 0x20070000C0400861 [(2, 64), (3, 5)]).devBytes 64 1 = [0] ∧
    (after 64 0x00070500C0400861 [(2, 64), (3, 5)]).devBytes 64 1 = [5] := by decide +kernel

/-! ### Witnesses: for each statement with hypotheses, states and operands that meet them

A witness checks, by evaluation, every hypothesis of a clause on one state. `ready` checks those of an instruction that
issues; `ready_spec` says that it means what the statements assume. -/

/-- The conditions of `Issues`, evaluated. -/
def issuesHere (h : Hdr) (s : State) : Bool :=
  !(issuing s).isEmpty && s.cur.lanes.all (fun l => decide (l < 32)) && decide s.cur.lanes.Nodup &&
  !(s.warp s.cur.warp).held && (!h.priv || isSup s.cur.warp) && decide (h.vTop ≤ 32 * (s.warp s.cur.warp).units.length) &&
  (issuing s).all (fun l => (s.thread s.cur.warp l).slots &&& slotMask s h s.cur.warp l == 0) &&
  ((guarded h s).isEmpty || !h.dests.any (bholdLocked s s.cur.warp)) &&
  (!h.coll || (s.liveLanes s.cur.warp).all (fun l => (issuing s).contains l))

/-- A well-formed instruction issues, in these guard-true lanes. -/
def ready (i : Instr) (h : Hdr) (s : State) (ls : List Nat) : Bool := i.wf && issuesHere h s && decide (guarded h s = ls)

theorem ready_spec {i : Instr} {h : Hdr} {s : State} {ls : List Nat} (hr : ready i h s ls = true) :
    i.wf = true ∧ Issues h s ∧ guarded h s = ls := by
  simp only [ready, issuesHere, Bool.and_eq_true, Bool.or_eq_true, Bool.not_eq_true', decide_eq_true_eq, List.all_eq_true,
    beq_iff_eq, List.isEmpty_eq_false_iff, List.contains_iff_mem] at hr
  obtain ⟨⟨hw, ⟨⟨⟨⟨⟨⟨⟨⟨h1, h2⟩, h3⟩, h4⟩, h5⟩, h6⟩, h7⟩, h8⟩, h9⟩⟩, hg⟩ := hr
  refine ⟨hw, ⟨h1, h2, h3, h4, fun hp => ?_, h6, h7, fun hne => h8.resolve_left (by simpa using hne), fun hc => ?_⟩, hg⟩
  · simpa [hp] using h5
  · simpa [hc] using h9

/-- Whether checks come to an access that goes on, with a state and places that satisfy `p`. -/
def passes (c : Chk) (p : State → List Got → Bool) : Bool :=
  match c with
  | .ok s gs => p s gs
  | _ => false

/-- Whether an event leads to a next state that satisfies `p`. -/
def nexts (o : Host.Outcome State Fault Refusal) (p : State → Bool) : Bool :=
  match o with
  | .next t => p t
  | _ => false

/-- A workgroup of one warp with bench, accumulator, two barrier entries and a set. -/
def wg1 : Workgroup :=
  { (default : Workgroup) with
    phase := .resident, launch := 5, owner := 0, warps := [0], benchLen := 4096, accKiB := 32, bars := [0, 1],
    free := [1, 0, 0, 0], freeUnits := [12], sets := [9] }

/-- A set instance of that workgroup, co-resident, with a barrier. -/
def set9 : SetInst :=
  { (default : SetInst) with live := true, launch := 5, co := true, members := [0], expA := 1, entry := some (0, 5) }

/-- A running launch and a running owner. -/
def launch5 : Launch := { (default : Launch) with state := .running, owner := 0 }
def range0 : FrameRange := { tier := 0, base := 0, len := 2 ^ 24, r := true, w := true, x := true, ifc := 0 }
def owner0 : Owner :=
  { (default : Owner) with
    live := true, handle := 77, state := .running, cores := [0], ranges := [range0],
    marvBase := [0, 0, 0, 0], marvBytes := 2 ^ 20, rbase := 2 ^ 40, rsize := 2 ^ 24 }

/-- The owner's reserve: a pinned page at its virtual base, and the words of its directory (R339): handler entries, template
and origin tables, a fault queue of 64 entries, handler frames, save frames and a spill pool. -/
def reservePage : TlbEntry := { placePage with va := 2 ^ 40, frame := 2 ^ 29, size := 2, pin := true }
def directory : List (Nat × Nat) :=
  [(2, 2 ^ 40 + 0x100000), (3, 2 ^ 40 + 0x101000), (4, 2 ^ 40 + 0x102000), (5, 2 ^ 40 + 0x103000), (6, 2 ^ 40 + 0x104000),
   (7, 0x200000), (8, 0x280000), (9, 0x300000), (10, 64), (11, 0x400000), (12, 0x500000), (17, 0x8000), (18, 0x1000)]

/-- Lane 0 of warp 0 of that workgroup at PC 0 of a page at address 0, with an empty spill stack of four words at 0x8000. -/
def base : State :=
  let s := State.reset.placeCode []
  { s with
    issueQ := [], cur := { warp := 0, pc := 0, lanes := [0], lead := true }
    warps := s.warps.set 0 { placeWarp with units := [0, 1, 2, 3], spBase := 0x8000, spLen := 1024 }
    wgs := [(1, wg1)], sets := [(9, set9)], launches := [(5, launch5)], owners := [(0, owner0)]
    tlb := s.tlb.set (tlbPinned 0) [reservePage]
    mem := directory.foldl (fun (m : Memory) x => SMap.setRange (α := BitVec 8) m (2 ^ 29 + 8 * x.1) (leBytes 8 x.2)) s.mem }

/-- Two lanes stand there, one of them with p1 true. -/
def base2 : State :=
  let s := base.setThread 0 1 (fun t => { t with live := true, preds := 2 })
  { s with cur := { s.cur with lanes := [0, 1] } }

/-- The supervisor warp of core 0 at the same PC, in a walk invocation. -/
def inv0 : Invocation :=
  { (default : Invocation) with owner := 0, kind := .walk, depth := 1, items := [{ key := 3, va := 0x30000, word := 0, ended := false }] }
def supBase : State :=
  let s := base.setThread 8 0 (fun t => { t with live := true })
  { s with
    cur := { warp := 8, pc := 0, lanes := [0], lead := true }
    warps := s.warps.set 8 { (default : Warp) with live := true, owner := 0, units := [0, 1] }
    cores := [(0, { (default : Core) with inv := some inv0 })] }

/-- Registers of lane 0 of the warp at the focus. -/
def withRegs (s : State) (rs : List (Nat × Word)) : State := rs.foldl (fun s r => s.setV s.cur.warp 0 r.1 r.2) s

theorem witness_FetchReadsMemory : (!(issuing base).isEmpty && decide (tlbFind base (tlbQuad 0) 0 0 .exec = some placePage) &&
    decide (placePage.tier ≠ 2 ∧ 12 ≤ placePage.bytes) && (List.range 12).all (fun k => (homeOf k).isSome) &&
    (List.range 3).all (fun k => decide (base.icache.get k = []))) = true := by decide +kernel

/-- Encodable well-formed instructions of each length, and bytes that decode. -/
theorem witness_EncodeDecodeRoundTrip_DecodedBytesEncodeBack :
    ([Instr.bra { g0 with body := 18 }, .addInt .n64 { f0 with a := 1, b := 511 - 127, d := 383 }, .mvs { f0 with lit := some 1 }].all
      (fun i => i.wf && ((shortForm i).isSome || (longForm i).isSome)) &&
    decodesTo [(4, 0x00012704, .bra { g0 with body := 18 })]) = true := by decide +kernel

/-- What `StepRunsDecoded` assumes of a state, with what the focus fetches. -/
def stepsHere (s : State) (p : State → Fetched → Bool) : Bool :=
  s.agenda.isEmpty && !haltedModule s && match liveParts s with
    | f :: r => let u := { s with issueQ := r, cur := f }; !trialHolds u && p u (fetch u)
    | [] => false

def decodesHere (s : State) (p : State → Instr → Bool) : Bool :=
  stepsHere s (fun _ x => match x with
    | .code t bs => (match decode bs with
      | .ok (i, _) => (breakPart t i).isNone && p t i
      | .error _ => false)
    | _ => false)

/-- A page beyond lane 0's first that leads to an address without memory. -/
def holePage : TlbEntry := { placePage with va := 0x10000, frame := 96 * 2 ^ 30 }

theorem witness_StepRunsDecoded : ([
    -- a wait on a slot that is set: no lane issues
    decodesHere ((State.reset.withFetchWord 32 0x00001718).setThread 0 0 (fun t => { t with slots := 1 }))
      (fun t i => nexts (exec i t) (fun u => issuedLanes t u == [])),
    -- a nop: the lane issues
    decodesHere (State.reset.withFetchWord 32 0x00000700)
      (fun t i => nexts (exec i t) (fun u => issuedLanes t u == [0] && nexts (exec i (t.noteIssue [0])) (fun _ => true))),
    -- a load of an address without memory
    decodesHere { (withRegs (State.reset.withFetchWord 64 0x2007000000401801) [(2, 0x10000)]) with
        tlb := [(tlbQuad 0, [placePage, holePage])] }
      (fun t i => match exec i t with
        | .fault _ => true
        | _ => false)]).all id = true := by decide +kernel

theorem witness_WhatRunsInPlaceOfAnInstruction : ([
    stepsHere (State.reset.withFetchWord 64 0xF01) (fun _ x => match x with
      | .code _ bs => (match decode bs with
        | .error _ => true
        | _ => false)
      | _ => false),
    stepsHere { (base.withFetchWord 64 0xF01) with tlb := [(tlbPinned 0, [reservePage])] } (fun _ x => match x with
      | .hold u => u.absent == none
      | _ => false),
    stepsHere { (State.reset.withFetchWord 64 0xF01) with issueQ := [{ warp := 0, pc := 2 ^ 56, lanes := [0], lead := true }]
                                                          threads := [(0, { (default : Thread) with live := true, pc := 2 ^ 56 })] }
      (fun _ x => match x with
        | .fault _ => true
        | _ => false),
    stepsHere { (State.reset.withFetchWord 32 0x00000700) with
        sessions := [(0, { (default : Session) with live := true, bps := [(0, 1, 0)] })] } (fun _ x => match x with
      | .code t bs => (match decode bs with
        | .ok (i, _) => breakPart t i == some t.cur && nexts (exec (.breakpointMatch 0 (laneMask (breakLanes t i))) t) (fun _ => true)
        | _ => false)
      | _ => false),
    issuing base == [0] && !(base.warp 0).held,
    let s := { base with cur := { base.cur with pc := 2 ^ 56 } }.setThread 0 0 (fun t => { t with pc := 2 ^ 56 })
    issuing s == [0] && decide (2 ^ 56 ≤ s.cur.pc.toNat),
    match fetch base with
      | .code u _ => u.absent == none
      | _ => false]).all id = true := by decide +kernel

/-- Headers of one instruction that run into each of the checks that come first. -/
def nopHdr : Hdr := hdrOf (.nopTwin f0) f0

theorem witness_IssueRulesAndFlagTraps : ([
    issuing base == [0] && !(base.warp 0).held && !isSup base.cur.warp,
    decide (¬ (129 ≤ 32 * (base.warp 0).units.length)),
    decide (((base.setThread 0 0 (fun t => { t with slots := 1 })).thread 0 0).slots &&&
      slotMask (base.setThread 0 0 (fun t => { t with slots := 1 })) { nopHdr with wait := 1 } 0 0 ≠ 0),
    !nopHdr.coll && !nopHdr.dests.any (bholdLocked base 0) && guarded { nopHdr with pred := 1 } base == [],
    let s := { base2 with cur := base.cur }
    issuing s == [0] && (s.liveLanes 0).any (fun k => k != 0 && (s.thread 0 k).wait != .rendezvous),
    let s := withRegs (base.setWarp 0 (fun x => { x with fen := 0x80 })) [(2, 0x7F), (3, 1)]
    let f : F64 := { f0 with md := 2, d := 1, a := 2, b := 3 }
    ready (.addInt .i8x8 f) (hdrOf (.addInt .i8x8 f) f) s [0] && issuing s == [0] && f.md.getLsbD 1 &&
      (s.warp 0).fen.getLsbD 7 && clampInt true 8 (intA .i8x8 f s 0 0 + intSecond .i8x8 f s 0 0) != 128]).all id = true := by
  decide +kernel

theorem witness_StepKeepsWellFormed :
    (let s := State.reset.withFetchWord 32 0x00000700
     Memory.wf s.mem && s.absent == none && s.cur.ok && s.issueQ.all Focus.ok && nexts (step s) (fun _ => true)) = true := by
  decide +kernel

/-- The same for lists of instructions with their headers. -/
def readyAll (s : State) (ls : List Nat) (xs : List (Instr × Hdr)) : Bool := xs.all (fun x => ready x.1 x.2 s ls)

/-- Instructions that share fields, each with its own header. -/
def with64 (f : F64) (is : List (F64 → Instr)) : List (Instr × Hdr) := is.map (fun i => (i f, hdrOf (i f) f))

/-- Sources v2, v3, v4 and destination v1. -/
def bin : F64 := { f0 with d := 1, a := 2, b := 3 }
def ter : F64 := { bin with c := 4 }
def una : F64 := { f0 with d := 1, a := 2 }

theorem witness_IntegerArithmetic : (readyAll base [0]
    (with64 bin [.addInt .n64, .subInt .i8x8, .mulInt .i16x4, .minInt .n32x2, .maxInt .i64] ++ with64 ter [.mad .n64] ++
     with64 una [.abs .i8x8, .neg .i64]) && readyAll base2 [0, 1] (with64 bin [.addInt .n64])) = true := by decide +kernel

theorem witness_BitwiseLogic : readyAll base [0]
    (with64 bin [.andB, .orB, .xorB, .andnB] ++ with64 una [.notB, .popc, .clz, .brev]) = true := by decide +kernel

theorem witness_ShiftsAndBitFields : readyAll base [0]
    (with64 bin [.shl .b8x8, .shr .b16x4, .sar .b32x2, .rot .b64] ++ with64 { una with c := 4 } [.bfx false, .bfx true] ++
     with64 ter [.bfi, .shrf]) = true := by decide +kernel

theorem witness_ComparesSelectsAndMoves : (readyAll base [0]
    (with64 bin [.cmp .lt .i8, .sel, .pand, .por, .pxor, .pandn] ++ with64 ter [.selm] ++ with64 { bin with md := 1 } [.lea] ++
     with64 { una with lit := some 5 } [.mvh] ++ with64 { f0 with d := 1, lit := some 5 } [.mvs] ++ with64 una [.movTwinReg] ++
     with64 { f0 with md := 1, d := 1, c := 5 } [.movTwinImm] ++ with64 { una with a := 449, lit := some 5 } [.movTwinLit] ++
     with64 { f0 with md := 1, d := 1 } [.mfsr]) &&
    ready (.mov { g0 with body := 1 + 512 * 2 }) (hdrOf32 (.mov { g0 with body := 1 + 512 * 2 }) { g0 with body := 1 + 512 * 2 })
      base [0]) = true := by decide +kernel

theorem witness_FloatArithmeticAndCompare : (readyAll base [0]
    (with64 bin [.addFloat .f32, .subFloat .f32x2, .mulFloat .f16x4, .minFloat .bf16x4, .maxFloat .f32] ++
     with64 ter [.fma .f32, .fnma .f32] ++ with64 una [.fclass .f16] ++ with64 { bin with md := 2 } [.fcmp .f32]) &&
    -- a comparison of a NaN with the trap of INVALID enabled
    (let s := withRegs (base.setWarp 0 (fun x => { x with fen := 1 })) [(2, 0x7FC00000)]
     readyAll s [0] (with64 { bin with md := 2 } [.fcmp .f32]) && isNanF .f32 (srcAt s bin 0 32 1 false 2 0))) = true := by
  decide +kernel

theorem witness_FloatSpecialValues : (isNanF .f32 0x7FC00000 && isSnan .f32 0x7F800001 && !isNanF .f32 0x3F800000 &&
    decide (0x3F800000 % Fmt.signBit .f32 ≠ Fmt.infCode .f32 ∧ 0x3F800000 % Fmt.signBit .f32 ≠ 0)) = true := by decide +kernel

theorem witness_RoundingIsCorrect : ([(1, (0 : Int)), (2 ^ 25 + 1, 0), (3, -151)].all (fun x =>
    !(roundF .f32 .rne false x.1 x.2 false).2.getLsbD 2)) = true := by decide +kernel

theorem witness_Division : (readyAll base [0] (with64 bin [.div .i64, .rem .n64, .divm .i32x2]) &&
    readyAll base [0] (with64 { bin with set := 6 } [.div .i64, .rem .n64, .divm .i32x2])) = true := by decide +kernel

theorem witness_SpecialFunctionsAndConversions : [0, 1].all (fun k : BitVec 3 => readyAll base [0]
    (with64 { una with set := k } [.frnd true, .fexpf false, .frcp true, .frsqrt false, .fsqrt true, .flog2 false] ++
     with64 { bin with set := k } [.fscale true] ++ with64 { una with set := k, c := 0x10 } [.cvt])) = true := by decide +kernel

/-- Warp-collective instructions that share fields. -/
def lanes64 (f : F64) (is : List (F64 → Instr)) : List (Instr × Hdr) := is.map (fun i => (i f, laneHdr (i f) f))

theorem witness_CrossLaneAndReductions : (readyAll base2 [0, 1]
    (lanes64 bin [.shfl .b32x2, .bcast] ++ lanes64 una [.ptestSome] ++ lanes64 { una with md := 1 } [.ptestEvery] ++
     lanes64 { una with md := 2 } [.ptestAlike] ++ lanes64 { una with md := 3 } [.pmask] ++ lanes64 { f0 with d := 1 } [.elect] ++
     lanes64 una ([.redAnd, .redOr, .redXor] ++ [.redAdd .b32x2, .redAdd .b64, .redAdd .f32, .redAdd .f32x2, .redAdd .f16x4, .redAdd .bf16x4] ++
       [.redMin .i32x2, .redMin .n32x2, .redMin .i64, .redMin .n64, .redMin .f32, .redMin .f32x2] ++
       [.redMax .i32x2, .redMax .n32x2, .redMax .i64, .redMax .n64, .redMax .f32, .redMax .f32x2])) &&
    ready (.ptestSome { una with pred := 1 }) (laneHdr (.ptestSome { una with pred := 1 }) { una with pred := 1 }) base2 [1])
    = true := by decide +kernel

/-- 32-bit instructions with their headers. -/
def with32 (g : F32) (is : List (F32 → Instr)) : List (Instr × Hdr) := is.map (fun i => (i g, hdrOf32 (i g) g))
/-- The same instructions with a change of each header. -/
def adj (k : Hdr → Hdr) (xs : List (Instr × Hdr)) : List (Instr × Hdr) := xs.map (fun x => (x.1, k x.2))

/-- Two lanes of which lane 1 alone has p1 true. -/
def p1 : F64 := { f0 with pred := 1 }

theorem witness_NopWaitYieldAndExit : ([
    readyAll base [0] (with32 g0 [.nop, .yield] ++ with64 { f0 with wait := 63 } [.nopTwin, .yieldTwin, .waitTwin] ++
      adj (fun h => { h with wait := 1 }) (with32 { g0 with body := 1 } [.wait])),
    readyAll base2 [1] (with64 p1 [.yieldTwin, .nopTwin]),
    let h : Hdr → Hdr := fun h => { h with drain := true, rel := some scopeSys }
    readyAll base2 [1] (adj h (with64 p1 [.exitTwin] ++ with32 { g0 with pred := 1 } [.exit])) &&
      readyAll base [0] (adj h (with64 f0 [.exitTwin] ++ with32 g0 [.exit])) && (base.release 0 scopeSys).absent == none &&
      [base, base2].all (fun s => sysRoom s 0 (8 * scopeSys)),
    -- the last live thread of the warp
    base.launchOf 0 == 5 && (List.range 32).all (fun l => !(base.thread 0 l).live || l == 0)]).all id = true := by
  decide +kernel

/-- Lane 0 with words on its spill stack. -/
def pushed : State := base.setThread 0 0 (fun t => { t with spd := 2 })

def withMem (h : Hdr) : Hdr := { h with mem := true }

theorem witness_BranchesJumpsCallsAndReturns : ([
    readyAll base [0] (with32 { g0 with body := 18 } [.bra] ++ with64 { f0 with lit := some 0x10000 } [.braTwin] ++
      with32 { g0 with body := 5 * 512 } [.jmp] ++ with64 { f0 with a := 5 } [.jmpTwinReg] ++
      with64 { f0 with a := 449, lit := some 64 } [.jmpTwinLit]) && readyAll base2 [1] (with64 { p1 with a := 5 } [.jmpTwinReg]),
    -- a target of its own, a misaligned one, one beyond 2^56
    [(64 : Word), 2, 2 ^ 56].map (fun x => let t := (opnd (withRegs base [(5, x)]) 0 0 none 5).toNat
      (decide (t % 4 ≠ 0), decide (2 ^ 56 ≤ t))) == [(false, false), (true, false), (false, true)],
    readyAll base [0] (adj withMem (with32 { g0 with body := 5 } [.call] ++ with64 { f0 with lit := some 5 } [.callTwin] ++
      with32 g0 [.ret] ++ with64 f0 [.retTwin])) && readyAll pushed [0] (adj withMem (with32 g0 [.ret] ++ with64 f0 [.retTwin])),
    -- a call with room on the stack; one at the limit of four words
    decide ((base.thread 0 0).spd < spillLimit base 0) &&
      passes (checkAccess base 0 .global .write 8 8 false [(0, spillAddr base 0 0 0)]) (fun s1 gs =>
        (chargeAccess s1 0 (8 * gs.length)).absent == none && gs.all (fun g => match g.loc with
          | .dev _ => true
          | _ => false)),
    let s := base.setThread 0 0 (fun t => { t with spd := 4 })
    decide (spillLimit s 0 ≤ (s.thread 0 0).spd) && s.absent == none,
    -- a call to a far target
    let s := withRegs base [(5, 2 ^ 56)]
    readyAll s [0] (adj withMem (with32 { g0 with body := 5 } [.call] ++ with64 { f0 with lit := some 5 } [.callTwin])) &&
      decide (2 ^ 56 ≤ (opnd s 0 0 none 5).toNat) && s.absent == none,
    -- a return with a word on the stack, to a place of its own, a misaligned one and one beyond 2^56
    [64, 2, 2 ^ 56].all (fun top => let s := pushed.writeDev (placePage.frame + spillAddr pushed 0 0 1) (leBytes 8 top)
      readyAll s [0] (adj withMem (with32 g0 [.ret] ++ with64 f0 [.retTwin])) && s.absent == none &&
      passes (checkAccess s 0 .global .read 8 8 false [(0, spillAddr s 0 0 1)]) (fun s1 gs => match gs with
        | [{ lane := 0, addr := _, loc := .dev pa }] =>
          let s2 := (chargeAccess s1 0 8).drainLine (coreOf 0) (.dev pa)
          s2.absent == none && leNat (s2.devBytes pa 8) == top
        | _ => false)),
    -- a return at depth 0
    (base.thread 0 0).spd == 0]).all id = true := by decide +kernel

/-- The warp in its trap handler, with a frame of four words on the stack of its one thread. -/
def handling : State := (base.setThread 0 0 (fun t => { t with spd := 4 })).setWarp 0 (fun x => { x with inHandler := true })

theorem witness_TrapBreakReturnAndAbort : ([
    readyAll base [0] (with32 { g0 with body := 7 } [.trap, .brk] ++ with64 { f0 with lit := some 7 } [.trapTwin, .brkTwin]),
    !holdSession base 0,
    let s := { base with sessions := [(0, { (default : Session) with live := true, hold := true, scope := 1 })] }
    holdSession s 0 && (scopeWarps s 0 1).contains 0 && readyAll s [0] (with32 { g0 with body := 7 } [.brk] ++
      with64 { f0 with lit := some 7 } [.brkTwin]),
    let h : Hdr := { hdrOf (.tret f0) f0 with coll := true, mem := true }
    ready (.tret f0) h base [0] && guardLanes h base == [0] && base.liveLanes 0 == [0] && !(base.warp 0).inHandler,
    let s := handling
    let h : Hdr := { hdrOf (.tret f0) f0 with coll := true, mem := true }
    ready (.tret f0) h s [0] && guardLanes h s == [0] && (s.warp 0).inHandler && decide (4 ≤ (s.thread 0 0).spd) &&
      passes (checkAccess s 0 .global .read 8 8 false ((List.range 4).map (fun k => (0, spillAddr s 0 0 k)))) (fun s1 gs =>
        s1.port.isEmpty && s1.absent == none && gs.length == 4 && gs.all (fun g => match g.loc with
          | .dev pa => (homeOf pa).isSome && (homeOf (pa + 7)).isSome && leNat (s1.devBytes pa 8) == 0
          | _ => false)),
    let f : F64 := { f0 with md := 1, c := 127 }
    ready (.tabort f) (hdrOf (.tabort f) f) supBase [0] && isSup supBase.cur.warp,
    let f : F64 := { f0 with md := 1, c := 127 }
    ready (.tabort f) (hdrOf (.tabort f) f) base [0] && !isSup 0 && (base.launches.get 5).state != .none &&
      !(base.launches.get 5).ending]).all id = true := by decide +kernel

/-- Whether the hypotheses of each clause about an access of `n` bytes at `a` hold, in the order of the statement. -/
def accessOf (s : State) (a n : Nat) (sp : Space) (acc : Acc) : List Bool :=
  let loc := if sp = .global then Loc.dev (placePage.frame + (a - placePage.va)) else localLoc s 0 sp a
  let hit := sp != .global || (decide (tlbFind s (tlbQuad 0) 0 a acc = some placePage) && placePage.tier != 2)
  let free := s.locks.all (fun k => !lockStops k sp acc false || decide (lockMeets k 0 loc a n = none))
  let there := acc == .write || absentLine s loc == none
  let quiet := raceAt s (s.warp 0).vgid loc n == none
  let fits := decide (a + n ≤ allotment s 0 sp) && !isSup 0
  let locked := (lockedAt s 0 sp acc false n { lane := 0, addr := a, loc := loc }).isSome
  [a % n != 0, a % n == 0 && decide (allotment s 0 sp < a + n), a % n == 0 && fits && hit && locked,
   a % n == 0 && fits && sp != .global && free && acc != .write && (absentLine s loc).isSome,
   a % n == 0 && fits && hit && free && there && !quiet, a % n == 0 && fits && hit && free && there && quiet && sp == .global,
   a % n == 0 && fits && sp != .global && free && there && quiet]

/-- An operation's write lock on the first 64 bytes, an absent bench line, an open line of another workgroup. -/
def lock0 : RLock := { op := 1, rid := 0, die := 0, owner := 0, space := .global 0, kind := .write, lo := 0, hi := 64 }

theorem witness_AccessChecks : ([
    (accessOf base 2 4 .global .read).getD 0 false,
    (accessOf base 4096 4 .bench .read).getD 1 false,
    (accessOf base (2 ^ 56) 8 .global .read).getD 1 false,
    (accessOf { base with locks := [lock0] } 56 8 .global .read).getD 2 false,
    (accessOf { base with benchAbs := [(0, true)] } 0 8 .bench .read).getD 3 false,
    (accessOf { base with opened := [{ die := 0, space := .phys, line := 0, vgid := 2, mask := 255 }] } 0 8 .global .read).getD 4
      false,
    (accessOf base 4 4 .global .atomic).getD 5 false,
    (accessOf base 4092 4 .bench .write).getD 6 false, (accessOf base (2 ^ 20 - 8) 8 .marver .read).getD 6 false]).all id = true := by decide +kernel

/-- An access of a thread passes its checks at one place. -/
def oneGot (s : State) (sp : Space) (acc : Acc) (n : Nat) (cnt : Bool) (a : Nat) (p : State → Got → Bool) : Bool :=
  passes (checkAccess s 0 sp acc n n cnt [(0, a)]) (fun s1 gs => gs.length == 1 &&
    gs.all (fun g => p s1 g && match g.loc with
      | .dev pa => (homeOf pa).isSome && (homeOf (pa + n - 1)).isSome
      | _ => true))

/-- The fields of a load, a store or an atomic of the third encoding (R157): the address is in A, and MOD the space. -/
def memF (ord : BitVec 9) : F64 := { f0 with d := 4, a := 2, b := 6, c := ord }
def ldF (ord : BitVec 9) : F64 := { memF ord with b := 0 }
def stF (ord : BitVec 9) : F64 := { memF ord with d := 0 }

theorem witness_LoadsReadMemory : ([
    [(Space.global, 0x8000 - 8), (.bench, 4088), (.marver, 2 ^ 20 - 8)].all (fun x =>
      let s := withRegs base [(2, BitVec.ofNat 64 x.2)]
      [MemTy.b8, .i8, .b16, .i16, .b32, .i32, .b64].all (fun t => let f := ldF 0
        ready (.ld x.1 t f) (memHdr (.ld x.1 t f) f (memOrder f)) s [0] && memOrder f == 0 &&
        oneGot s x.1 .read (MemTy.bytes t) false (memAddr s 0 f 0) (fun s1 _ => s1.port.isEmpty && s1.absent == none))),
    let f := { ldF 0 with d := 126 }
    let s := withRegs base [(2, 0x7FF0)]
    ready (.ld .global .b128 f) (memHdr (.ld .global .b128 f) f 0) s [0] &&
      oneGot s .global .read 16 false (memAddr s 0 f 0) (fun s1 _ => s1.port.isEmpty && s1.absent == none)]).all id = true := by
  decide +kernel

theorem witness_StoresWriteMemory : ([
    [(Space.global, 0x7FF8), (.bench, 4088), (.marver, 0)].all (fun x =>
      let s := withRegs base [(2, BitVec.ofNat 64 x.2), (6, 0x1122334455667788)]
      [StTy.b8, .b16, .b32, .b64].all (fun t => let f := stF 0
        ready (.st x.1 t f) (memHdr (.st x.1 t f) f (memOrder f)) s [0] && oneGot s x.1 .write (StTy.bytes t) false (memAddr s 0 f 0) (fun s1 _ => s1.port.isEmpty && s1.absent == none))),
    [(2 : BitVec 9), 10, 18, 26, 28].all (fun o => let f := stF o
      let s := withRegs base [(2, 0x1000)]
      let i : Instr := .st .global .b128 f
      ready i (memHdr i f (memOrder f)) s [0] && oneGot s .global .write 16 false (memAddr s 0 f 0) (fun s1 _ => s1.port.isEmpty && s1.absent == none &&
          s1.hostL2.isEmpty) && sysRoom s 0 (memOrder f))]).all id = true := by decide +kernel

/-- The atomics of a type. -/
def atoms (t : AtTy) (f : F64) : List Instr :=
  [.atomAdd t f, .atomAnd t f, .atomOr t f, .atomXor t f, .atomMin t f, .atomMax t f, .atomExch t f, .atomCas t f]

theorem witness_AtomicsReturnTheOldValue : ([
    [AtTy.n32, .i32, .n64, .i64].all (fun t => let f := memF 0
      let s := withRegs base [(2, 0x1000), (6, 7)]
      (atoms t f).all (fun i => ready i (memHdr i f f.c.toNat) s [0]) && f.c.toNat % 8 == 0 && sysRoom s 0 f.c.toNat &&
        oneGot s (modSpace f) .atomic (AtTy.width t / 8) false (atomAddr s 0 f 0) (fun s1 _ => s1.port.isEmpty && s1.absent == none)),
    [FaTy.f32, .bf16x2].all (fun t => let f := { memF 0 with md := 2 }
      let s := withRegs base [(2, 64), (6, 0x3F803F80)]
      let i : Instr := .atomFadd t f
      ready i (memHdr i f f.c.toNat) s [0] && sysRoom s 0 f.c.toNat && oneGot s (modSpace f) .atomic 4 false (atomAddr s 0 f 0) (fun s1 _ =>
        s1.port.isEmpty && s1.absent == none && (s1.warp 0).fen == 0))]).all id = true := by decide +kernel

/-- Whether what an access does is ready, and no store is flushed to a missing host. -/
def worksHere (i : Instr) (f : F64) (ord charge : Nat) (sp : Space) (acc : Acc) (n : Nat) (cnt : Bool) (s : State)
    (adr : Nat → Nat) : Bool :=
  ready i (memHdr i f ord) s [0] && sysRoom s 0 ord && oneGot s sp acc n cnt (adr 0) (fun s1 g =>
    let s2 := if charge = 0 then s1 else chargeAccess s1 0 charge
    let s3 := if ordRel ord then s2.release 0 (ordScope ord) else s2
    let p : Pending := { pid := s3.serial, unit := .memory, warp := 0, lanes := [0], slot := f.set.toNat, flags := 0,
                         acq := if ordAcq ord then some (ordScope ord) else none,
                         work := .load sp .b32 4 [{ lane := 0, va := g.addr, loc := g.loc, data := 0, data2 := 0 }] }
    s3.absent == none && (f.set != 0 || (s3.doWork p).absent == none))

theorem witness_MemoryWorkIsOrdered : ([
    [(0 : BitVec 3), 1, 6].all (fun k => [(0 : BitVec 9), 1 + 8, 4 + 16, 2 + 24].all (fun o =>
      let f := { memF o with set := k }
      let fl := { f with b := 0, c := if o = 2 + 24 then 25 else o }
      let fs := { f with d := 0, c := if o = 1 + 8 then 10 else o }
      let s := withRegs base [(2, 0x1000), (6, 7)]
      worksHere (.ld .global .b32 fl) fl (memOrder fl) 4 .global .read 4 false s (memAddr s 0 fl) &&
        (k != 0 || worksHere (.st .global .b32 fs) fs (memOrder fs) 4 .global .write 4 false s (memAddr s 0 fs)) &&
        (atoms .n32 f ++ [Instr.atomFadd .f32 f]).all (fun i => worksHere i f o.toNat 4 .global .atomic 4 false s (atomAddr s 0 f))
        && (s.warp 0).fen &&& faddFlags == 0)),
    [(0 : BitVec 9), 2, 16 + 2, 24 + 2].all (fun o => let f := { memF o with d := 0 }
      let s := withRegs base [(2, 0x1000), (6, 7)]
      ((if o = 0 then [] else [Instr.cntFail f]) ++ [Instr.cntAdd f]).all (fun i => worksHere i f o.toNat 0 .global .atomic 16 true s (fun l =>
        (opnd s 0 l f.lit f.a.toNat).toNat)))]).all id = true := by decide +kernel

/-- `push` and `pop` of N words. -/
def pushF (n : BitVec 9) : F64 := { f0 with md := 1,  a := 2, c := n }
def popF (n : BitVec 9) : F64 := { f0 with md := 1,  d := 2, c := n }

theorem witness_SpillStack : ([
    let s := withRegs base [(2, 7), (3, 9)]
    ready (.push (pushF 4)) (memHdr (.push (pushF 4)) (pushF 4) 0) s [0] && decide ((s.thread 0 0).spd + 4 ≤ spillLimit s 0) &&
      passes (checkAccess s 0 .global .write 8 8 false ((List.range 4).map (fun i => (0, spillAddr s 0 0 ((s.thread 0 0).spd + i)))))
        (fun s1 gs => gs.all (fun g => match g.loc with
          | .dev _ => true
          | _ => false) && (chargeAccess s1 0 (8 * gs.length)).absent == none),
    ready (.pop (popF 2)) (memHdr (.pop (popF 2)) (popF 2) 0) pushed [0] && decide (2 ≤ (pushed.thread 0 0).spd) &&
      passes (checkAccess pushed 0 .global .read 8 8 false ((List.range 2).map (fun i => (0, spillAddr pushed 0 0 ((pushed.thread 0 0).spd - 2 + i)))))
        (fun s1 gs => s1.port.isEmpty && s1.absent == none && gs.all (fun g => match g.loc with
          | .dev pa => (homeOf pa).isSome && (homeOf (pa + 7)).isSome
          | _ => false)),
    ready (.push (pushF 3)) (memHdr (.push (pushF 3)) (pushF 3) 0) pushed [0] && decide (spillLimit pushed 0 < (pushed.thread 0 0).spd + 3),
    ready (.pop (popF 3)) (memHdr (.pop (popF 3)) (popF 3) 0) pushed [0] && decide ((pushed.thread 0 0).spd < 3) &&
      pushed.absent == none]).all id = true := by decide +kernel

theorem witness_FencesAndMonitors : ([
    [(1 : BitVec 9), 2, 3 + 8, 2 + 16, 3 + 24, 1 + 24].all (fun o => let f := { f0 with c := o }
      ready (.fence f) (memHdr (.fence f) f o.toNat) base [0] && sysRoom base 0 o.toNat &&
        (if ordRel o.toNat then base.release 0 (ordScope o.toNat) else base).absent == none),
    [(0 : BitVec 3), 2, 4].all (fun m => let f := { f0 with md := m }
      let s := withRegs base [(0, 0x7F)]
      ready (.watch f) (hdrOf (.watch f) f) s [0] && ready (.mwait f0) (hdrOf (.mwait f0) f0) s [0] &&
        oneGot s (modSpace f) .read 1 false 0x7F (fun s1 _ => s1.absent == none))]).all id = true := by decide +kernel

/-- Barrier entry 0 of core 0, armed by the workgroup for two arrivals and 64 bytes, with one arrival. -/
def bar1 : BarEntry := { (default : BarEntry) with vgid := 1, v := true, phase := 3, expA := 2, cntA := 1, expB := 64 }
/-- An armed set barrier of the workgroup's set, and an entry that is at the limit of its counts. -/
def bar9 : BarEntry := { bar1 with vgid := 9, expA := 1, cntA := 0, expB := 0 }
def barFull : BarEntry := { bar1 with expA := barMaxA, cntA := barMaxA, expB := 1 }
def withBars (b : BarEntry) : State := { base with bars := ((base.bars.set 0 b).set 5 bar9) }

theorem witness_BarrierPhases : ([decide (barMaxA < barFull.cntA + 1), decide (bar1.cntA + 1 ≤ barMaxA ∧ bar1.cntB + 64 ≤ barMaxB),
    decide (bar1.cntA + [0, 1].length ≤ barMaxA ∧ bar1.cntB ≤ barMaxB)]).all id = true := by decide +kernel

def barH (h : Hdr) (sc : Nat) : Hdr := { barHdr h with rel := some sc }

/-- The forms of an arrival and of a wait that name the workgroup's entry K, with their headers. -/
def arrivals (k : BitVec 9) : List (Instr × Hdr) :=
  let g : F32 := { g0 with body := k.zeroExtend 20 }
  let f : F64 := { f0 with md := 1, c := k }
  [(.barArrive g, barH (hdrOf32 (.barArrive g) g) scopeWg), (.barArriveTwin f, barH (hdrOf (.barArriveTwin f) f) scopeWg)]
def barWaits (k : BitVec 9) : List (Instr × Hdr) :=
  let g : F32 := { g0 with body := k.zeroExtend 20 }
  let f : F64 := { f0 with md := 1, c := k }
  [(.barWait g, barHdr (hdrOf32 (.barWait g) g)), (.barWaitTwin f, barHdr (hdrOf (.barWaitTwin f) f))]
def setF : F64 := { f0 with md := 1 }

theorem witness_BarrierArriveAndWait : ([
    let s := withBars bar1
    readyAll s [0] (arrivals 0 ++ [(.sbarArrive setF, barH (hdrOf (.sbarArrive setF) setF) scopePkg)]) &&
      wgBarKey (s.wg 0) 0 == some 0 && setBarKey s (s.wg 0) 0 == some 5 && (s.bars.get 0).v && (arriveLanes bar1 [0]).2.2.isEmpty
      && (arriveLanes bar9 [0]).2.2.isEmpty && (s.release 0 scopeWg).absent == none && (s.release 0 scopePkg).absent == none,
    let s := withBars barFull
    readyAll s [0] (arrivals 0) && decide (barMaxA < (s.bars.get 0).cntA + 1) && (s.bars.get 0).v,
    readyAll base [0] (arrivals 1) && wgBarKey (base.wg 0) 1 == some 1 && !(base.bars.get 1).v,
    readyAll base [0] (arrivals 2) && wgBarKey (base.wg 0) 2 == none,
    readyAll base [0] [(.sbarArrive { setF with c := 3 }, barH (hdrOf (.sbarArrive { setF with c := 3 }) { setF with c := 3 }) scopePkg)]
      && setBarKey base (base.wg 0) 3 == none,
    -- waits on an entry that is not valid, beyond the workgroup's, and on a set without a barrier
    readyAll base [0] (barWaits 1 ++ barWaits 2 ++ [(.sbarWait { setF with c := 3 }, barHdr (hdrOf (.sbarWait { setF with c := 3 }) { setF with c := 3 }))])
      && base.absent == none,
    -- waits: a thread that joined this phase, one whose phase has gone by, one without a record
    [none, some { set := false, entry := 0, phase := 3 }, some { set := false, entry := 0, phase := 2 }].all (fun a =>
      let s := (withBars bar1).setThread 0 0 (fun t => { t with arrival := a })
      readyAll s [0] (barWaits 0 ++ [(.sbarWait setF, barHdr (hdrOf (.sbarWait setF) setF))]) && s.absent == none)
    ]).all id = true := by decide +kernel

/-- The fields of the instructions of an entry with an address or counts in A and B. -/
def entryF : F64 := { f0 with md := 1, a := 2, b := 3, d := 4 }
def armF : F64 := { entryF with b := 0, d := 0 }
def creditF : F64 := { entryF with d := 0 }
def queryF : F64 := { entryF with a := 0, b := 0 }

theorem witness_BarrierArmCreditQuerySpillAndFill : ([
    [(2 ^ 32 * 64 + 2 ^ 20 * 2 : Nat), 2 ^ 20].all (fun x => let s := withRegs base [(2, BitVec.ofNat 64 x)]
      ready (.barArm armF) (barHdr (hdrOf (.barArm armF) armF)) s [0] && wgBarKey (s.wg 0) 0 == some 0 && x % 2 ^ 20 == 0 && x != 0
        && !(s.bars.get 0).v),
    let s := withRegs (withBars bar1) [(2, 2 ^ 20)]
    ready (.barArm armF) (barHdr (hdrOf (.barArm armF) armF)) s [0] && (s.bars.get 0).v && (s.bars.get 0).cntA != 0,
    [(0 : Word), 1].all (fun x => let s := withRegs base [(2, x)]
      ready (.barArm armF) (barHdr (hdrOf (.barArm armF) armF)) s [0]),
    let s := withRegs (withBars bar1) [(2, 1), (3, 64)]
    ready (.barCredit creditF) (barH (hdrOf (.barCredit creditF) creditF) scopeWg) s [0] && (bar1.bring 1 64).isSome &&
      (s.release 0 scopeWg).absent == none && (s.bars.get 0).v,
    let s := withRegs (withBars barFull) [(2, 1), (3, 0)]
    ready (.barCredit creditF) (barH (hdrOf (.barCredit creditF) creditF) scopeWg) s [0] && (barFull.bring 1 0).isNone,
    -- an entry that is not valid, and one beyond the workgroup's; a misaligned record
    ready (.barCredit creditF) (barH (hdrOf (.barCredit creditF) creditF) scopeWg) base [0] && !(base.bars.get 0).v,
    [(2 : BitVec 9), 63].all (fun e =>
      let f := { armF with c := e }
      let c := { creditF with c := e }
      let q := { queryF with c := e }
      readyAll base [0] (adj barHdr (with64 f [.barArm] ++ with64 q [.barQuery]) ++
        adj (fun h => barH h scopeWg) (with64 c [.barCredit]) ++
        adj (fun h => { barHdr h with coll := true }) (with64 f [.barSpill, .barFill])) && wgBarKey (base.wg 0) e.toNat == none) &&
      base.liveLanes 0 == [0],
    let s := withRegs base [(2, 0x1008)]
    readyAll s [0] (adj (fun h => { barHdr h with coll := true }) (with64 armF [.barSpill, .barFill])) &&
      (wgBarKey (s.wg 0) 0).isSome,
    ready (.barQuery queryF) (barHdr (hdrOf (.barQuery queryF) queryF)) (withBars bar1) [0],
    let s := withRegs (withBars bar1) [(2, 0x1000)]
    ready (.barSpill armF) { barHdr (hdrOf (.barSpill armF) armF) with coll := true } s [0] &&
      guardLanes { barHdr (hdrOf (.barSpill armF) armF) with coll := true } s == [0] &&
      oneGot s .global .write 16 false 0x1000 (fun s1 g => s1.absent == none && match g.loc with
        | .dev _ => true
        | _ => false),
    -- a record of the workgroup, one of its set, and an empty one
    [(bar1.record, true), (bar9.record, true), (0, false)].all (fun x =>
      let s := withRegs base [(2, 0x1000)]
      let s := s.writeDev (placePage.frame + 0x1000) (leBytes 16 x.1)
      let h := { barHdr (hdrOf (.barFill armF) armF) with coll := true }
      ready (.barFill armF) h s [0] && guardLanes h s == [0] && oneGot s .global .read 16 false 0x1000 (fun s1 g =>
        let r := barOfRecord (leNat ((List.range 16).map (fun i => s1.byteAt (g.loc.plus i))))
        s1.port.isEmpty && s1.absent == none && !(s.bars.get 0).v &&
          (r.v && (r.vgid == (s.warp 0).vgid || (s.wg 0).sets.contains r.vgid)) == x.2))]).all id = true := by decide +kernel
/-- A counter instruction's fields: the address in v2, the number in v3. -/
def cntF (ord : BitVec 9) : F64 := { f0 with a := 2, b := 3, c := ord }

theorem witness_CounterInstructions : ([
    [(0 : BitVec 9), 2, 26].all (fun o => let f := cntF o
      let s := withRegs base [(2, 0x1010), (3, 2 ^ 64 - 1)]
      ((if o = 0 then [] else [Instr.cntFail f]) ++ [Instr.cntAdd f]).all (fun i => ready i (memHdr i f f.c.toNat) s [0] && sysRoom s 0 f.c.toNat) &&
        oneGot s .global .atomic 16 true 0x1010 (fun s1 _ => s1.port.isEmpty && s1.absent == none && s1.hostL2.isEmpty)),
    -- a target that is reached, one that is not, and one where a status bit is set
    [((3 : Nat), (0 : Nat)), (2, 0), (2, 1)].all (fun x => let f := { cntF 1 with d := 1 }
      let s := (withRegs base [(2, 0x1010), (3, 3)]).writeDev (placePage.frame + 0x1010) (leBytes 8 x.1 ++ leBytes 8 x.2)
      ready (.cntWait f) (memHdr (.cntWait f) f 0) s [0] && ready (.cntPoll f) (memHdr (.cntPoll f) f 0) s [0] &&
        oneGot s .global .read 16 true 0x1010 (fun s1 g => s1.port.isEmpty && s1.absent == none &&
          leNat ((List.range 8).map (fun k => s1.byteAt (g.loc.plus k))) == x.1 &&
          leNat ((List.range 8).map (fun k => s1.byteAt (g.loc.plus (8 + k)))) == x.2))]).all id = true := by decide +kernel

/-- `bsend` of one hop east (R82), without a barrier entry, and `svc`. -/
def bsendF : F64 := { f0 with d := 448, a := 2, b := 3, c := 0, lit := some 5 }
def svcF : F64 := { f0 with set := 1, d := 4, a := 2, b := 3, lit := some 0 }
def svcHdr : Hdr := { hdrOf (.svc svcF) svcF with rel := some scopePkg }
def bsendReady (s : State) : Bool := ready (.bsend bsendF) (memHdr (.bsend bsendF) bsendF 0) s [0]
def svcReady (s : State) : Bool := ready (.svc svcF) svcHdr s [0] && s.absent == none && (s.release 0 scopePkg).absent == none

theorem witness_BsendAndServiceRequests : ([
    let s := { base with sets := [(9, { set9 with co := false })] }
    bsendReady s && !bitOf (setWord s (s.wg 0) 0) 32,
    bsendReady (withRegs base [(2, 4)]) && setWord base (base.wg 0) 0 != 0 && bitOf (setWord base (base.wg 0) 0) 32,
    bsendReady (withRegs base [(2, 8)]),
    -- north of the top row, and east to a retired core
    (match routeFrom base 0 4 with
      | .cause b => b == causeBounds
      | .cores _ => false) && hopTo 0 0 0 == none,
    (match routeFrom { base with cores := [(1, { (default : Core) with retired := true })] } 0 5 with
      | .cause b => b == causeEngine
      | .cores _ => false),
    let s := base.writeDev (2 ^ 29 + 8 * 6) (leBytes 8 0)
    svcReady s && (svcPc s 0).isNone,
    let r : SvcRec := { words := [], warp := 0, lane := 0, dest := 0, slot := 1, vgid := 1, index := 0, order := 3, taken := false }
    let s := { base with cores := [(0, { (default : Core) with mailbox := (List.range 32).map (fun i => (i, some r)) })] }
    svcReady s && (svcPc s 0).isSome && freeMail s 0 == [],
    svcReady base && (svcPc base 0).isSome && (freeMail base 0).head? == some 0]).all id = true := by decide +kernel

/-- The quota asked for, with the fields of both forms of `regq`. -/
def regqs (n : BitVec 9) : List (Instr × Hdr) :=
  let h := fun (i : Instr) (f : F64) => ({ hdrOf i f with coll := true, drain := true } : Hdr)
  let f : F64 := { f0 with md := 1, d := 1, c := n }
  let k : F64 := { f0 with d := 1, a := 384 }
  [(.regqImm f, h (.regqImm f) f), (.regqReg k, h (.regqReg k) k)]

theorem witness_SystemRegisterWritesAndRegisterQuota : ([
    [(0 : BitVec 9), 1].all (fun c => let f : F64 := { f0 with md := 1, a := 384, c := c }
      let h : Hdr := { hdrOf (.mtsr f) f with coll := true, drain := true }
      ready (.mtsr f) h (base.setW 0 0 5) [0] && ready (.mtsr f) h supBase [0]),
    let fs : List (Instr × Hdr) := [let f : F64 := { f0 with a := 384 }; (.causeclrReg f, hdrOf (.causeclrReg f) f),
      let f : F64 := { f0 with a := 449, lit := some 0x7FFFFF }; (.causeclrLit f, hdrOf (.causeclrLit f) f),
      let f : F64 := { f0 with md := 1, c := 511 }; (.causeclrImm f, hdrOf (.causeclrImm f) f)]
    readyAll base [0] (fs.map (fun x => (x.1, { x.2 with coll := true }))),
    -- the same quota; more than is spare; as many as are spare; fewer
    [((4 : BitVec 9), base), (6, base), (5, base), (3, base)].all (fun x =>
      let s := x.2.setW 0 0 (x.1.zeroExtend 64)
      readyAll s [0] (regqs x.1) && (s.w 0 0).toNat == x.1.toNat && !isSup 0),
    (base.warp 0).units.length == 4 && (base.wg 0).free.getD (quadOf 0 % 4) 0 == 1 &&
      (List.range 32).all (fun k => !bholdLocked base 0 (96 + k))]).all id = true := by decide +kernel

/-- The template of a transfer of eight words from 0x1000 to the bench, and a state that has it as template 0 (R216, R217). -/
def copyTmpl : List Nat :=
  [2 ^ 63 + 3 * 2 ^ 18, 0x1000, 2 ^ 56, 8, 0, 0, 0, 0, 0, 0, 8 + 2 ^ 16 + 2 ^ 32 + 2 ^ 48, 1 + 2 ^ 16 + 2 ^ 32, 0, 0, 0, 0]
def withTmpl (ws : List Nat) : State := base.writeDev (2 ^ 29 + 0x200000) (ws.flatMap (leBytes 8))
def xferBase : State := withTmpl copyTmpl
/-- One operation of template 0. -/
def tmpl0 : List Word := readTemplate xferBase 0 (2 ^ 40 + 0x200000) 0
def copyOp : XferOp := { handOff xferBase 0 tmpl0 0 with op := 7 }
/-- What a lane keeps while it waits: the channel, and a template or a block. -/
def kept0 (ws : List Word) : Asked := { warp := 0, lane := 0, chan := 0, words := ws }
def stAF : F64 := { f0 with md := 1, a := 448, b := 3 }
def stAReady (s : State) : Bool :=
  ready (.stA stAF) { memHdr (.stA stAF) stAF 0 with rel := some scopeDie } s [0] && (askedLanes s 0).all (· == 0) &&
    ((s.release 0 scopeDie).drainTemplate 0 0 ((templateTable s 0).getD 0) (opnd s 0 0 none 3).toNat).absent == none
/-- A register form, and an immediate one, of a channel's number. -/
def chanF (n : BitVec 9) : List F64 := [{ f0 with d := 4, a := 2 }, { f0 with md := 1, d := 4, c := n }]

theorem witness_TransferInstructions : ([
    -- a channel beyond 15, a reserved bit, an operation that is taken, a queue that is full
    stAReady base && handOffCause base 0 16 0 == some causeBounds,
    stAReady (withRegs base [(3, 0x10000)]) && handOffCause base 0 0 0x10000 == some causeEngine && base.absent == none,
    stAReady xferBase && memAddr xferBase 0 stAF 0 == 0 && handOffCause xferBase 0 0 0 == none &&
      (match accept xferBase 0 (kept0 tmpl0) 0 with
        | some s2 => s2.absent == none && (s2.xfer.get 0).length == 1
        | none => false) && (templateTable xferBase 0).isSome,
    let s := { xferBase with xfer := [(0, [copyOp, copyOp, copyOp, copyOp])] }
    stAReady s && handOffCause s 0 0 0 == none && (accept s 0 (kept0 tmpl0) 0).isNone && (joinPid s 0 1 [0]).isNone,
    -- the lane waited, and its template is accepted as it was read
    let s := { base with asked := [kept0 tmpl0] }
    stAReady s && (askedBy s 0 0).isSome && (joinPid s 0 1 [0]).isNone && (accept s 0 (kept0 tmpl0) 0).isSome,
    let s := withRegs { xferBase with xfer := [(0, [copyOp])] } [(2, 0)]
    (match chanF 15 with
      | [a, b] => ready (.xqueryReg a) (hdrOf (.xqueryReg a) a) s [0] && ready (.xqueryImm b) (hdrOf (.xqueryImm b) b) s [0] &&
        ready (.xcancelReg a) { hdrOf (.xcancelReg a) a with rel := some scopeWg } s [0] &&
        ready (.xcancelImm b) { hdrOf (.xcancelImm b) b with rel := some scopeWg } s [0] &&
        ready (.xqueryReg a) (hdrOf (.xqueryReg a) a) (withRegs s [(2, 16)]) [0] &&
        ready (.xcancelReg a) { hdrOf (.xcancelReg a) a with rel := some scopeWg } (withRegs s [(2, 16)]) [0]
      | _ => false) && copyOp.ctr == 0 && isMine s 0 copyOp.vgid copyOp.owner && copyOp.ended.isNone &&
        s.pending.all (fun p => p.after == []) && copyOp.sent.isNone && s.absent.isNone]).all id = true := by
  decide +kernel
/-- Four warps of the workgroup, one on each quad of core 0, each with B in v8 (R239), and two parameter blocks: an integer
product of 16 × 16 × 64, and its write-out to the bench (R258, R269). -/
def cubeBase : State :=
  let s := { base with wgs := [(1, { wg1 with warps := [0, 16, 32, 48] })] }
  [16, 32, 48].foldl (fun s w => { (s.setThread w 0 (fun t => { t with live := true })) with
    warps := s.warps.set w { s.warp 0 with index := w / 16 } }) s
def mmaBlock : List Nat := [3 * 2 ^ 56 + 2 * 2 ^ 26 + 8 * 2 ^ 20 + 8 * 2 ^ 14, 0, 0x3210 * 2 ^ 32 + 8 * 2 ^ 55, 0, 0, 0, 0, 0]
def outBlock : List Nat := [2 ^ 60 + 3 * 2 ^ 56 + 2 ^ 25 + 127 * 2 ^ 17, 0, 2048, 0, 0, 0, 0, 0]

/-- The state with a block in v16 on and in the bench at 0xC00, and the fields that name it. -/
def withBlock (s : State) (ws : List Nat) : State :=
  let s := withRegs s ((2, 0xC00) :: ws.zipIdx.map (fun x => (16 + x.2, BitVec.ofNat 64 x.1)))
  { s with bench := s.bench.setRange (benchKey 0 0xC00) (ws.flatMap (leBytes 8)) }
def cubeRegF : F64 := { f0 with md := 1, a := 16 }
def cubeBenchF : F64 := { f0 with a := 2 }
def wordsOf (ws : List Nat) : List Word := ws.map (BitVec.ofNat 64)

/-- Both forms of both instructions stand ready with their blocks; `p` looks at one new operation. -/
def cubesReady (s : State) (p : State → Bool → List Word → Bool) : Bool :=
  [(false, mmaBlock), (true, outBlock)].all (fun x => let s := withBlock s x.2
    let i := if x.1 then (Instr.cubeOutReg cubeRegF, Instr.cubeOutBench cubeBenchF)
      else (Instr.cubeMmaReg cubeRegF, Instr.cubeMmaBench cubeBenchF)
    (blockLanes s 0).all (· == 0) && ready i.1 (cubeHdr i.1 cubeRegF) s [0] && ready i.2 (cubeHdr i.2 cubeBenchF) s [0] && (unready s 0 0).isNone &&
      passes (checkAccess s 0 .bench .read 64 1 false [(0, 0xC00)]) (fun _ _ => true) &&
      decide (blockWords (s.bench.getRange (benchKey 0 0xC00) 64) = wordsOf x.2) &&
      decide ((List.range 8).map (fun k => s.v 0 0 (16 + k)) = wordsOf x.2) && (s.release 0 scopeDie).absent == none &&
      p s x.1 (wordsOf x.2))

/-- An operation in the queue, and the queue of core 0. -/
def cubeOp (s : State) (ws : List Nat) : CubeOp := { newCube s 0 0 (wordsOf ws) 0 with op := 7, ready := true }
def withCube (s : State) (xs : List CubeOp) : State := { s with cores := [(0, { (default : Core) with cube := xs })] }

/-- The first 16 bytes of quad 0's share are write-locked. -/
def accLocked : State :=
  { base with locks := [{ lock0 with space := .acc 0, lo := accKey base 0 1 0 0, hi := accKey base 0 1 0 0 + 16 }] }

/-- `cube.ard` of an element, and of two with SAT. -/
def accReads : List F64 := [{ f0 with d := 4, a := 2 }, { f0 with md := 2, d := 4, a := 2 }]

theorem witness_CubeStartsAndAccumulatorAccess : ([
    cubesReady cubeBase (fun s out ws => (newCube s 0 0 ws 0).refusal s out false == none && (askedBy s 0 0).isNone &&
      !(acceptCube (s.release 0 scopeDie) 0 0 ws 0).1),
    -- the lane waited, and its block is accepted as it was read
    cubesReady { cubeBase with asked := [kept0 (wordsOf mmaBlock)] } (fun s _ _ => (askedBy s 0 0).isSome &&
      !(acceptCube (s.release 0 scopeDie) 0 0 (wordsOf mmaBlock) 0).1),
    -- a block in the bench that is not aligned, and the supervisor warp
    let s := withRegs { cubeBase with bench := cubeBase.bench.setRange (benchKey 0 0xC08) (mmaBlock.flatMap (leBytes 8)) } [(2, 0xC08)]
    ready (.cubeMmaBench cubeBenchF) (cubeHdr (.cubeMmaBench cubeBenchF) cubeBenchF) s [0] && (askedBy s 0 0).isNone &&
      passes (checkAccess s 0 .bench .read 1 1 false ((List.range 64).map (fun k => (0, 0xC08 + k)))) (fun _ _ => true) &&
      (newCube s 0 0 (wordsOf mmaBlock) 0).refusal s false true == some causeAlign,
    -- a block that leaves the allotment, at a multiple of 64 and not
    [4096 - 32, 4096].all (fun a => let s := withRegs cubeBase [(2, a)]
      [Instr.cubeMmaBench cubeBenchF, .cubeOutBench cubeBenchF].all (fun i => ready i (cubeHdr i cubeBenchF) s [0]) &&
        blockLanes s 0 == [] && !hasBlock s 0 0 && decide ((s.wg 0).benchLen < a.toNat + 64) && s.absent == none),
    [Instr.cubeMmaBench cubeBenchF, .cubeOutBench cubeBenchF].all (fun i => ready i (cubeHdr i cubeBenchF) supBase [0]) &&
      isSup 8 && supBase.cur.warp == 8 && supBase.absent == none,
    -- refused: one warp alone holds no B, and the accumulator share is too small
    cubesReady { base with wgs := [(1, { wg1 with accKiB := 0 })] } (fun s out ws => s.absent == none &&
      (newCube s 0 0 ws 0).refusal s out false == some (if out then causeBounds else causeEngine)),
    let x := cubeOp cubeBase outBlock
    cubesReady (withCube cubeBase [x, x, x, x]) (fun s _ ws => (acceptCube (s.release 0 scopeDie) 0 0 ws 0).1),
    [((0 : BitVec 3), (8 : Nat)), (2, 16)].all (fun x => let f : F64 := { f0 with md := x.1, d := 4, a := 2 }
      let h : Hdr := { hdrOf (.cubeArd f) f with mem := true }
      let s := withRegs base [(2, 0x8FF0)]
      ready (.cubeArd f) h s [0] && accCauses s 0 x.2 false [(0, accAddr s 0 f 0)] == [] && (s.warp 0).fen == 0),
    let f : F64 := { f0 with md := 1, a := 2, b := 3, c := 8 }
    let h : Hdr := { hdrOf (.cubeAwr f) f with mem := true }
    let s := withRegs base [(2, 0x8FF0 + 0x1000)]
    ready (.cubeAwr f) h s [0] && accCauses s 0 8 true [(0, accAddr s 0 f 0)] == [],
    -- addresses that are outside the share, misaligned and locked, for a write and for both forms of a read
    let f : F64 := { f0 with md := 1, a := 2, b := 3, c := 8 }
    let h : Hdr := { hdrOf (.cubeAwr f) f with mem := true }
    [(0x2000 : Word), 0x1FEC, 0].all (fun a => let s := withRegs accLocked [(2, a)]
      ready (.cubeAwr f) h s [0] && readyAll s [0] (accReads.map (fun f => (Instr.cubeArd f, { hdrOf (.cubeArd f) f with mem := true }))) &&
        s.absent == none),
    ({ f0 with md := 1, a := 2, b := 3, c := 8 } :: accReads).map (fun g => [(0x2000 : Word), 0x1FEC, 0].map (fun a => accAddr (withRegs accLocked [(2, a)]) 0 g 0)) ==
      [[0x2008, 0x1FF4, 8], [0x2000, 0x1FEC, 0], [0x2000, 0x1FEC, 0]] && (accLocked.wg 0).accShare == 0x2000,
    accLocked.locks.any (fun k => k.space == .acc (coreOf 0) && k.kind == .write &&
      [(0, 8), (8, 8), (0, 16)].all (fun (x : Nat × Nat) => decide (k.lo < accKey accLocked 0 1 0 x.1 + x.2 ∧ accKey accLocked 0 1 0 x.1 < k.hi))),
    let f : F64 := { f0 with a := 2, b := 3 }
    [(0x1FC0, 64), (0, 0), (64, 8128), (0, 128), (0x1FC0, 128), (8, 64)].map (fun (x : Nat × Nat) =>
      let s := withRegs accLocked [(2, BitVec.ofNat 64 x.1), (3, BitVec.ofNat 64 x.2)]
      (ready (.cubeAzero f) { hdrOf (.cubeAzero f) f with mem := true } s [0] && s.absent == none,
        decide (x.1 + x.2 ≤ (s.wg 0).accShare), (azeroLocked s 0 (0, x.1, x.2)).isSome)) ==
      [(true, true, false), (true, true, false), (true, true, false), (true, true, true), (true, false, false), (true, true, true)],
    let f : F64 := { f0 with md := 1, d := 4, a := 2, c := 2 }
    let h : Hdr := { hdrOf (.cubeBld f) f with mem := true }
    ready (.cubeBld f) h base [0] && passes (checkAccess base 0 .bench .read 8 8 false ((List.range 2).map (fun r => (0, 256 * r))))
      (fun _ _ => true),
    let f : F64 := { f0 with d := 4 }
    ready (.cubeQuery f) (hdrOf (.cubeQuery f) f) (withCube base [cubeOp base outBlock]) [0]]).all id = true := by decide +kernel

/-- Terms of a chunk sum. -/
def chunkTerms : List (Bool × Nat × Int) := [(false, 3, 0), (true, 1, -60)]

theorem witness_CubeArithmeticAndPasses : ([
    (cubeOp cubeBase mmaBlock).mode.acc == .i32, chunkTerms.all (fun p => p.2.1 != 0),
    let x := cubeOp cubeBase mmaBlock
    let s := withCube cubeBase [x]
    decide (x.pass < x.total) && !x.refused && !isFrozen s 0 0 && (s.wgs.get x.vgid).phase != .stopping && !x.isOut && x.badCols == [] && s.absent == none &&
      match x.runPass s 0 with
      | .ok t _ => t.absent == none
      | _ => false,
    let x := cubeOp cubeBase outBlock
    let s := withCube cubeBase [x]
    decide (x.pass < x.total) && x.isOut && match x.runBlock s 0 with
      | .ok t _ => t.absent == none
      | _ => false,
    let x := { cubeOp cubeBase mmaBlock with pass := 2 }
    decide (x.total ≤ x.pass) && !x.baren && x.sent.isNone && showFits (withCube cubeBase [x]) x.owner x.wrote (.bench 0)]).all id = true := by decide +kernel
/-- A state with words at 0x1000 and their address in v2; two megabytes of the owner's memory are mapped. -/
def withDesc (s : State) (ws : List Nat) : State :=
  (withRegs { s with tlb := s.tlb.set (tlbQuad 0) [{ placePage with size := 1 }] } [(2, 0x1000)]).writeDev
    (placePage.frame + 0x1000) (ws.flatMap (leBytes 8))

/-- What `reads` says of N lines of a descriptor at 0x1000. -/
def readsDesc (s : State) (n : Nat) (p : State → List Word → Bool) : Bool :=
  passes (checkAccess s 0 .global .read 64 1 false ((List.range n).map (fun i => (0, 0x1000 + 64 * i)))) (fun s1 gs =>
    let bytes := gs.flatMap (fun (g : Got) => (List.range 64).map (fun k => s1.byteAt (g.loc.plus k)))
    s1.port.isEmpty && s1.absent == none && gs.all (fun g => match g.loc with
      | .dev pa => (homeOf pa).isSome && (homeOf (pa + 63)).isSome
      | _ => false) && p s1 ((List.range (8 * n)).map (fun j => BitVec.ofNat 64 (leNat ((bytes.drop (8 * j)).take 8)))))

/-- A sum of 16 elements over two ranks (R300), and a landing zone of 256 KiB (R294). -/
def sumDesc : List Nat := [2 ^ 63, 0x2000, 0x3000, 16, 0x4000, 2, 0, 0, 0, 0, 0, 0, 0, 0, 0, 0]
def zoneDesc : List Nat := [2 ^ 63 + 2 ^ 57, 0x10000, 0x40000, 170000 + 200000 * 2 ^ 32, 0, 0, 0, 0x5000]
def collF : F64 := { f0 with a := 2 }
def armedF : F64 := { f0 with d := 1, a := 2 }
def queryCollF : F64 := { f0 with d := 4 }
/-- The owner may use port 0. -/
def netOwner : Owner := { owner0 with policy := List.replicate 508 0 ++ [1] }
def netBase : State := { base with owners := [(0, netOwner)] }
def runReady (s : State) (p : State → List Word → Bool) : Bool :=
  ready (.collRun collF) { hdrOf (.collRun collF) collF with rel := some scopePkg } s [0] && s.absent == none &&
    (askedLanes s 0).all (· == 0) && readsDesc s 2 p
def armReady (s : State) (p : State → List Word → Bool) : Bool :=
  ready (.collArm armedF) (hdrOf (.collArm armedF) armedF) s [0] && s.absent == none && readsDesc s 1 p
/-- The pages of the zone are translated and the zone is fit to be armed. -/
def armFits (s : State) (n : Nat) (fit : Bool) : Bool :=
  armReady s (fun s1 d => armCause s1 0 d == none && passes (translation s1 0 .global .write ((zonePages d).map (fun p => (0, p))))
    (fun t _ => t.absent == none && classifiers t 0 == n && (List.range 4).all (fun die => locksFit t die 0 (zoneLocks 0 0 d)) == fit))
def collOp (s : State) : CollOp := newColl s 0 (wordsOf sumDesc)
def zone1 : Zone := { (default : Zone) with armed := true, z := 65536, w := 100, rd := 40, xoff := 100, xon := 200, op := 3 }
def withZone (z : Zone) : State := { base with owners := [(0, { owner0 with zones := [(5, z)] })] }

/-- Each form of an instruction that names zone N. -/
def zoneForms (n : BitVec 9) : List (Instr × Hdr) :=
  let r : F64 := { f0 with a := 2 }
  let i : F64 := { f0 with md := 1, c := n }
  adj (fun h => { h with rel := some scopePkg }) (with64 { r with b := 3 } [.collRelReg] ++ with64 { i with b := 3 } [.collRelImm]) ++
    with64 { r with d := 4 } [.collDisarmReg, .collQueryReg] ++ with64 { i with d := 4 } [.collDisarmImm, .collQueryImm]

theorem witness_CollectiveAndZoneInstructions : ([
    runReady (withDesc netBase sumDesc) (fun s1 d => (newColl s1 0 d).refusal s1 0x1000 == none &&
      (s1.release 0 scopePkg).absent == none && match acceptColl (s1.release 0 scopePkg) 0 d with
        | some s3 => s3.colls.length == 1
        | none => false),
    runReady (withDesc base (0 :: sumDesc.tail)) (fun s1 d => (newColl s1 0 d).refusal s1 0x1000 == some causeEngine),
    runReady (withDesc { base with colls := List.replicate 64 (collOp base) } sumDesc) (fun s1 d =>
      (newColl s1 0 d).refusal s1 0x1000 == none && (acceptColl (s1.release 0 scopePkg) 0 d).isNone),
    -- the lane waited, and its descriptor is accepted as it was read
    let s := { base with asked := [kept0 (wordsOf sumDesc)] }
    ready (.collRun collF) { hdrOf (.collRun collF) collF with rel := some scopePkg } s [0] && s.absent == none &&
      (askedBy s 0 0).isSome && askedLanes s 0 == [0] && (s.release 0 scopePkg).absent == none && (acceptColl (s.release 0 scopePkg) 0 (wordsOf sumDesc)).isSome,
    -- descriptors that leave the address space, at a multiple of 64 and not
    [(2 ^ 56 - 64 : Word), 2 ^ 56 - 8].all (fun a => let s := withRegs base [(2, a)]
      ready (.collRun collF) { hdrOf (.collRun collF) collF with rel := some scopePkg } s [0] && askedLanes s 0 == [] &&
        (askedBy s 0 0).isNone && decide (2 ^ 56 < a.toNat + 128) && s.absent == none),
    (let s := withRegs base [(2, 2 ^ 56)]
     ready (.collArm armedF) (hdrOf (.collArm armedF) armedF) s [0] && s.absent == none),
    -- misaligned descriptors
    let s := withRegs (withDesc netBase sumDesc) [(2, 0x1008)]
    ready (.collRun collF) { hdrOf (.collRun collF) collF with rel := some scopePkg } s [0] && s.absent == none &&
      passes (checkAccess s 0 .global .read 1 1 false ((List.range 128).map (fun i => (0, 0x1008 + i)))) (fun s1 gs =>
        s1.port.isEmpty && s1.absent == none && gs.all (fun g => match g.loc with
          | .dev pa => (homeOf pa).isSome
          | _ => false) && (newColl s1 0 (wordsOf sumDesc)).refusal s1 0x1008 == some causeAlign) &&
      ready (.collArm armedF) (hdrOf (.collArm armedF) armedF) s [0],
    let h := { hdrOf (.collCancel queryCollF) queryCollF with rel := some scopeWg }
    let x := { collOp base with ranks := [(1, 0, 0)] }
    let s := { base with colls := [x] }
    ready (.collCancel queryCollF) h s [0] && (s.release 0 scopeWg).absent == none && x.ctr == 0 && x.ranks != [] &&
      s.pending.all (fun p => p.after == []),
    armReady (withDesc base (0 :: zoneDesc.tail)) (fun s1 d => armCause s1 0 d == some causeEngine),
    armFits (withDesc netBase zoneDesc) 0 true,
    armFits (withDesc { netBase with owners := [(0, netOwner), (1, { owner0 with zones := (List.range 32).map (fun i => (i, zone1)) })] }
      zoneDesc) 32 true,
    armFits (withDesc { netBase with locks := (List.range 256).map (fun i => { lock0 with op := i }) } zoneDesc) 0 false,
    -- zones: none of that number, one that is not armed, one that is revoked, releases at the edge and past it
    let rs := zoneForms 31
    let s := withRegs base [(2, 32), (3, 1)]
    readyAll s [0] rs && (base.release 0 scopePkg).absent == none && (opnd s 0 0 none 2).toNat == 32,
    !(zoneOf (base.release 0 scopePkg) 0 31).armed,
    (zoneOf ((withZone { zone1 with revoked := true }).release 0 scopePkg) 0 5).revoked,
    readyAll (withRegs (withZone zone1) [(2, 5), (3, 61)]) [0] (zoneForms 5) && decide (zone1.w < zone1.rd + 61 ∧ zone1.rd + 60 ≤ zone1.w),
    zone1.queue.isEmpty && zone1.uncounted == 0 && zone1.status == 0 && (withZone zone1).absent == none && base.absent == none,
    readyAll (withZone { zone1 with uncounted := 8 }) [0] (zoneForms 5)]).all id = true := by decide +kernel

/-- The record of a launch of one workgroup of one warp at address 0, that completes at `d` (R58). -/
def recordOf (depc d : Nat) : List Nat :=
  [0, 1 + 2 ^ 32 + 2 ^ 48, 1 + 2 ^ 16, 0, 0, depc, 5, d, 7, 0, 0, 0, 0, 0, 0, 0]
/-- The launch's counter and its completion lie in the owner's reserve. -/
def doneAt : Nat := 2 ^ 40 + 0x700000
def depAt : Nat := 2 ^ 40 + 0x710000
def launch6 (st : LaunchState) (depc d : Nat) : Launch :=
  { (default : Launch) with state := st, owner := 0, seq := 6, record := (recordOf depc d).flatMap (leBytes 8), ifc := some 2 }
def withLaunch (x : Launch) : State := { base with launches := [(6, x), (5, launch5)] }
def lnchF (k : BitVec 3) : F64 := { f0 with set := k, d := 4, a := 2 }
def lnchReady (s : State) (k : BitVec 3) : Bool :=
  ready (.lnch (lnchF k)) { hdrOf (.lnch (lnchF k)) (lnchF k) with mem := true, rel := some scopePkg } s [0] && s.absent == none
def lnchReads (s : State) (p : State → Bool) : Bool :=
  [(0 : BitVec 3), 1].all (lnchReady s) && readsDesc s 2 (fun s1 _ => p (s1.release 0 scopePkg))
def seqF : F64 := { f0 with d := 4, a := 2 }
def seqReady (s : State) : Bool :=
  readyAll s [0] (with64 seqF [.lcancel, .lquery])
/-- An interface of the owner. -/
def ifc2 : Ifc := { (default : Ifc) with owner := some 0, pasid := 9 }
def hostOwner : Owner := { owner0 with policy := List.replicate 26 0 ++ [1, 0] }

theorem witness_LaunchRequests : ([
    lnchReady (withRegs base [(2, 0x1020)]) 1, lnchReady (withRegs base [(2, 2 ^ 56)]) 0,
    lnchReads (withDesc base (recordOf 0 doneAt)) (fun s => decide (countLaunches s (fun x => x.owner == 0 && seqDev x.seq && seqSrc x.seq == dieOf 0) < 256 ∧
      countLaunches s (fun x => x.owner == 0) < 4096)),
    lnchReads (withDesc { base with launches := (5, launch5) :: (List.range 256).map (fun i => (i + 6, { launch5 with seq := 2 ^ 63 })) } [])
      (fun s => decide (256 ≤ countLaunches s (fun x => x.owner == 0 && seqDev x.seq && seqSrc x.seq == dieOf 0))),
    seqReady (withRegs base [(2, 77)]) && (namedLaunch base 0 77).isNone,
    [false, true].all (fun e => let s := withRegs (withLaunch { launch6 .running 0 doneAt with ending := e }) [(2, 6)]
      seqReady s && namedLaunch s 0 6 == some 6 && (s.launches.get 6).ending == e && (s.launches.get 6).state != .none),
    let s := { base with ifcs := [(2, ifc2)], owners := [(0, hostOwner)] }
    (base.ifcs.get 2).owner == none && (s.ifcs.get 2).owner == some 0 && (s.owners.get 0).pending == none &&
      decide (¬ ((s.owners.get 0).pol 223 208 ≤ (s.ifcs.get 2).inflight ∨ 4096 ≤ countLaunches s (fun y => y.owner == 0))),
    let s := { base with ifcs := [(2, ifc2)], owners := [(0, owner0)] }
    decide ((s.owners.get 0).pol 223 208 ≤ (s.ifcs.get 2).inflight),
    let s := { withLaunch (launch6 .running 0 doneAt) with ifcs := [(2, ifc2)] }
    namedLaunch s 0 6 == some 6 && (s.launches.get 6).ifc == some 2 && !(s.launches.get 6).ending]).all id = true := by decide +kernel

def okEng {α : Type} (e : Eng α) (p : State → α → Bool) : Bool :=
  match e with
  | .ok s a => p s a
  | _ => false

/-- A counter of the reserve with a value and a status. -/
def withDep (v st : Nat) : State :=
  (withLaunch (launch6 .waiting depAt doneAt)).writeDev (2 ^ 29 + 0x710000) (leBytes 8 v ++ leBytes 8 st)

theorem witness_LaunchLife : ([
    let s := withLaunch (launch6 .accepted 0 8)
    (s.launches.get 6).state == .accepted && ownerHere s 0 && (s.launches.get 6).done % 64 != 0 && !(s.launches.get 6).ending,
    [((recordOf 0 doneAt), true), ((recordOf depAt doneAt), true), ([1] ++ (recordOf 0 doneAt).tail, false)].all (fun r =>
      let s := withLaunch { launch6 .accepted 0 doneAt with record := r.1.flatMap (leBytes 8) }
      let x := s.launches.get 6
      x.gtn == 0 && x.barl == 0 && x.done % 64 == 0 && okEng (luPlaces s 6 x.done 80) (fun s1 _ => s1.absent == none &&
        (if r.2 then recordDetail s1 x [] [] true == none && (x.depc == 0 || x.depc == depAt) else recordDetail s1 x [] [] true == some 1))),
    [((5 : Nat), (0 : Nat)), (4, 0), (9, 1)].all (fun c => let s := withDep c.1 c.2
      let x := s.launches.get 6
      x.state == .waiting && x.dept == 5 && okEng (luRead s 6 x.depc 16) (fun s1 bs => s1.absent == none &&
        leNat (bs.drop 8) % 64 == c.2 && leNat (bs.take 8) == c.1)),
    let s := withLaunch (launch6 .queued 0 doneAt)
    wantsPlace (s.launches.get 6) && ownerRuns s 0 && !hasReturning s 6 && (earlierLaunches s 6).isEmpty && (placeLaunch s 6).isSome
      && (placeOn s 6 0 0).isSome,
    let s := base.setThread 0 0 (fun t => { t with live := false })
    (s.wgs.get 1).phase == .resident && s.liveLanes 0 == [] && !enginesBusy s 1 && (s.wgs.get 1).launch == 5 && s.port.isEmpty &&
      s.absent == none,
    let x := { launch6 .ending 0 doneAt with ifc := none, recorded := some 1 }
    (withLaunch x).port.isEmpty && ownerHere (withLaunch x) 0,
    let x := { launch6 .ending 0 doneAt with ifc := none }
    let s := withLaunch x
    (wgsOf s 6).isEmpty && (warpsOfLaunch s 6).isEmpty && !invBusy s 6 [] && s.xfer.isEmpty && s.colls.isEmpty && s.port.isEmpty &&
      s.hostL2.isEmpty && s.faults.isEmpty && okEng (luPlaces (s.setLaunch 6 (fun y => y)) 6 x.done 80) (fun s1 ps => s1.absent == none && match ps with
        | [(.dev p, 0, 64), (.dev q, 64, 16)] => (homeOf p).isSome && (homeOf (p + 63)).isSome && (homeOf q).isSome &&
          (homeOf (q + 15)).isSome && decide (p + 64 ≤ q)
        | _ => false)]).all id = true := by decide +kernel
/-- The supervisor warp with registers: what v0 to v3 hold. -/
def supRegs (xs : List Nat) : State := withRegs supBase (xs.zipIdx.map (fun x => (x.2, BitVec.ofNat 64 x.1)))
def privReady (s : State) (i : Instr) (f : F64) (k : Hdr → Hdr) : Bool :=
  ready i (k { hdrOf i f with priv := true }) s [0]
/-- An invocation of core 0's supervisor warp. -/
def withInv (s : State) (i : Invocation) : State := { s with cores := [(0, { (default : Core) with inv := some i })] }
/-- Thread 0 of warp 0 waits for the walk that the invocation works on. -/
def walk3 : WalkReq := { owner := 0, die := 0, granule := 3, va := 0x30000, word := 0, core := 0, waiters := [.thread 0 1], taken := true }
def walking (s : State) : State :=
  { (s.setThread 0 0 (fun t => { t with wait := .translation 1 [(3, 0x30008)] })) with walks := [walk3] }
def quietHere (s : State) : Bool := s.port.isEmpty && s.absent == none && (s.warp 8).vgid == 0
def item0 : InvItem := { key := 3, va := 0x30000, word := 0, ended := false, launch := some 5 }
def mail0 : SvcRec := { words := [], warp := 0, lane := 0, dest := 4, slot := 2, vgid := 1, index := 0, order := 3, taken := true }
def svcWork : Pending := { pid := 40, unit := .engine, warp := 0, lanes := [0], slot := 2, flags := 0, acq := none, work := .slotOnly }

theorem witness_TranslationHandlerReturnsAndReplies : ([
    -- translations: no argument, one that is installed; probes inside and beyond the address space
    [(0 : BitVec 3), 1].all (fun k => let f : F64 := { f0 with set := k, d := 4, a := 0, b := 1, c := 2 }
      privReady supBase (.tfill f) f id && privReady (supRegs [0x30000, 0x30000, 12]) (.tfill f) f id),
    let e := fillEntry 0 0x30000 0x30000 12
    let s := supRegs [0x30000, 0x30000, 12]
    !fillBad s 0 0x30000 0x30000 12 e && fillAllowed s 0 e && !fillConflicts s 0 0 e &&
      !(match invStart s 0 with
        | st => fillStale s 0 0 st e),
    let f : F64 := { f0 with d := 4, a := 0 }
    [0x100, 2 ^ 56].all (fun a => privReady (supRegs [a]) (.tprobe f) f id),
    [(0 : BitVec 3), 1].all (fun k => let f : F64 := { f0 with set := k, d := 4, a := 0, b := 1 }
      [[2 ^ 56 - 8, 16], [0, 0], [0x30000, 2 ^ 56 - 0x30000]].all (fun xs =>
        privReady (supRegs xs) (.tinv f) f (fun h => { h with mem := true, rel := some scopePkg })) &&
        ((supBase.release 8 scopePkg).absent == none)) && supBase.xfer.isEmpty && supBase.colls.isEmpty &&
      supBase.wgs.all (fun g => g.2.savedX.isEmpty),
    -- an item that has ended, and a thread that waits for one
    [({ item0 with ended := true } : InvItem), item0].all (fun it => let s := walking (withInv supBase { inv0 with items := [it] })
      let r : F64 := { f0 with a := 0 }
      let i : F64 := { f0 with md := 1, c := 2 }
      privReady s (.treplayReg r) r (fun h => { h with rel := some scopePkg }) &&
        privReady s (.treplayImm i) i (fun h => { h with rel := some scopePkg }) && quietHere s && s.liveLanes 0 == [0] && isSup 8),
    let s := withInv supBase { inv0 with items := [{ item0 with ended := true }] }
    let h := { hdrOf (.hret f0) f0 with priv := true, coll := true }
    ready (.hret f0) h s [0] && guardLanes h s == [0] && s.absent == none && (s.launches.get 5).state != .none,
    let f : F64 := { f0 with a := 0, b := 1 }
    let s := { supRegs [31, 5] with cores := [(0, { (default : Core) with inv := some inv0, mailbox := [(31, some mail0)] })]
                                    pending := [svcWork] }
    privReady s (.sreply f) f (fun h => { h with rel := some scopePkg }) && quietHere s && (s.wgs.get 1).owner == 0 &&
      (s.wgs.get 1).phase == .resident && (s.wgs.get 1).warps[0]? == some 0,
    let f : F64 := { f0 with a := 0, b := 1 }
    [32, 30].all (fun x => privReady (supRegs [x, 5]) (.sreply f) f (fun h => { h with rel := some scopePkg })) &&
      (supBase.cores.get 0).mailbox.get 30 == none]).all id = true := by decide +kernel

/-- A save or restore invocation of workgroup 1, whose frame is the first of the pool, and the frame's address. -/
def saveAt : Nat := 2 ^ 40 + 0x500000
def saving (k : InvKind) (xs : List Nat) : State :=
  withInv { supRegs xs with wgs := [(1, { wg1 with phase := .saved, frame := some (0, 0), quotas := [4], warps := [0], benchLen := 1024 })] }
    { inv0 with kind := k, vgid := 1, items := [{ item0 with key := 0 }] }
def partF (n : BitVec 9) (k : BitVec 3) : F64 := { f0 with md := 1, set := k, a := 0, b := 1, c := n }

theorem witness_SaveAndRestoreInstructions : ([
    [(0 : BitVec 9), 1, 2, 3].all (fun n => [(0 : BitVec 3), 1].all (fun k => let f := partF n k
      [.save, .restore].all (fun iv => let s := saving iv [saveAt, 0]
        privReady s (.csave f) f (fun h => { h with mem := true }) && privReady s (.crestore f) f (fun h => { h with mem := true }) &&
          saveInv s 0 == some (1, saveAt) && s.absent == none && (s.wgs.get 1).warps.getD 0 0 != 8))),
    (saveInv supBase 0).isNone && privReady supBase (.csave (partF 0 0)) (partF 0 0) (fun h => { h with mem := true }),
    -- a misplaced part, a warp that the workgroup does not have, parts at both ends of the frame
    decide ((saveAt + 64) % 1024 ≠ 0 ∧ saveAt % 1024 = 0), decide (((saving .save []).wgs.get 1).warps.length ≤ 1),
    decide (saveAt ≤ saveAt + 0x110000 - 2048 ∧ saveAt + 0x110000 - 2048 + 2048 ≤ saveAt + 0x110000),
    let s := saving .restore [saveAt, 0]
    [(1, true), (2, true), (3, false)].all (fun (x : Nat × Bool) => match (s.chargeInv 0 0 2048).restorePart 1 x.1 0 saveAt with
      | some t => x.2 && t.absent == none
      | none => !x.2),
    let s := saving .save [saveAt, 0]
    ((s.chargeInv 0 0 2048).savePart 1 3 0 saveAt).absent == none]).all id = true := by decide +kernel

/-- What a unit has to write, held in slot 2 of lane 0 of warp 0. -/
def unitWork (u : WorkUnit) (wk : Work) (acq : Option Nat) : Pending :=
  { pid := 40, unit := u, warp := 0, lanes := [0], slot := 2, flags := 1, acq := acq, work := wk }
def withPending (p : Pending) : State := { base.setThread 0 0 (fun t => { t with slots := 2 }) with pending := [p] }
def found (p : Pending) : Bool :=
  decide ((withPending p).pending.find? (fun x => x.pid == p.pid && x.unit == p.unit) = some p)
def port0 : PortStore := { pid := 3, core := 0, owner := 0, vgid := 1, va := 8, loc := .dev 8, bytes := [1, 2], cross := false }
def inv7 : InvReq := { id := 7, owner := 0, va := 0x30000, len := 0, removed := 0, pages := [], pid := some 40, lane := 0, dest := 4 }

theorem witness_UnitCompletionsFormationAndWaits : ([
    [WorkUnit.divider, .special, .conversion, .tfill, .lnch].all (fun u => found (unitWork u (.writeRegs [(0, 4, 5)]) none)),
    let x : LaneWork := { lane := 0, va := 8, loc := .dev 8, data := 0, data2 := 0 }
    [MemTy.b8, .i16, .b64].all (fun t => found (unitWork .memory (.load .global t 4 [x]) none)) && (homeOf 8).isSome && (homeOf 15).isSome,
    (homeOf 8).isSome && (homeOf 9).isSome && base.absent == none && decide (({ base with port := [port0] } : State).port = [port0]),
    let p := unitWork .tinv (.writeRegs [(0, 4, 5)]) (some scopePkg)
    let s := { withPending p with tinvs := [inv7] }
    found p && !invWaits s inv7 && decide (inv7.pid = some p.pid) && !invWaits { base with tinvs := [{ inv7 with pid := none }] } { inv7 with pid := none },
    let x : LaneWork := { lane := 0, va := 0x30008, loc := .dev 8, data := 0, data2 := 0 }
    invWaits (withPending (unitWork .memory (.load .global .b64 4 [x]) none)) inv7,
    -- formation: a ready thread that may issue; one whose wait ends; a thread that waits for an engine
    mayIssue base 0 && (base.thread 0 0).live && (base.thread 0 0).wait == .ready && !supStays base 0 0,
    let s := base.setThread 0 0 (fun t => { t with wait := .scoreboard 1 })
    waitEnds s 0 (s.thread 0 0) && quadOf 0 == 0,
    let s := base.setThread 0 0 (fun t => { t with wait := .resource })
    (s.thread 0 0).wait == .resource && dieOf 0 == 0]).all id = true := by decide +kernel

/-- The transfer of template 0, running on channel 0 with its locks, at a part's start and once its one unit has landed. -/
def xferRun (x : XferOp) : State :=
  let s := { withTmpl copyTmpl with xfer := [(0, [x])] }
  { s with locks := x.locks s 0 }
def countedOp : XferOp := { copyOp with tmpl := copyOp.tmpl.set 12 0x2000 }
/-- The transfer engine's translation of the page at 0 is in the die's array. -/
def xferMapped (x : XferOp) : State := let s := xferRun x; { s with tlb := s.tlb.set (tlbNormal 0) [placePage] }
def unitsOf (x : XferOp) : List Nat := x.partLines x.parts

theorem witness_TransferSteps : ([
    let x := copyOp
    let s := xferMapped x
    decide (running s 0 0 = some x) && x.ended.isNone && x.sent.isNone && s.pending == [] && !x.refused && !x.paused && !isFrozen s 0 0 && (match (unitsOf x)[x.landed]? with
      | some u => (match x.landLine s 0 u with
        | .ok t _ => t.absent == none
        | _ => false)
      | none => false),
    (match copyOp.landLine (xferRun copyOp) 0 ((unitsOf copyOp).getD 0 0) with
      | .wait t => t.absent == none
      | _ => false),
    (match (unitsOf copyOp)[0]? with
      | some u => (match copyOp.landLine { xferMapped copyOp with tlb := [(tlbNormal 0, [{ placePage with frame := 96 * 2 ^ 30 }])] } 0 u with
        | .fail _ _ _ => true
        | .ok t _ => t.absent != none
        | .wait _ => true)
      | none => false),
    let x := { copyOp with landed := (unitsOf copyOp).length }
    decide ((unitsOf x).length ≤ x.landed ∧ x.parts + 1 = x.partCount) && !x.baren && x.ctr == 0 && (xferMapped x).absent == none &&
      showFits (xferMapped x) x.owner x.wrote (.bench 0),
    let x := { countedOp with landed := (unitsOf copyOp).length }
    x.ctr != 0 && okEng (engLoc (xferMapped x) (x.req 0 .atomic) (.glob x.ctr)) (fun t l => t.absent == none && t.pending.isEmpty && t.port.isEmpty && t.opened.isEmpty &&
      (xferMapped x).opened.isEmpty && decide (t.xfer = (xferMapped x).xfer) && showFits t x.owner x.wrote l && match l with
      | .dev pa => (homeOf pa).isSome && (homeOf (pa + 15)).isSome
      | _ => false)]).all id = true := by decide +kernel

def copy0 (off : Nat) : BsendCopy :=
  { id := 1, core := 0, setV := 9, vgid := 1, owner := 0, offset := off, datum := 5, entry := some 0, warp := 0, index := 0, ctr := 0, ctrOn := false,
    landed := none }
def credit0 : CreditMsg :=
  { id := 1, vgid := 1, src := 1, core := 0, entry := 0, arr := 1, bytes := 8, owner := 0, warp := 0, op := 7, result := none }
/-- A sum over one rank whose contribution has come, and the state that holds it. -/
def collDone : CollOp := { collOp base with op := 7, desc := wordsOf (sumDesc.set 5 1), ranks := [(0, 0, 0)], mine := true }
def contrib0 : Contrib :=
  { owner := 0, group := 0, rank := 0, seq := 0, desc := collDone.desc, src := List.replicate 64 1, tags := [], failed := false, taken := [], die := some 0, via := 0 }
def collRun (x : CollOp) : State := { base with colls := [x], contribs := [contrib0], tlb := base.tlb.set (tlbNormal 0) [placePage] }

theorem witness_CopiesCreditsAndCollectiveSteps : ([
    let s := { withBars bar1 with bsends := [copy0 8] }
    memberOn s 0 9 == some 1 && !benchLocked s 0 (benchKey 0 8) && wgBarKey (s.wgs.get 1) 0 == some 0 && (s.bars.get 0).v &&
      (bar1.bring 0 8).isSome && s.absent == none && decide (8 + 8 ≤ (s.wgs.get 1).benchLen),
    let s := { base with bsends := [copy0 4096] }
    memberOn s 0 9 == some 1 && decide ((s.wgs.get 1).benchLen < 4096 + 8), (memberOn { base with wgs := [] } 0 9).isNone,
    benchLocked { base with locks := [{ lock0 with space := .bench 0, hi := 2 ^ 20 }] } 0 (benchKey 0 8),
    (withBars bar1).bars.get 0 == bar1 && bar1.v && bar1.vgid == credit0.vgid && (bar1.bring 1 8).isSome,
    (barFull.bring 1 8).isNone && barFull.v && barFull.vgid == 1 && issuerWarp (withBars barFull) 0 1 0 == some 0,
    !(base.bars.get 0).v,
    -- a part whose credit travels, and one whose credit would pass a field
    [none, some 2].all (fun r => let x := { copyOp with sent := some (1, .dev 8) }
      let s := { xferRun x with credits := [{ credit0 with result := r }] }
      decide (running s 0 0 = some x) && x.ended.isNone && s.absent == none && showFits s x.owner [] (.dev 8)),
    let x := { collDone with ended := some (4, true, true) }
    (collRun x).colls == [x] && x.ctr == 0 && x.ranks != [] && x.sent.isNone && (collRun x).pending == [] && issuerWarp (collRun x) ((collRun x).wgs.get 1).core 1 0 == some 0,
    let x := collDone
    let s := collRun x
    x.atHome && x.sent.isNone && !x.refused && x.mine && !x.broken s && x.gathered s == [some contrib0] && x.ctr == 0 && !x.baren && x.dtag == 0 &&
      okEng (x.write s x.dst (x.result [contrib0]).1) (fun t _ => t.absent == none && t.colls.all (fun y => showFits t y.owner y.wrote (.bench 0))),
    ({ collDone with desc := collDone.desc.set 5 (2 ^ 48 + 1) } : CollOp).tmo == 1 && collDone.tmo == 0]).all id = true := by
  decide +kernel
/-- The header of a KDT datagram of a type for flow 3, with a PSN, an acknowledgement and a payload of 8 bytes (R292); with what
the other side has sealed it is a datagram. -/
def kdtHeader (type psn ack : Nat) : List Byte :=
  leBytes 32 (1 + type * 2 ^ 8 + 2 ^ 16 + 2 ^ 17 + 8 * 2 ^ 48 + 3 * 2 ^ 64 + psn * 2 ^ 96 + ack * 2 ^ 128)
def datagram (type psn ack : Nat) : List Byte :=
  kdtHeader type psn ack ++ gcmSeal 0 (kdtNonce (kdtField (kdtHeader type psn ack) 95 64) (kdtField (kdtHeader type psn ack) 127 96) true)
    (kdtHeader type psn ack) (List.replicate 8 1)
def gram4 : Datagram := { type := 1, psn := 4, opid := 0, offset := 0, last := true, bytes := [], wire := [0] }
def gram5 : Datagram := { gram4 with psn := 0, wire := [] }
def flow3 : Flow :=
  { (default : Flow) with live := true, sendPsn := 5, ackedPsn := 4, recvNext := 2 ^ 32 - 1, rate := 2 ^ 20,
                          unacked := [gram4] }
def withFlow (f : Flow) : State := { base with flows := [(3, f)] }
/-- A frame of 82 bytes that carries 16 bytes over UDP and IPv6 to address 0 and port 0 (R291). -/
def frame0 : List Byte :=
  List.replicate 12 0 ++ [0x86, 0xDD] ++ [0x60, 0, 0, 0, 0, 24, 17, 0] ++ List.replicate 32 0 ++ [0, 0, 0, 0, 0, 24, 0, 0] ++
    List.replicate 16 7 ++ List.replicate 4 0
def landing : Zone := { zone1 with w := 104, base := 0x1000, z := 4096, ctr := 0x4000 }
def withLanding (z : Zone) : State := { withZone z with tlb := base.tlb.set (tlbNormal 0) [placePage] }
def udp0 : UdpFrame := { cls := 0, daddr := 0, dport := 0, data := List.replicate 16 7 }
def record0 : List Byte := leBytes 8 16 ++ List.replicate 16 7

/-- Data, an acknowledgement and a negative one that hold their tags. -/
theorem datagram_ok : kdtOk flow3 (datagram 1 (2 ^ 32 - 1) 5) 1 = true ∧ kdtOk flow3 (datagram 2 0 5) 2 = true ∧
    kdtOk flow3 (datagram 3 0 4) 3 = true :=
  ⟨kdtOk_sealed flow3 1 _ (List.replicate 8 1) (by decide) (by decide +kernel),
    kdtOk_sealed flow3 2 _ (List.replicate 8 1) (by decide) (by decide +kernel),
    kdtOk_sealed flow3 3 _ (List.replicate 8 1) (by decide) (by decide +kernel)⟩

theorem witness_FlowsPausesAndFrames : ([
    !(base.flows.get 3).live && kdtField (datagram 1 0 0) 95 64 == 3,
    [(1, 2 ^ 32 - 1, 5), (2, 0, 5), (3, 0, 4)].all (fun (x : Nat × Nat × Nat) => let d := datagram x.1 x.2.1 x.2.2
      let f := (withFlow flow3).flows.get 3
      decide (f = flow3) && f.live && !f.failed && f.expects d && kdtField d 95 64 == 3 && kdtField d 127 96 == x.2.1 &&
        kdtField d 16 16 == 1 && (kdtField d 159 128 == f.sendPsn) == (x.1 != 3) && decide ((f.take d false).retries < 16) &&
        decide ((f.take d false).unacked = if x.1 = 3 then [gram4] else [])) && flow3.recvGot.isEmpty && flow3.queue.isEmpty,
    -- outside the receive window, and twice
    decide (256 ≤ psnAfter (kdtField (datagram 1 255 5) 127 96) flow3.recvNext) &&
      ({ flow3 with recvGot := [3] } : Flow).recvGot.contains (kdtField (datagram 1 3 5) 127 96),
    [15, 16].all (fun n => let f := { flow3 with retries := n }
      f.unacked.find? (fun e => e.type == 1) == some gram4 && f.live && !f.failed),
    [gram4, gram5].all (fun u => ({ flow3 with queue := [u] } : Flow).leaves == some u) && gram4.wire != [] && gram5.wire == [],
    decide (gram5.type < 2 ^ 8 ∧ gram5.bytes.length < 2 ^ 16 ∧ gram5.psn < 2 ^ 32 ∧ flow3.recvNext < 2 ^ 32 ∧ gram5.opid < 2 ^ 32) &&
      ({ flow3 with side := true } : Flow).side == !flow3.side,
    (flow3.unacked.all (fun u => decide (psnAfter u.psn flow3.ackedPsn < psnAfter flow3.sendPsn flow3.ackedPsn))),
    decide (kdtField (leBytes 32 2) 7 0 ≠ 1), base.colls.isEmpty,
    bitOf (({ base.ports.get 0 with paused := 4 } : Port).paused) 2 && !bitOf (base.ports.get 0).paused 2 &&
      (base.ports.get 0).peerPause.length == 8 && (base.ports.get 0).peerUntil.length == 8,
    decide (64 ≤ frame0.length ∧ frame0.length ≤ 9216) && parseFrame frame0 == some udp0 && (matchZone base 0 udp0).isNone &&
      (parseFrame (List.replicate 64 0)).isNone && decide (([] : List Byte).length < 64),
    [landing, { landing with revoked := true }, { landing with rd := 0, w := 4096 - 8 }].all (fun z =>
      matchZone (withLanding z) 0 udp0 == some (0, 5) && zoneOf (withLanding z) 0 5 == z && (withLanding z).absent == none),
    decide (({ landing with rd := 0, w := 4096 - 8 } : Zone).free < 24),
    let s := withLanding landing
    decide (24 ≤ landing.free) && landing.queue.isEmpty && okEng (landRecord ({ s with fresh := s.fresh + 1 }.setZone 0 5 (fun x =>
      { x with pend := 0, queue := [record0] })) 0 { landing with pend := 0, queue := [record0] } record0) (fun t _ => t.absent == none),
    !(zoneOf base 0 5).armed,
    let z := { landing with uncounted := 24 }
    z.armed && !z.refused && z.status == 0 && okEng (engLoc (withLanding z) (zoneReq (withLanding z) 0 z .atomic) (.glob z.ctr))
      (fun t l => t.absent == none && match l with
        | .dev pa => (homeOf pa).isSome && (homeOf (pa + 15)).isSome
        | _ => false)]).all id = true := by decide +kernel

/-- The warp has an asynchronous cause to take. -/
def due (s : State) (x : Warp → Warp) : State := s.setWarp 0 (fun w => x { w with cause := 2, asyncNew := true })
/-- Where nothing of the warp waits with an engine, nothing is dropped. -/
theorem dropUnready_quiet {s : State} {w : Nat} (ha : s.asked = []) (hc : (s.cores.get (coreOf w)).cube = []) (hp : s.pending = []) :
    s.dropUnready w = s := by
  simp only [State.dropUnready, ha, hc, hp, List.filter_nil, List.map_nil, and_self, if_true]
  cases s
  simp_all
def calm (s : State) : Bool :=
  s.absent == none && s.pending.isEmpty && s.asked.isEmpty && (s.cores.get 0).cube.isEmpty && s.launchOf 0 == 5 && !(s.launches.get 5).ending &&
    (s.launches.get 5).state != .none

theorem witness_TrapEntry : ([
    base.absent == none && !trapDue base 0,
    (let p : Pending := { svcWork with slot := 0, after := [7] }
     let s := due ({ base with pending := [p] }.enterAll 0 [0] (.result 40)) id
     s.absent == none && trapDue s 0 && awaitsOps s 0),
    let s := due base (fun w => { w with inHandler := true, syncNew := true })
    trapDue s 0 && !isSup 0 && calm s && (s.warp 0).inHandler && (s.warp 0).syncNew,
    let s := due base (fun w => { w with inHandler := true })
    trapDue s 0 && (s.warp 0).inHandler && !(s.warp 0).syncNew,
    let s := due (base.writeDev (2 ^ 29 + 8 * 4) (leBytes 8 0)) id
    trapDue s 0 && (trapPc s 0).isNone && calm s && (s.warp 0).cause != 0,
    let s := due base id
    let u := ((s.dropUnready 0).withdrawWarp 0).finishWork [0]
    let xs := (List.range 4).map (fun k => (0, spillAddr u 0 0 ((u.thread 0 0).spd + k)))
    let r := xlateAll u 0 0 .write xs
    trapDue s 0 && trapPc u 0 == some (2 ^ 40 + 0x102000) && u.liveLanes 0 == [0] && decide ((u.thread 0 0).spd + 4 ≤ spillLimit u 0) &&
      xs.all (fun a => decide (a.2 + 8 ≤ 2 ^ 56)) && !(u.warp 0).frameFail && !(u.sessions.get 0).live && r.refused.isEmpty &&
      r.waiting.isEmpty && !r.full && r.st.absent == none]).all id = true := by decide +kernel

/-- The workgroup on its way out and back, with a frame of its own. -/
def frame00 : Option (Nat × Nat) := some (0, 0)
/-- It has no warps left and holds no bench and no accumulator: the parts of its frame are as small as they can be. -/
def slimWg : Workgroup := { wg1 with benchLen := 0, accKiB := 0, quotas := [], warps := [] }
def leaving : State := { base with wgs := [(1, { slimWg with phase := .stopping, frame := frame00 })] }
def returning (fill : Nat) : State :=
  let s := { base with wgs := [(1, { slimWg with phase := .restoring, frame := frame00 })] }
  match layoutFor leaving slimWg 0 (2 ^ 40 + 0x500000) 0 with
  | none => s
  | some l =>
    let p := 2 ^ 29 + 0x500000
    let s := s.writeDev p (leBytes 16 (l.e / 4096 * 2 ^ 40 + l.a / 4096 * 2 ^ 48 + l.b / 4096 * 2 ^ 56 + l.w * 2 ^ 64))
    let s := s.writeDev (p + l.w + 8 * 96) (leBytes 8 1)
    (s.writeDev (p + l.w + 8 * 127) (leBytes 8 fill)).writeDev (p + l.e) (leBytes 8 fill)
def restored (s : State) : Bool :=
  let g := s.wgs.get 1
  match frameOf s g with
  | none => false
  | some (at_, slot) =>
    let y := slotLayout s g.owner at_ slot
    let offs := warpOffs (quotasOf s g) y.w
    let warps := (offs.zip (List.range offs.length)).foldl (fun (t : Option State) (x : Nat × Nat) =>
      t.bind (fun t => t.restorePart 1 0 x.2 (at_ + x.1))) (some s)
    (warps.bind (fun t => (t.restorePart 1 1 0 (at_ + y.b)).bind (fun t =>
      (t.restorePart 1 2 0 (at_ + y.a)).bind (fun t => t.restorePart 1 3 0 (at_ + y.e))))).isSome
/-- A saved workgroup that may come back. -/
def away : State := { base with wgs := [(1, { wg1 with phase := .saved, frame := frame00, sets := [], warps := [], quotas := [4] })] }
/-- Two owners share core 0, and the workgroup's thread waits for a barrier while a launch finds no room. -/
def shared : State :=
  { base with owners := [(0, { owner0 with cores := [], shares := [0] }), (1, { owner0 with cores := [], shares := [0] })]
              cores := [(0, { (default : Core) with turn := 1 })]
              launches := [(5, launch5), (6, { launch6 .queued 0 doneAt with owner := 1 })] }
def crowded : State :=
  let big := (recordOf 0 doneAt).set 2 (1 + 12 * 2 ^ 16 + 2 ^ 28 * 2000)
  { base.setThread 0 0 (fun t => { t with wait := .barrier false 0 3 }) with
    wgs := [(1, { wg1 with sets := [], benchLen := 2048 * 128 })]
    launches := [(5, launch5), (6, { launch6 .queued 0 doneAt with record := big.flatMap (leBytes 8) })] }

theorem witness_WorkgroupsLeaveAndReturn : ([
    (leaving.wgs.get 1).phase != .resident && (({ base with launches := [(5, { launch5 with ending := true })] } : State).launches.get 5).ending,
    (base.wgs.get 1).phase == .resident && !(base.launches.get 5).ending && setStands base 1 && (doomedWarp base wg1).isNone && (stopFrame base 1).isSome &&
      together base 1 == [1] && (stopFrames base [1]).isSome && (match stopFrame base 1 with
        | some f => (base.stopWg 1 f).absent == none
        | none => false),
    (stopFrames { base with owners := [(0, { owner0 with rsize := 0 })] } [1]).isNone,
    (doomedWarp (base.setWarp 0 (fun w => { w with syncNew := true, inHandler := true })) wg1) == some 0,
    let s := { base with wgs := [(1, wg1), (2, { wg1 with phase := .saved })] }
    !setStands s 1 && (s.wgs.get 1).phase == .resident,
    !savable { leaving with bsends := [copy0 8], sets := base.sets } 1,
    (saverOf leaving 1).isNone && savable leaving 1 && (match frameOf leaving (leaving.wgs.get 1) with
      | some (at_, slot) => slot == 0 && (layoutFor leaving (leaving.wgs.get 1) 0 at_ slot).isSome
      | none => false) && (leaving.crucibleSave 1).absent == none,
    (saverOf (returning fmtTag) 1).isNone && restored (returning fmtTag) && ((returning fmtTag).crucibleRestore 1).absent == none,
    !restored (returning 0) && ((returning 0).crucibleRestore 1).absent == none && ((returning 0).launches.get 5).state != .none,
    readyToRestore away 1 && ownerRuns away 0 && !(away.launches.get 5).ending && (earlierLaunches away 5).isEmpty &&
      (away.wgs.get 1).sets.isEmpty && (away.wgs.get 1).savedX.isEmpty && (restoreOn away 1 0).isSome && (restoreOn away 1 1).isNone,
    (nextTurn base 0).isNone && nextTurn shared 0 == some 1, !allWaiting base 0 0,
    ownerRuns crowded 0 && allWaiting crowded 0 0 && firstWanting crowded 0 == some 6,
    (placeLaunch crowded 6).isNone && (toDisplace crowded 6 1 [1] [] == some ([1], 0)) && (crowded.displaceAll (6, 0) [1]).1,
    let s := { crowded with owners := [(0, { owner0 with rsize := 0 })] }
    !(s.displaceAll (6, 0) [1]).1 && !(s.launches.get 6).ending,
    -- a queued launch that fits, with nothing of its own away, and with a workgroup that no core can take
    [false, true].all (fun b => let s := { crowded with
        wgs := [(1, { wg1 with sets := [] })] ++ if b then [(2, { wg1 with launch := 6, phase := .saved, sets := [], warps := [], quotas := [200] })] else []
        launches := [(5, launch5), (6, launch6 .queued 0 doneAt)] }
      ownerRuns s 0 && allWaiting s 0 0 && firstWanting s 0 == some 6 && (placeLaunch s 6).isSome && hasReturning s 6 == b &&
        (List.range 4).all (fun d => !canReturn s 6 d))]).all id = true := by decide +kernel

def walkAt : WalkReq := { walk3 with taken := false }
/-- An entry of the owner's fault queue, and the work of core 0's supervisor warp. -/
def fault0 : FaultWaiters :=
  { live := true, index := 3, die := 0, va := 0x30000, kind := 1, core := 0, launch := some 5, wg := some 0, word := 0, waiters := [.thread 0 1], dispatched := some 0,
    order := 3, taken := false, seen := true }
def freeCore : Core := { (default : Core) with inv := none }

theorem witness_HandlersAreEntered : ([
    (supBase.cores.get 0).inv.isSome,
    let s := { base with walks := [walkAt] }
    walkItems s 0 == [walkAt] && walkPc s 0 == some (2 ^ 40 + 0x100000) && (s.cores.get 0).inv.isNone && s.absent == none,
    let s := { base with faults := [(9, fault0)] }
    (walkItems s 0).isEmpty && faultItems s 0 == [(9, fault0)] && faultPc s (9 / 2 ^ 32) == some (2 ^ 40 + 0x101000),
    [false, true].all (fun r => let s := { leaving with cores := [(0, { freeCore with saves := [(r, 1)] })] }
      (walkItems s 0).isEmpty && (faultItems s 0).isEmpty && nextSave s 0 == some (r, 1) && (savePc s 0).isSome &&
        (frameOf s (s.wgs.get 1)).isSome && !isFrozen s 0 0 && decide ((s.wgs.get 1).warps.length ≤ 32)),
    let m : SvcRec := { mail0 with words := List.replicate 8 1, taken := false }
    let s := { base with cores := [(0, { freeCore with mailbox := [(31, some m)] })] }
    (walkItems s 0).isEmpty && (faultItems s 0).isEmpty && nextSave s 0 == none && svcItems s 0 == [(31, m)] && (svcPc s 0).isSome,
    (walkItems base 0).isEmpty && (faultItems base 0).isEmpty && nextSave base 0 == none && (svcItems base 0).isEmpty]).all id = true := by
  decide +kernel

/-- The fault entry numbered 3 of owner 0, in state POSTED, with AUTODISP on. -/
def queued : State := { base.setThread 0 0 (fun t => { t with wait := .translation 1 [(3, 0x30008)] }) with
  faults := [(faultKey 0 3, { fault0 with dispatched := none, seen := false })] }
def hartOwner (xs : List (Nat × Nat)) : State :=
  { base with owners := [(0, { owner0 with hart := xs.foldl (fun (m : SMap Word) x => m.set x.1 (BitVec.ofNat 64 x.2)) [] })] }

def named (s : State) (f : FaultWaiters) : Bool := entryAt s 0 3 == some (faultKey 0 3, f) && s.faults.get (faultKey 0 3) == f && f.live

/-- Whether an address is of owner 0's frames, the fault port or the service hart's SRAM. -/
def hartMapped (a : Nat) : Bool :=
  decide ((2 ^ 52 ≤ a ∧ ownsFrame owner0 (a - 2 ^ 52) = true) ∨ (0x100000 ≤ a ∧ a < 0x100048) ∨ a < 2 ^ 20)

theorem witness_FaultQueueAndHart : ([
    !autodisp base 0,
    let s := queued.writeDev (2 ^ 29 + 8 * 14) (leBytes 8 1)
    autodisp s 0 && s.absent == none && s.held.isEmpty && unseen s 0 == some (faultKey 0 3, { fault0 with dispatched := none, seen := false })
      && faultState s 0 3 == 0 && faultQueue s 0 == some (2 ^ 40 + 0x300000, 64) && dirWord s 0 16 == dirWord s 0 15,
    (entryAt base 0 3).isNone && named queued { fault0 with dispatched := none, seen := false },
    -- FQDONE of states 2 and 3, and of the states beside them
    [2, 3].all (fun st => bitsOf (3 + st * 2 ^ 32) 34 32 == st && (queued.resWrite 0 (faultEntryVa queued 0 3 + 32) [BitVec.ofNat 8 st]).absent == none)
      && queued.liveLanes 0 == [0] && (queued.thread 0 0).wait == .translation 1 [(fault0.va / 2 ^ 16, 0x30008)],
    [1, 5].all (fun st => decide (bitsOf (3 + st * 2 ^ 32) 34 32 < 2 ∨ 4 < bitsOf (3 + st * 2 ^ 32) 34 32)),
    -- DISPATCH to core 0, which the owner has, and to core 1, which it has not
    (ownerCores (queued.owners.get 0)).contains 0 && !(ownerCores (queued.owners.get 0)).contains 1 && (faultPc queued 0).isSome,
    -- FILLGO on a die, with operands that fill and that do not
    let s := hartOwner [(0x10, 0x30000), (0x18, 0x30000), (0x20, 12)]
    let e := fillEntry 0 0x30000 0x30000 12
    !fillBad s 0 0x30000 0x30000 12 e && fillAllowed s 0 e && !fillConflicts s 3 0 e && fillBad base 0 0 0 0 (fillEntry 0 0 0 0),
    let s := hartOwner [(0x30, 2 ^ 56 - 8), (0x38, 16)]
    ((s.owners.get 0).hart.get 0x38).toNat == 16 && decide (2 ^ 56 < ((s.owners.get 0).hart.get 0x30).toNat + 16),
    -- addresses that the service hart has, and some that it has not
    [0, 2 ^ 20 - 1, 0x100000, 0x100047, 2 ^ 52, 2 ^ 52 + 2 ^ 24 - 1].all (fun a => hartMapped a) &&
      [0x100048, 2 ^ 52 - 1, 2 ^ 52 + 2 ^ 24].all (fun a => !hartMapped a),
    ownsFrame owner0 (2 ^ 24 - 1) && !ownsFrame owner0 (2 ^ 24) && (homeOf (2 ^ 24 - 1)).isSome && base.held.isEmpty]).all id = true := by
  decide +kernel
/-- A command record (R383) of a code for handle 77, with its first arguments. -/
def cmdOf (code : Nat) (xs : List Nat) : List Byte :=
  leBytes 256 (code + 9 * 2 ^ 32 + 77 * 2 ^ 64 + 6 * 2 ^ 128 + (xs.zipIdx.map (fun x => x.1 * 2 ^ (192 + 64 * x.2))).foldl (· + ·) 0)

/-- Owner 0 in a state, under a policy. -/
def ruled (st : DevState) (pol : List Byte) : State := { base with owners := [(0, { owner0 with state := st, policy := pol })] }

/-- Where a record's signature holds under the owner's policy, which only a device's own keys decide (R383), and the policy
has the command's OPS bit, every command passes the shared checks: the rest of the record and the owner are concrete. -/
theorem gate_passes (st : DevState) (pol cmd : List Byte) (code : Nat) (allowed : List DevState)
    (hb : badRecord cmd = false) (hn : ownerOf (ruled st pol) (cmdHandle cmd) = some 0) (hs : signedOk pol cmd = true)
    (ha : allowed.contains st = true) (ho : bitOf (bitsOf (leNat pol) 127 64) code = true) :
    gate (ruled st pol) cmd code allowed = .pass ((ruled st pol).noteNonce 0 cmd) 0 := by
  have hx : (ruled st pol).owners.get 0 = { owner0 with state := st, policy := pol } := rfl
  have h0 : owner0.nonces.get (Config.sha384 (cmdPub cmd)) = 0 := rfl
  have hp : owner0.pending = none := rfl
  simp [gate, hb, hn, hx, hs, h0, hp, Owner.pol, ho]
  simpa using ha

/-- Every code is a command that its states allow, with a record that names an owner that exists; the other parts of the
records are well formed. -/
theorem witness_CommandsAct : ([
    [(2, notEvicted, DevState.stopped), (3, [.stopped, .paused], .stopped), (4, notEvicted, .running), (5, notEvicted, .paused),
     (6, [.stopped], .stopped), (7, [.running], .running), (8, [.paused, .evicted], .paused), (8, [.paused, .evicted], .evicted),
     (9, [.running, .paused], .running), (10, anyState, .evicted), (11, anyState, .running), (12, notEvicted, .running)].all
      (fun (x : Nat × List DevState × DevState) => !badRecord (cmdOf x.1 [3, 0]) && x.2.1.contains x.2.2 &&
        ownerOf (ruled x.2.2 []) (cmdHandle (cmdOf x.1 [3, 0])) == some 0) && !hostHeld base && base.absent == none &&
      base.colls.isEmpty,
    -- a RUN whose reserve changes: from 16 MiB to none
    (match (ruled .stopped []).holdReserve 0 with
      | some v => v.absent == none && decide ((v.owners.get 0).rsize = 0)
      | none => false),
    !badRecord (cmdOf 1 []) && freeOwner base == some 1 && badRecord ((cmdOf 1 []).set 1 1),
    -- an ALLOT of nothing, and an EVICT and a RESET of an owner without a frozen invocation
    let u := ruled .stopped []
    let x := (u.setCrucible (fun c => { c with drawn := u.crucible.drawn + 2 }))
    cmdArg (cmdOf 3 [3, 0]) 1 == 0 && cmdArg (cmdOf 3 [3, 0]) 3 == 0 && (x.grant 0 [] [] []).absent == none,
    base.cores.isEmpty]).all id = true := by decide +kernel

/-- Owner 0 with a command under way. -/
def pend (code : Nat) (st : DevState) : State :=
  { base with owners := [(0, { owner0 with state := st, pending := some (code, 9) })], wgs := [], warps := [], threads := [], launches := [],
              sets := [] }
def grantAsk : FlowAsk := { handle := 77, peer := 5, tick := 0, key := 8, cert := [1], eph := 2 }
def grant0 : FlowGrant := { handle := 77, peer := 5, tick := 0, cert := [1], point := [] }
/-- The host is lost and the parking buffer holds `n` bytes. -/
def parked (s : State) (n : Nat) : State :=
  { s with crucible := { s.crucible with notify := 8 }
           module := { s.module with hostLost := true, parked := [{ ifc := none, pasid := 0, addr := 0, bytes := List.replicate n (0, 0) }] } }

/-- With a full buffer nothing fits, and with the host at hand everything does. -/
theorem parked_full (s : State) (n k : Nat) (h : 2 ^ 28 < n + k) : parkFits (parked s n) k = false := by
  have hp : parkedBytes (parked s n) = n := by simp [parkedBytes, parked]
  have hh : hostHeld (parked s n) = true := rfl
  simp only [parkFits, hp, hh]
  simp
  omega
theorem base_fits (code : Nat) (st : DevState) (n : Nat) : parkFits (pend code st) n = true := rfl

/-- The host's half of a grant finds the peer's. -/
theorem grants_match : ({ base with flowAsk := [grantAsk] } : State).flowAsk.find? (fun a => grantsMatch base a grant0) = some grantAsk := by
  have h : withinGrant base 0 = true := by decide +kernel
  simp [grantsMatch, grantAsk, grant0, h]

theorem witness_LongCommandsComplete : ([
    [(pend 7 .running), pend 8 .evicted, pend 10 .running, pend 11 .running].all longFits,
    allSaved (pend 7 .running) 0 && ((pend 7 .running).owners.get 0).pending == some (7, 9) && !hostHeld (pend 7 .running),
    !allSaved base 0 && (base.owners.get 0).pending == none,
    let s := pend 9 .running
    allSaved s 0 && !ownerBusy s 0 && !ownerHandles s 0 && s.port.isEmpty && s.hostL2.isEmpty && s.absent == none,
    ((pend 8 .evicted).owners.get 0).state == .evicted, !resetDone base 0,
    [10, 11].all (fun c => let s := (pend c .running).setOwner 0 (fun x => { x with rsize := 0 })
      resetDone s 0 && (s.resetOwner 0).absent == none) && !owner0.ranges.isEmpty,
    (ownerOf base 76).isNone && ownerOf base 77 == some 0,
    -- a command that ends an owner whose workgroups still run
    [10, 11].all (fun c => let s := base.setOwner 0 (fun x => { x with pending := some (c, 9) })
      !resetDone s 0 && ((s.owners.get 0).pending.map (·.1)) == some c),
    let s := { base with flowAsk := [grantAsk] }
    grantAsk.handle == grant0.handle && grantAsk.peer == grant0.peer && grantAsk.cert == grant0.cert && withinGrant s grantAsk.tick &&
      withinGrant s grant0.tick,
    base.flowAsk.isEmpty]).all id = true := by decide +kernel

/-- A host write that waits. -/
def write0 : HostWrite := { ifc := none, pasid := 3, addr := 16, bytes := [(0, 1)] }

theorem witness_HostRegisterWritesAndCommandChecks : ([
    let s := { base with ifcs := [(2, ifc2)] }
    (s.ifcs.get 2).owner.isSome && (s.ifcs.get 2).pasid == 9 && !(base.ifcs.get 2).owner.isSome,
    decide (127 < 128 ∧ 0 < [(0 : Byte)].length ∧ 248 + 8 ≤ 256) && !base.crucible.busy && (leBytes 8 5).length == 8,
    (commandEvent ((SMap.get base.crucible.cmdrec 0 :: List.replicate 255 0))).isNone && (commandEvent (cmdOf 6 [])).isSome,
    !hostHeld base && hostHeld { base with module := { base.module with parked := [write0] } } &&
      hostHeld { base with module := { base.module with hostLost := true } },
    (commandEvent (cmdOf 4 [])).isSome && !readsHost base (cmdOf 4 []) 4 && readsHost base (cmdOf 2 []) 2,
    decide (cmdF ((cmdOf 4 []).set 1 1) 31 8 ≠ 0) && !badRecord (cmdOf 4 []),
    (ownerOf { base with owners := [] } (cmdHandle (cmdOf 4 []))).isNone && ownerOf base (cmdHandle (cmdOf 4 [])) == some 0,
    -- an owner whose policy has no host key: no signature holds
    hostKeyHash (base.owners.get 0).policy (cmdHki (cmdOf 4 [])) == 0]).all id = true := by decide +kernel

theorem witness_ManagementRequests : ([
    (ownerOf base 76).isNone && ownerOf base 77 == some 0, decide (7 < 8 ∧ (800 : Nat) ∈ [100, 200, 400, 800]),
    decide ((3 : Nat) < 4 ∧ MgmtPath.sideband ≠ .host) && !base.hears (.network 5) && !base.hears (.network 0) &&
      { base with crucible := { base.crucible with mgmtKeys := [0, 5, 0, 0] } }.hears (.network 5), !planOk [], decide (¬ (1199 : Nat) ≥ 1200),
    !pointValid base.module.plan 0, base.hears .sideband && base.hears .host && (base.sensors .host).isNone]).all id = true := by decide +kernel

/-- A plan of two points (R415), which are valid where their memory clock is one that the device takes. -/
def planTwo : List Byte := leBytes 8 1 ++ leBytes 8 (2000 * 2 ^ 48 + 1600 * 2 ^ 16) ++ leBytes 8 (1500 * 2 ^ 48 + 1600 * 2 ^ 16)
def clocked : State := { base with module := { base.module with plan := planTwo } }
theorem planTwo_valid (h : Config.memoryClockOk 0 = true) : pointValid planTwo 1 = true := by
  have hm : pointMemory planTwo 1 = 0 := by decide +kernel
  have hr : (pointWord planTwo 1 != 0 && decide (1200 ≤ pointCore planTwo 1) && decide (pointCore planTwo 1 ≤ 2500) &&
    decide (1600 ≤ pointFabric planTwo 1) && decide (pointFabric planTwo 1 ≤ 2000) &&
    (usedPoints planTwo).all (fun i => pointFabric planTwo i == pointFabric planTwo 1) && clearOfBands planTwo 1) = true := by
    decide +kernel
  simp only [Bool.and_eq_true] at hr
  simp only [pointValid, hm, h, hr, Bool.and_self]
theorem lower_point (h : Config.memoryClockOk 0 = true) : lowerPoints clocked 0 ≠ [] := by
  have hc : decide (pointCore planTwo 1 < pointCore planTwo 0) = true := by decide +kernel
  have hm : 1 ∈ (List.range 8).filter (fun j => pointValid planTwo j && decide (pointCore planTwo j < pointCore planTwo 0)) := by
    simp only [List.mem_filter, planTwo_valid h, hc]
    decide
  intro he
  have : 1 ∈ lowerPoints clocked 0 := List.mem_mergeSort.2 hm
  simp [he] at this

/-- A launch of owner 0 runs, and nothing else. -/
def powered : State :=
  { base with wgs := [], warps := [], threads := [], sets := [], launches := [(6, { launch6 .running 0 doneAt with ifc := none })] }

theorem witness_PowerTemperatureAndReset : ([
    decide (base.module.powerLimit ≤ base.module.powerLimit) && (List.range 8).all (fun j => !pointValid base.module.plan j),
    -- an input at both ends of its range and beyond it
    [(40000, true), (60000, true), (39999, false), (60001, false)].all (fun (x : Nat × Bool) =>
      decide (40000 ≤ x.1 ∧ x.1 ≤ 60000) == x.2) && !base.module.hot && !base.module.freezePin &&
      decide (40000 ≤ base.module.inputMv ∧ base.module.inputMv ≤ 60000),
    let s := { base with module := { base.module with hot := true } }
    s.module.hot && !s.module.freezePin && [84, 84, 84, 84].length == 4 && [84, 84, 84, 84].all (fun x => decide (x < 85)),
    decide (lifecycleCode .manufacturing < lifecycleCode .decommissioned) && decide (lifecycleCode .production ≤ lifecycleCode .production),
    ({ base.crucible with lifecycle := .debugUnlocked } : Crucible).lifecycle == .debugUnlocked &&
      base.crucible.lifecycle != .manufacturing && base.crucible.lifecycle != .debugUnlocked,
    (base.setDie 0 (fun y => { y with celsius := 110 })).absent == none, SMap.wf base.cores,
    -- a launch whose record and counter can be written
    let x := powered.launches.get 6
    let s := powered.setDie 0 (fun y => { y with celsius := 110 })
    let u := s.endLaunch 6 statusReset 0 none
    x.state != .none && x.ifc == none && !x.noRecord && x.recorded.isNone && x.done % 64 == 0 && decide (x.done < 2 ^ 56) && !x.ending &&
      s.launches.length == 1 && s.xfer.isEmpty && s.cores.isEmpty && s.colls.isEmpty && s.wgs.isEmpty && s.warps.isEmpty &&
      s.pending.isEmpty && s.port.isEmpty && s.hostL2.isEmpty && s.resetLaunches.absent == none &&
      okEng (luPlaces u 6 x.done 80) (fun s2 ps => s2.port.isEmpty && s2.hostL2.isEmpty && s2.absent == none && match ps with
        | [(.dev p, 0, 64), (.dev q, 64, 16)] => (homeOf p).isSome && (homeOf (p + 63)).isSome && (homeOf q).isSome &&
          (homeOf (q + 15)).isSome && decide (p + 64 ≤ q)
        | _ => false)]).all id = true := by decide +kernel

/-- A translation request of the thread of warp 0. -/
def ask0 (prg : Option Nat) : AtsReq :=
  { ifc := 2, pasid := 9, page := 48, read := false, write := true, granules := [(0, 3)], waiters := [.thread 0 1], prg := prg, denied := false }
def asking (prg : Option Nat) : State :=
  { (base.setThread 0 0 (fun t => { t with wait := .translation 1 [(3, 0x30008)] })) with ats := [ask0 prg] }
def prg0 (orphan : Bool) : PrgIndex := { open_ := true, orphan := orphan, ifc := 2, pasid := 9, page := 48 }
def hostRun : State :=
  xferRun { copyOp with pages := [(9, 15)] }

theorem get_of_mem (x : PrgIndex) (l : List Nat) (i : Nat) (h : i ∈ l) : SMap.get (l.map (fun j => (j, x))) i = x := by
  induction l with
  | nil => simp at h
  | cons j r ih =>
    simp only [List.map_cons, SMap.get]
    split
    · rfl
    · rename_i n
      exact ih (List.mem_of_ne_of_mem (fun e => n e.symm) h)

/-- With every page-request group index of a list open. -/
def openAll (l : List Nat) : State := { asking none with prgs := l.map (fun i => (i, prg0 false)) }

/-- With all 512 indices open none is free. -/
theorem no_free_prg : ∃ l, freePrg (openAll l) = none := by
  refine ⟨List.range 512, List.find?_eq_none.mpr (fun i hi => ?_)⟩
  generalize List.range 512 = l at hi
  have h : (openAll l).prgs.get i = prg0 false := get_of_mem _ _ _ hi
  rw [h]
  decide

theorem witness_HostLossAndTranslation : ([
    let s := { base with module := { base.module with hostLost := true, parked := [write0] } }
    s.module.hostLost && s.module.parked.all (fun p => p.ifc.isNone) && !base.module.hostLost && base.cores.isEmpty && base.colls.isEmpty && base.crucible.notify == 0,
    let s := asking none
    s.liveLanes 0 == [0] && (s.thread 0 0).wait == .translation 1 [(3, 0x30008)] && s.module.parked.isEmpty && s.wgs.all (fun g => g.2.savedX.isEmpty) &&
      s.ats == [ask0 none] && (freePrg s).isSome && !s.crucible.prgEnded && decide (openPages s < s.module.prgAlloc),
    decide (({ asking none with module := { base.module with prgAlloc := 0 } } : State).module.prgAlloc ≤ openPages base),
    [511, 0].all (fun i => let s := { asking (some i) with prgs := [(i, prg0 false)] }
      (s.prgs.get i).open_ && (s.prgs.get i).pasid == 9 && !(s.prgs.get i).orphan && !(s.prgs.get 5).open_),
    let s := { base with prgs := [(4, prg0 true)] }
    (s.prgs.get 4).open_ && (s.prgs.get 4).orphan && s.ats.isEmpty,
    let s := hostRun
    s.port.isEmpty && s.absent == none && s.pending.isEmpty && s.credits.isEmpty && (running s 0 0).isSome && ((running s 0 0).map (·.pages)) == some [(9, 15)] &&
      decide (0 ≤ 15 ∧ 15 < 0 + 16)]).all id = true := by decide +kernel

/-- A session of owner 0, and the warp of its thread stopped. -/
def session0 : Session := { (default : Session) with live := true, scope := 1 }
def debugged (x : Session) : State := { (base.setWarp 0 (fun w => { w with stopped := true })) with sessions := [(0, x)] }
/-- A ring of 64 bytes in the first page, and the page itself at the die. -/
def traced (pos : Nat) : State :=
  { base with sessions := [(0, { session0 with ring := some (0x7F00, 64, pos) })], tlb := base.tlb.set (tlbNormal 0) [placePage] }
def planIs (s : State) (alone : Bool) (p : StepPlan → Bool) : Bool := p (stepPlan s 0 0 alone)
def tracedLane (s : State) (p : Ready → Bool) : Bool :=
  match readyThreads s 0 (fun _ => true) with
  | r :: _ => p r
  | [] => false

/-- How the debugger's access at address 8 is translated (R407). -/
def debugAsks (s : State) (a : Acc) : Xlate × State :=
  let s1 := (s.dropReqs (· == .debug 0)).setSession 0 (fun z => { z with access := none })
  xlate s1 (dieReq s1 (debugDie s1 0) 0 0 5 (.debug 0) a) 8

theorem witness_DebugTracesTrialsAndDumps : ([
    (ownerOf base 76).isNone && ownerOf base 77 == some 0 && !(base.sessions.get 0).asked && (base.sessions.get 0).dump.isEmpty,
    -- a session is open; a step of a thread that waits, one that is blocked, and one that goes
    [false, true].all (fun h => let s := debugged { session0 with hold := h }
      (s.sessions.get 0).live && (s.warp 0).live && (s.thread 0 0).live && (s.sessions.get 0).hold == h && (s.warp 0).stopped && (s.wg 0).phase == .resident),
    ({ debugged { session0 with hold := true } with wgs := [(1, { wg1 with phase := .stopping })] }.wg 0).phase != .resident && !isSup 0,
    -- the thread stands at a breakpoint, and then at none
    atBreakpoint (debugged { session0 with bps := [((base.thread 0 0).pc.toNat, 1, 0)] }) 0 1 && !atBreakpoint (debugged session0) 0 1,
    (((debugged session0).setThread 0 0 (fun t => { t with wait := .monitor })).thread 0 0).wait != .ready,
    let s := debugged { session0 with hold := true }
    planIs s true (fun p => match p with
      | .parts fs => fs.length == 1
      | .blocked => false) && planIs s false (fun p => match p with
      | .parts fs => fs.length == 1
      | .blocked => false),
    let s := { (debugged session0).setThread 0 1 (fun t => { t with live := true, wait := .monitor }) with
      mem := SMap.setRange (α := BitVec 8) base.mem 0 (encode (.elect { f0 with d := 1 })) }
    planIs s true (fun p => match p with
      | .parts _ => false
      | .blocked => true),
    -- the debugger reaches the page through the die's array, and waits where no array has it
    [Acc.read, .write].all (fun a => (match debugAsks (traced 0) a with
      | (.ok (.dev p), u) => p == 8 && u.locks.isEmpty && u.absent == none
      | _ => false) && (match debugAsks { traced 0 with tlb := base.tlb } a with
      | (.wait, u) => u.absent == none && u.locks.isEmpty
      | _ => false)) && ((traced 0).sessions.get 0).live && (homeOf 8).isSome,
    (readyThreads { base with warps := [] } 0 (fun _ => true)).isEmpty,
    [32, 33, 0].all (fun p => tracedLane (traced p) (fun r => r.warp == 0 && decide (64 < p + 32) == (p == 33))),
    ((traced 32).quietWrite 0 0 (0x7F00 + 32) (leBytes 32 1)).isSome &&
      ({ traced 32 with tlb := [] }.quietWrite 0 0 (0x7F00 + 32) (leBytes 32 1)).isNone,
    let s := { base with dies := [(0, { (default : Die) with trial := { (default : CausalTrial) with live := true } })] }
    (s.dies.get 0).trial.live && !(base.dies.get 1).trial.live,
    let s := debugged { session0 with asked := true }
    (s.sessions.get 0).asked && dumpSaved s 0 && !dumpSaved { s with wgs := [(1, { wg1 with dumpHeld := true })] } 0,
    ({ session0 with dump := [0, 65536] } : Session).dump == [0, 65536],
    ({ session0 with dumped := [(0, [1])] } : Session).out.isEmpty]).all id = true := by decide +kernel

theorem witness_UnitEventsHaveTheirEffect : ([
    [WorkUnit.divider, .special, .conversion, .tfill, .lnch, .tinv].all (fun u => let p := unitWork u (.writeRegs [(0, 4, 5)]) none
      found p && p.lanes == [0] && !p.outer),
    let s := { withPending (unitWork .tinv (.writeRegs [(0, 4, 5)]) (some scopePkg)) with tinvs := [inv7] }
    s.tinvs == [inv7] && inv7.pid == some 40 && !invWaits s inv7,
    let x : LaneWork := { lane := 0, va := 8, loc := .dev 8, data := 0, data2 := 0 }
    let p := unitWork .memory (.load .global .b64 4 [x]) none
    found p && (withPending p).port.isEmpty && (awayPending (withPending p) 40).isNone && (withPending p).absent == none &&
      (List.range 8).all (fun k => (homeOf (8 + k)).isSome),
    quadOf 0 == 0 && mayIssue base 0 && (base.warp 0).live && (base.thread 0 0).live && (base.thread 0 0).wait == .ready && !isSup 0
    ]).all id = true := by decide +kernel

theorem witness_SupervisorHartAndSchedulerEventsHaveTheirEffect : ([
    let s := { base with walks := [walkAt] }
    (s.cores.get 0).inv.isNone && s.absent == none && walkItems s 0 == [walkAt] && (walkPc s 0).isSome,
    let f := { fault0 with dispatched := none, seen := false }
    let s := queued.writeDev (2 ^ 29 + 8 * 14) (leBytes 8 1)
    autodisp s 0 && s.absent == none && s.held.isEmpty && dirWord s 0 16 == dirWord s 0 15 && unseen s 0 == some (faultKey 0 3, f) &&
      f.kind == 1 && faultState s 0 3 == 0,
    entryAt queued 0 3 == some (faultKey 0 3, { fault0 with dispatched := none, seen := false }) && !fault0.taken &&
      (ownerCores (queued.owners.get 0)).contains 0 && (faultPc queued 0).isSome,
    let f := { fault0 with waiters := [] }
    let s := { base with faults := [(faultKey 0 3, f)] }
    named s f && f.kind == 1 && bitsOf (3 + 4 * 2 ^ 32) 31 0 == 3 && bitsOf (3 + 4 * 2 ^ 32) 34 32 == 4 &&
      (s.resWrite 0 (faultEntryVa s 0 3 + 32) [4]).absent == none,
    (owner0.hart.get 0x38).toNat == 0 && decide ((3 : Nat) < 4),
    (base.wgs.get 1).phase == .resident && !(base.launches.get 5).ending && setStands base 1 && together base 1 == [1] &&
      (doomedWarp base wg1).isNone && (match stopFrame base 1 with
        | some f => (base.stopWg 1 f).absent == none
        | none => false),
    (saverOf leaving 1).isNone && savable leaving 1 && (leaving.wgs.get 1).frame == some (0, 0) && (match frameOf leaving (leaving.wgs.get 1) with
      | some (at_, slot) => slot == 0 && (layoutFor leaving (leaving.wgs.get 1) 0 at_ slot).isSome
      | none => false) && (leaving.crucibleSave 1).absent == none,
    readyToRestore away 1 && ownerRuns away 0 && !(away.launches.get 5).ending && (earlierLaunches away 5).isEmpty &&
      (away.wgs.get 1).sets.isEmpty && (away.wgs.get 1).savedX.isEmpty && (restoreOn away 1 0).isSome,
    nextTurn shared 0 == some 1,
    ownerRuns crowded 0 && allWaiting crowded 0 0 && firstWanting crowded 0 == some 6 && (placeLaunch crowded 6).isNone &&
      toDisplace crowded 6 1 [1] [] == some ([1], 0) && (residentsOnDie crowded 0 0).map (·.1) == [1] && (crowded.displaceAll (6, 0) [1]).1
    ]).all id = true := by decide +kernel

end Sys2Proof.Tests
end

section
/-! PROOF. Sub-elements of sources and results: a packed result read back element by element, the sources as functions of
the position, and the bits of the integer codes of R84 and R118. -/

namespace Sys2Proof.Machine

/-! ### Lists as functions of the position -/

/-- A list of `n` numbers is its positions read one by one. -/
theorem eq_map_getD_of_length {xs : List Nat} {n : Nat} (h : xs.length = n) :
    xs = (List.range n).map (fun k => xs.getD k 0) := by
  refine List.ext_getElem (by simp [h]) (fun k hk _ => ?_)
  simp [hk]

theorem srcElems_eq_map (s : State) (f : F64) (lane w n : Nat) (i64 : Bool) (code : Nat) :
    srcElems s f lane w n i64 code = (List.range n).map (srcAt s f lane w n i64 code) :=
  eq_map_getD_of_length (length_srcElems ..)

theorem second_eq_map (s : State) (f : F64) (lane w n : Nat) (i64 : Bool) :
    second s f lane w n i64 = (List.range n).map (secondAt s f lane w n i64) :=
  eq_map_getD_of_length (length_second ..)

theorem third_eq_map (s : State) (f : F64) (lane w n : Nat) (i64 : Bool) :
    third s f lane w n i64 = (List.range n).map (thirdAt s f lane w n i64) :=
  eq_map_getD_of_length (length_third ..)

/-! ### Sub-elements fit their width -/

theorem getD_lt_of_forall_lt {xs : List Nat} {b : Nat} (hb : 0 < b) (h : ∀ x ∈ xs, x < b) (k : Nat) : xs.getD k 0 < b := by
  by_cases hk : k < xs.length
  · rw [List.getD_eq_getElem _ _ hk]; exact h _ (List.getElem_mem hk)
  · rw [List.getD_eq_default _ _ (by omega)]; exact hb

theorem lt_of_mem_srcElems {s : State} {f : F64} {lane w n : Nat} {i64 : Bool} {code x : Nat}
    (hx : x ∈ srcElems s f lane w n i64 code) : x < 2 ^ w := by
  simp only [srcElems, elems, elem, List.mem_map] at hx
  obtain ⟨k, -, rfl⟩ := hx
  split <;> exact Nat.mod_lt _ (Nat.two_pow_pos w)

theorem srcAt_lt (s : State) (f : F64) (lane w n : Nat) (i64 : Bool) (code k : Nat) :
    srcAt s f lane w n i64 code k < 2 ^ w :=
  getD_lt_of_forall_lt (Nat.two_pow_pos w) (fun _ hx => lt_of_mem_srcElems hx) k

/-! ### Packed results -/

/-- Results packed side by side read back position by position, with the flags of all. -/
theorem floatElems_packRes {w n : Nat} (r : Nat → Nat × BitVec 9) (hw : w * n ≤ 64) :
    FloatElems w n r (packRes w ((List.range n).map r)).1 (packRes w ((List.range n).map r)).2 := by
  simp only [packRes, List.map_map]
  refine ⟨fun k hk => ?_, ?_, ?_⟩
  · rw [elem_packElems _ _ _ (by simpa using hk) (by simpa using hw)]
    simp [hk]
  · simpa using packElems_lt w (List.map ((·.1) ∘ r) (List.range n)) (by simpa using hw)
  · simp [unionFlags, List.foldl_map]

/-- Values packed side by side read back position by position. -/
theorem elem_packElems_map {w n k : Nat} (v : Nat → Nat) (hw : w * n ≤ 64) (hk : k < n) :
    elem w (packElems w ((List.range n).map v)) k = v k % 2 ^ w := by
  rw [elem_packElems _ _ _ (by simpa using hk) (by simpa using hw)]
  simp [hk]

@[simp] theorem unionFlags_zero (ls : List Nat) : unionFlags ls (fun _ => 0#9) = 0#9 := by
  simp [unionFlags]

/-- The union of one flag over the places that raise it. -/
theorem unionFlags_ite (ls : List Nat) (p : Nat → Bool) (fl : BitVec 9) :
    unionFlags ls (fun l => if p l then fl else 0) = if ls.any p then fl else 0 := by
  suffices H : ∀ acc : BitVec 9, ls.foldl (fun a l => a ||| if p l then fl else 0) acc = acc ||| if ls.any p then fl else 0 by
    simpa [unionFlags] using H 0
  induction ls with
  | nil => simp
  | cons l r ih =>
    intro acc
    rw [List.foldl_cons, ih, List.any_cons]
    cases p l <;> cases r.any p <;> simp [BitVec.or_assoc]

/-! ### Integer codes (R84, R118) -/

theorem wrapInt_lt (w : Nat) (x : Int) : wrapInt w x < 2 ^ w := by
  have h1 : (0 : Int) < (2 ^ w : Nat) := by exact_mod_cast Nat.two_pow_pos w
  have h2 := Int.emod_lt_of_pos x h1
  have h3 := Int.emod_nonneg x h1.ne'
  unfold wrapInt
  omega

@[simp] theorem wrapInt_mod (w : Nat) (x : Int) : wrapInt w x % 2 ^ w = wrapInt w x := Nat.mod_eq_of_lt (wrapInt_lt w x)

theorem wrapInt_eq_toNat_ofInt (w : Nat) (x : Int) : wrapInt w x = (BitVec.ofInt w x).toNat := (BitVec.toNat_ofInt x).symm

theorem bitOf_eq_testBit (x i : Nat) : bitOf x i = x.testBit i := by
  simp [bitOf, Nat.testBit_eq_decide_div_mod_eq, Bool.beq_eq_decide_eq]

/-- The signed reading of a code is that of the bit vector (R118). -/
theorem sextInt_eq_toInt {w : Nat} (hw : 0 < w) (x : Nat) : sextInt w x = (BitVec.ofNat w x).toInt := by
  have hb : bitOf x (w - 1) = (BitVec.ofNat w x).msb := by
    rw [bitOf_eq_testBit, BitVec.msb_eq_getLsbD_last, BitVec.getLsbD_ofNat]
    simp [hw]
  rw [BitVec.toInt_eq_msb_cond, sextInt, hb, BitVec.toNat_ofNat]
  push_cast
  rfl

end Sys2Proof.Machine
end

section
/-! PROOF. Integer arithmetic (R112–R119): each instruction packs one narrowed result per position. -/

namespace Sys2Proof.Machine

theorem IntTy.width_mul_count (t : IntTy) : IntTy.width t * (64 / IntTy.width t) ≤ 64 := Nat.mul_div_le 64 _

/-! ### Narrowing (R97) -/

/-- A clamp into a range, with whether it has changed the value. -/
theorem clamp_eq_max_min {lo hi : Int} (h : lo ≤ hi) (x : Int) :
    (if x < lo then (lo, true) else if hi < x then (hi, true) else (x, false)) =
      (max lo (min hi x), max lo (min hi x) != x) := by
  rcases lt_or_ge x lo with hlo | hlo
  · simp [hlo, show max lo (min hi x) = lo by omega, hlo.ne']
  · rcases lt_or_ge hi x with hhi | hhi
    · simp [hlo.not_gt, hhi, show max lo (min hi x) = hi by omega, hhi.ne]
    · simp [hlo.not_gt, hhi.not_gt, show max lo (min hi x) = x by omega]

theorem satInt_eq (signed : Bool) (w : Nat) (x : Int) :
    satInt signed w x = (clampInt signed w x, clampInt signed w x != x) := by
  have h1 : 0 < 2 ^ (w - 1) := Nat.two_pow_pos _
  have h2 : 0 < 2 ^ w := Nat.two_pow_pos _
  cases signed
  · exact clamp_eq_max_min (by omega) x
  · exact clamp_eq_max_min (by omega) x

/-- Wrapped results, packed. -/
theorem wrappedElems_of_floatElems {w : Nat} {x : Nat → Int} {y : Word} {fl : BitVec 9}
    (h : FloatElems w (64 / w) (fun k => (wrapInt w (x k), 0)) y fl) : WrappedElems w x y fl := by
  obtain ⟨hy, -, hfl⟩ := h
  exact ⟨fun k hk => by simpa using hy k hk, by simpa using hfl⟩

/-- Narrowed results, packed (R97, R118). -/
theorem narrowedElems_of_floatElems {t : IntTy} {f : F64} {x : Nat → Int} {y : Word} {fl : BitVec 9}
    (h : FloatElems (IntTy.width t) (64 / IntTy.width t) (fun k => narrowInt f (IntTy.signed t) (IntTy.width t) (x k)) y fl) :
    NarrowedElems t f x y fl := by
  unfold NarrowedElems
  by_cases hm : f.md.getLsbD 1
  · simp only [narrowInt, hm, if_true, satInt_eq] at h
    obtain ⟨hy, -, hfl⟩ := h
    rw [if_pos hm]
    exact ⟨fun k hk => by simpa using hy k hk, by rw [hfl, unionFlags_ite]⟩
  · simp only [narrowInt, hm] at h
    rw [if_neg hm]
    exact wrappedElems_of_floatElems h

/-! ### The shapes of integer instructions -/

theorem intBinary_eq (t : IntTy) (f : F64) (op : Int → Int → Nat × BitVec 9) (s : State) (l : Nat) :
    intBinary t f op s l = packRes (IntTy.width t) ((List.range (64 / IntTy.width t)).map
      (fun k => op (intA t f s l k) (intSecond t f s l k))) := by
  simp only [intBinary, intA, intSecond, packRes, srcElems_eq_map, second_eq_map, List.map_map, List.zip_map', Function.comp_def]

theorem intTernary_eq (t : IntTy) (f : F64) (s : State) (l : Nat) :
    intTernary t f s l = packRes (IntTy.width t) ((List.range (64 / IntTy.width t)).map
      (fun k => narrowInt f (IntTy.signed t) (IntTy.width t) (intA t f s l k * intB t f s l k + intThird t f s l k))) := by
  simp only [intTernary, intA, intB, intThird, packRes, srcElems_eq_map, third_eq_map, List.map_map, List.zip_map',
    Function.comp_def]

theorem intUnary_eq (t : IntTy) (f : F64) (op : Int → Int) (s : State) (l : Nat) :
    intUnary t f op s l = packRes (IntTy.width t) ((List.range (64 / IntTy.width t)).map
      (fun k => narrowInt f (IntTy.signed t) (IntTy.width t) (op (intA t f s l k)))) := by
  simp only [intUnary, intA, packRes, srcElems_eq_map, List.map_map, Function.comp_def]

section
variable {i : Instr} {t : IntTy} {f : F64} {s : State}

/-- A binary integer instruction computes its operation at each position. -/
theorem computesD_intBinary {P : Nat → Word → BitVec 9 → Prop} (op : Int → Int → Nat × BitVec 9)
    (hx : exec i s = .next (issueAlu i f (intBinary t f op) s))
    (hP : ∀ l y fl, FloatElems (IntTy.width t) (64 / IntTy.width t) (fun k => op (intA t f s l k) (intSecond t f s l k)) y fl →
      P l y fl) : ComputesD i f s P :=
  computesD_of_issueAlu _ hx (fun l => hP l _ _ (by
    rw [intBinary_eq]; exact floatElems_packRes _ (IntTy.width_mul_count t)))

/-- A unary integer instruction computes its operation at each position, narrowed. -/
theorem computesD_intUnary {x : Nat → Nat → Int} (op : Int → Int) (hx : exec i s = .next (issueAlu i f (intUnary t f op) s))
    (hop : ∀ l k, op (intA t f s l k) = x l k) : ComputesD i f s (fun l => NarrowedElems t f (x l)) :=
  computesD_of_issueAlu _ hx (fun l => by
    refine narrowedElems_of_floatElems ?_
    simp only [intUnary_eq, hop]
    exact floatElems_packRes _ (IntTy.width_mul_count t))

/-- A multiply-add computes its exact result at each position, narrowed once. -/
theorem computesD_intTernary (hx : exec i s = .next (issueAlu i f (intTernary t f) s)) :
    ComputesD i f s (fun l => NarrowedElems t f (fun k => intA t f s l k * intB t f s l k + intThird t f s l k)) :=
  computesD_of_issueAlu _ hx (fun l => by
    rw [intTernary_eq]
    exact narrowedElems_of_floatElems (floatElems_packRes _ (IntTy.width_mul_count t)))

end

/-- One product at each position: its high half with `.hi`, else narrowed (R118). -/
theorem elems_mulElem {t : IntTy} {f : F64} {a b : Nat → Int} {y : Word} {fl : BitVec 9}
    (h : FloatElems (IntTy.width t) (64 / IntTy.width t)
      (fun k => mulElem f (IntTy.signed t) (IntTy.width t) (a k) (b k)) y fl) :
    (if f.md.getLsbD 2 then WrappedElems (IntTy.width t) (fun k => (a k * b k) / (2 ^ IntTy.width t : Nat))
      else NarrowedElems t f (fun k => a k * b k)) y fl := by
  by_cases hm : f.md.getLsbD 2
  · simp only [mulElem, hm, if_true] at h ⊢
    exact wrappedElems_of_floatElems h
  · simp only [mulElem, hm] at h ⊢
    exact narrowedElems_of_floatElems h

/-- Settles O10: every form packs one narrowed or wrapped result per position, and `issueAlu` gives the frame. -/
theorem integerArithmetic : Obligations.IntegerArithmetic := by
  intro t g f s
  refine ⟨?add, ?sub, ?mul, ?mad, ?min, ?max, ?abs, ?neg⟩
  case add => exact computesD_intBinary _ rfl (fun _ _ _ => narrowedElems_of_floatElems)
  case sub => exact computesD_intBinary _ rfl (fun _ _ _ => narrowedElems_of_floatElems)
  case mul => exact computesD_intBinary _ rfl (fun _ _ _ => elems_mulElem)
  case mad => exact computesD_intTernary rfl
  case min => exact computesD_intBinary _ rfl (fun _ _ _ => wrappedElems_of_floatElems)
  case max => exact computesD_intBinary _ rfl (fun _ _ _ => wrappedElems_of_floatElems)
  case abs => exact computesD_intUnary _ rfl (fun _ _ => by omega)
  case neg => exact computesD_intUnary _ rfl (fun _ _ => rfl)

end Sys2Proof.Machine
end

section
/-! PROOF. Logic and bit counting (R120, R121): the 64-bit operations read bit by bit. -/

namespace Sys2Proof.Machine

/-! ### The shapes of 64-bit instructions -/

/-- A unary 64-bit instruction computes its operation of A and raises nothing. -/
theorem computesD_un64 {i : Instr} {f : F64} {s : State} {Q : Nat → Word → Prop} (op : Nat → Nat)
    (hx : exec i s = .next (issueAlu i f (un64 f op) s))
    (hQ : ∀ l, Q l (BitVec.ofNat 64 (op (opnd s s.cur.warp l f.lit f.a.toNat).toNat))) :
    ComputesD i f s (fun l y fl => fl = 0 ∧ Q l y) :=
  computesD_of_issueAlu _ hx (fun l => ⟨rfl, hQ l⟩)

theorem ofNat_src64 (s : State) (f : F64) (l code : Nat) :
    BitVec.ofNat 64 (src64 s f l code) = opnd s s.cur.warp l f.lit code := BitVec.ofNat_toNat ..

/-- The second source of a 64-bit form as a word: B, or the immediate zero-extended (R113). -/
theorem ofNat_second64 (s : State) (f : F64) (l : Nat) : BitVec.ofNat 64 (second64 s f l) =
    if f.md.getLsbD 0 then f.c.zeroExtend 64 else opnd s s.cur.warp l f.lit f.b.toNat := by
  unfold second64
  split <;> exact BitVec.ofNat_toNat ..

/-- A binary 64-bit instruction computes its operation of A and the second source and raises nothing. -/
theorem computesD_bin64 {i : Instr} {f : F64} {s : State} {Q : Nat → Word → Prop} (op : Word → Word → Word)
    (hx : exec i s = .next (issueAlu i f (bin64 f op) s))
    (hQ : ∀ l, Q l (op (opnd s s.cur.warp l f.lit f.a.toNat)
      (if f.md.getLsbD 0 then f.c.zeroExtend 64 else opnd s s.cur.warp l f.lit f.b.toNat))) :
    ComputesD i f s (fun l y fl => fl = 0 ∧ Q l y) := by
  refine computesD_of_issueAlu _ hx (fun l => ⟨rfl, ?_⟩)
  simpa only [bin64, ofNat_src64, ofNat_second64] using hQ l

/-! ### Complement, counting and reversal of bits -/

theorem ofNat_complement (x : Word) : BitVec.ofNat 64 (2 ^ 64 - 1 - x.toNat) = ~~~x := by
  refine BitVec.eq_of_toNat_eq ?_
  rw [BitVec.toNat_not, BitVec.toNat_ofNat]
  omega

theorem popCount_eq_length_filter (n x : Nat) : popCount n x = ((List.range n).filter (fun i => x.testBit i)).length := by
  induction n generalizing x with
  | zero => rfl
  | succ n ih =>
    have hlow : x % 2 = if x.testBit 0 then 1 else 0 := by
      rcases Nat.mod_two_eq_zero_or_one x with h | h <;> simp [Nat.testBit_zero, h]
    have hrest : popCount n (x / 2) = ((List.range n).filter ((fun i => x.testBit i) ∘ Nat.succ)).length := by
      rw [ih]
      simp only [Nat.testBit_div_two, Function.comp_def, Nat.succ_eq_add_one]
    rw [popCount, hlow, hrest, List.range_succ_eq_map, List.filter_cons, List.filter_map]
    split <;> simp [Nat.add_comm]

theorem popCount_le (n x : Nat) : popCount n x ≤ n := by
  rw [popCount_eq_length_filter]
  simpa using List.length_filter_le (fun i => x.testBit i) (List.range n)

theorem bitLen_le (n x : Nat) : bitLen n x ≤ n := by
  unfold bitLen
  split <;> omega

/-- No bit at or above the bit length is set. -/
theorem testBit_of_bitLen_le {n x i : Nat} (hx : x < 2 ^ n) (hi : bitLen n x ≤ i) : x.testBit i = false := by
  by_cases h0 : x = 0
  · simp [h0]
  · have hlog : x.log2 < n := (Nat.log2_lt h0).2 hx
    refine Nat.testBit_lt_two_pow (Nat.lt_of_lt_of_le Nat.lt_log2_self (Nat.pow_le_pow_right (by decide) ?_))
    simp only [bitLen, if_neg h0] at hi
    omega

/-- The bit below the bit length is set. -/
theorem testBit_bitLen_pred {n x : Nat} (hx : x < 2 ^ n) (hpos : 0 < bitLen n x) : x.testBit (bitLen n x - 1) = true := by
  by_cases h0 : x = 0
  · simp [bitLen, h0] at hpos
  · have hlog : x.log2 < n := (Nat.log2_lt h0).2 hx
    have he : bitLen n x - 1 = x.log2 := by simp only [bitLen, if_neg h0]; omega
    rw [he]
    exact Nat.testBit_log2 h0

theorem bitRev_lt (n x : Nat) : bitRev n x < 2 ^ n := by
  induction n generalizing x with
  | zero => simp [bitRev]
  | succ n ih =>
    have h := ih (x / 2)
    rw [bitRev, Nat.pow_succ]
    rcases Nat.mod_two_eq_zero_or_one x with hx | hx <;> rw [hx] <;> omega

theorem testBit_bitRev {n i : Nat} (hi : i < n) (x : Nat) : (bitRev n x).testBit i = x.testBit (n - 1 - i) := by
  induction n generalizing x i with
  | zero => omega
  | succ n ih =>
    rw [bitRev, Nat.mul_comm, Nat.testBit_two_pow_mul_add _ (bitRev_lt n _)]
    split
    · rename_i hlt
      rw [ih hlt, Nat.testBit_div_two]
      congr 1
      omega
    · have he : i = n := by omega
      rcases Nat.mod_two_eq_zero_or_one x with h | h <;> simp [he, Nat.testBit_zero, h]

/-! ### The same of words -/

theorem toNat_ofNat_popCount (x : Word) :
    (BitVec.ofNat 64 (popCount 64 x.toNat)).toNat = ((List.range 64).filter (fun i => x.getLsbD i)).length := by
  have hle := popCount_le 64 x.toNat
  rw [BitVec.toNat_ofNat, Nat.mod_eq_of_lt (by omega), popCount_eq_length_filter]
  rfl

theorem toNat_ofNat_sub_bitLen (x : Word) : (BitVec.ofNat 64 (64 - bitLen 64 x.toNat)).toNat = 64 - bitLen 64 x.toNat := by
  rw [BitVec.toNat_ofNat, Nat.mod_eq_of_lt (by omega)]

/-- Bits at and above the bit length are clear, and the bit below it is set. -/
theorem leadingZeros_spec (x : Word) : (∀ i, i < 64 → 64 - (64 - bitLen 64 x.toNat) ≤ i → x.getLsbD i = false) ∧
    (64 - bitLen 64 x.toNat < 64 → x.getLsbD (63 - (64 - bitLen 64 x.toNat)) = true) := by
  have hle := bitLen_le 64 x.toNat
  refine ⟨fun i _ hi => testBit_of_bitLen_le x.isLt (by omega), fun hpos => ?_⟩
  rw [show 63 - (64 - bitLen 64 x.toNat) = bitLen 64 x.toNat - 1 by omega]
  exact testBit_bitLen_pred x.isLt (by omega)

theorem getLsbD_ofNat_bitRev (x : Word) {i : Nat} (hi : i < 64) :
    (BitVec.ofNat 64 (bitRev 64 x.toNat)).getLsbD i = x.getLsbD (63 - i) := by
  rw [BitVec.getLsbD_ofNat, testBit_bitRev hi, BitVec.testBit_toNat]
  simp [hi]

/-- Settles O11: the 64-bit operations bit by bit, with no flag; `issueAlu` gives the frame. -/
theorem bitwiseLogic : Obligations.BitwiseLogic := by
  intro f s a b
  refine ⟨?and, ?or, ?xor, ?andn, ?not, ?popc, ?clz, ?brev⟩
  case and => exact computesD_bin64 _ rfl (fun _ _ _ => BitVec.getLsbD_and)
  case or => exact computesD_bin64 _ rfl (fun _ _ _ => BitVec.getLsbD_or)
  case xor => exact computesD_bin64 _ rfl (fun _ _ _ => BitVec.getLsbD_xor)
  case andn => exact computesD_bin64 _ rfl (fun l i hi => by simp [hi, a, b])
  case not => exact computesD_un64 _ rfl (fun l i hi => by rw [ofNat_complement]; simp [hi, a])
  case popc => exact computesD_un64 _ rfl (fun l => toNat_ofNat_popCount _)
  case clz =>
    refine computesD_un64 _ rfl (fun l => ?_)
    rw [toNat_ofNat_sub_bitLen]
    exact ⟨Nat.sub_le .., leadingZeros_spec _⟩
  case brev => exact computesD_un64 _ rfl (fun l i hi => getLsbD_ofNat_bitRev _ hi)

end Sys2Proof.Machine
end

section
/-! PROOF. Shifts, rotation, bit fields and the funnel shift (R122–R124), read bit by bit. -/

namespace Sys2Proof.Machine

theorem ShTy.width_pos (t : ShTy) : 0 < ShTy.width t := by cases t <;> decide

/-! ### Shifts of one sub-element (R122) -/

theorem bitOf_mod_two_pow {x w i : Nat} (hi : i < w) : bitOf (x % 2 ^ w) i = bitOf x i := by
  simp [bitOf_eq_testBit, Nat.testBit_mod_two_pow, hi]

theorem bitOf_shlElem {w i : Nat} (a c : Nat) (hi : i < w) :
    bitOf (shlElem w a c) i = (decide (c ≤ i) && bitOf a (i - c)) := by
  unfold shlElem
  split
  · simp [bitOf_eq_testBit, show ¬ c ≤ i by omega]
  · rw [bitOf_mod_two_pow hi]
    simp [bitOf_eq_testBit, Nat.testBit_mul_two_pow]

theorem bitOf_shrElem {w a : Nat} (ha : a < 2 ^ w) (c i : Nat) :
    bitOf (shrElem w a c) i = (decide (i + c < w) && bitOf a (i + c)) := by
  have hhigh : ¬ i + c < w → a.testBit (i + c) = false := fun h =>
    Nat.testBit_lt_two_pow (Nat.lt_of_lt_of_le ha (Nat.pow_le_pow_right (by decide) (by omega)))
  unfold shrElem
  split
  · simp [bitOf_eq_testBit, show ¬ i + c < w by omega]
  · by_cases h : i + c < w
    · simp [bitOf_eq_testBit, Nat.testBit_div_two_pow, h]
    · simp [bitOf_eq_testBit, Nat.testBit_div_two_pow, h, hhigh h]

/-- The arithmetic shift of a code is that of the bit vector. -/
theorem wrapInt_sextInt_div {w : Nat} (hw : 0 < w) (a c : Nat) :
    wrapInt w (sextInt w a / (2 ^ c : Nat)) = ((BitVec.ofNat w a).sshiftRight c).toNat := by
  rw [wrapInt_eq_toNat_ofInt, sextInt_eq_toInt hw, BitVec.sshiftRight, Int.shiftRight_eq_div_pow]

theorem bitOf_sarElem {w i : Nat} (a c : Nat) (hi : i < w) :
    bitOf (sarElem w a c) i = bitOf a (min (i + c) (w - 1)) := by
  unfold sarElem
  split
  · rw [show min (i + c) (w - 1) = w - 1 by omega]
    split <;> simp_all [bitOf_eq_testBit, Nat.testBit_two_pow_sub_one]
  · rw [wrapInt_sextInt_div (by omega), bitOf_eq_testBit, BitVec.testBit_toNat, BitVec.getLsbD_sshiftRight,
      BitVec.msb_eq_getLsbD_last, BitVec.getLsbD_ofNat, BitVec.getLsbD_ofNat, bitOf_eq_testBit]
    by_cases h : c + i < w
    · simp [h, hi, show min (i + c) (w - 1) = c + i by omega]
    · simp [h, hi, show min (i + c) (w - 1) = w - 1 by omega, show 0 < w by omega]

/-- A rotation moves bit `i` to `i` plus the count, reduced modulo the width. -/
theorem bitOf_rotElem {w a i : Nat} (ha : a < 2 ^ w) (c : Nat) (hi : i < w) :
    bitOf (rotElem w a c) ((i + c) % w) = bitOf a i := by
  have hk : c % w < w := Nat.mod_lt _ (by omega)
  have hj : (i + c) % w = if i + c % w < w then i + c % w else i + c % w - w := by
    rw [Nat.add_mod, Nat.mod_eq_of_lt hi]
    split
    · exact Nat.mod_eq_of_lt ‹_›
    · rw [Nat.mod_eq_sub_mod (by omega), Nat.mod_eq_of_lt (by omega)]
  have hlow : a / 2 ^ (w - c % w) < 2 ^ (c % w) := by
    refine Nat.div_lt_of_lt_mul ?_
    rwa [← Nat.pow_add, Nat.sub_add_cancel hk.le]
  rw [hj, rotElem, bitOf_mod_two_pow (by split <;> omega), Nat.mul_comm, bitOf_eq_testBit, bitOf_eq_testBit,
    Nat.testBit_two_pow_mul_add _ hlow]
  by_cases hwrap : i + c % w < w
  · simp only [if_pos hwrap]
    rw [if_neg (by omega), Nat.add_sub_cancel]
  · simp only [if_neg hwrap]
    rw [if_pos (by omega), Nat.testBit_div_two_pow]
    congr 1
    omega

/-- What an instruction computes may be said in a weaker form. -/
theorem ComputesD.mono {i : Instr} {f : F64} {s : State} {P Q : Nat → Word → BitVec 9 → Prop} (h : ComputesD i f s P)
    (hPQ : ∀ l y fl, P l y fl → Q l y fl) : ComputesD i f s Q := by
  intro hwf hi
  obtain ⟨val, fl, hP, heff⟩ := h hwf hi
  exact ⟨val, fl, fun l hl => hPQ _ _ _ (hP l hl), heff⟩

/-- A shift computes its operation at each position, by the count of the second source's, and raises nothing (R122). -/
theorem computesD_shiftLanes {i : Instr} {t : ShTy} {f : F64} {s : State} (op : Nat → Nat → Nat)
    (hx : exec i s = .next (issueAlu i f (shiftLanes t f op) s)) :
    ComputesD i f s (fun l y fl => fl = 0 ∧ ∀ k i, k < 64 / ShTy.width t → i < ShTy.width t →
      bitOf (elem (ShTy.width t) y k) i = bitOf (op (srcAt s f l (ShTy.width t) (64 / ShTy.width t) false f.a.toNat k)
        (secondAt s f l (ShTy.width t) (64 / ShTy.width t) false k)) i) := by
  refine computesD_of_issueAlu _ hx (fun l => ⟨rfl, fun k i hk hi => ?_⟩)
  simp only [shiftLanes, srcElems_eq_map, second_eq_map, List.zip_map', List.map_map, Function.comp_def]
  rw [elem_packElems_map _ (Nat.mul_div_le 64 _) hk, bitOf_mod_two_pow hi]

/-! ### Bit fields (R123) -/

theorem fieldSpec_eq (c : Nat) : fieldSpec c = (bitsOf c 5 0, min (bitsOf c 14 8) (64 - bitsOf c 5 0)) := by
  simp [fieldSpec, bitsOf]

/-- The bits of a field of length `n` at position `p`. -/
theorem testBit_field (a p n i : Nat) : (a / 2 ^ p % 2 ^ n).testBit i = (decide (i < n) && bitOf a (p + i)) := by
  rw [Nat.testBit_mod_two_pow, Nat.testBit_div_two_pow, bitOf_eq_testBit, Nat.add_comm]

/-- The bits of a sign-extended code. -/
theorem getLsbD_ofNat_wrapInt_sextInt {n i : Nat} (hn : 0 < n) (x : Nat) (hi : i < 64) :
    (BitVec.ofNat 64 (wrapInt 64 (sextInt n x))).getLsbD i = x.testBit (min i (n - 1)) := by
  have hext : BitVec.ofNat 64 (wrapInt 64 (sextInt n x)) = (BitVec.ofNat n x).signExtend 64 := by
    rw [wrapInt_eq_toNat_ofInt, sextInt_eq_toInt hn, BitVec.ofNat_toNat, BitVec.setWidth_eq, BitVec.signExtend]
  rw [hext, BitVec.getLsbD_signExtend, BitVec.msb_eq_getLsbD_last, BitVec.getLsbD_ofNat, BitVec.getLsbD_ofNat]
  by_cases h : i < n
  · simp [hi, h, show min i (n - 1) = i by omega]
  · simp [hi, h, show min i (n - 1) = n - 1 by omega, hn]

/-- A number is what lies below a field, the field, and what lies above it. -/
theorem split_field (a p n : Nat) : 2 ^ p * (2 ^ n * (a / 2 ^ p / 2 ^ n) + a / 2 ^ p % 2 ^ n) + a % 2 ^ p = a := by
  rw [Nat.div_add_mod, Nat.div_add_mod]

/-- Replacing a field leaves what lies below and above it. -/
theorem replace_field (a b p n : Nat) : a - a / 2 ^ p % 2 ^ n * 2 ^ p + b % 2 ^ n * 2 ^ p =
    2 ^ p * (2 ^ n * (a / 2 ^ p / 2 ^ n) + b % 2 ^ n) + a % 2 ^ p := by
  have h := split_field a p n
  rw [Nat.mul_add] at h ⊢
  rw [Nat.mul_comm (a / 2 ^ p % 2 ^ n), Nat.mul_comm (b % 2 ^ n)]
  omega

theorem testBit_replace_field (a b p n i : Nat) :
    (a - a / 2 ^ p % 2 ^ n * 2 ^ p + b % 2 ^ n * 2 ^ p).testBit i =
      if p ≤ i ∧ i < p + n then bitOf b (i - p) else bitOf a i := by
  have hlow : a % 2 ^ p < 2 ^ p := Nat.mod_lt _ (Nat.two_pow_pos p)
  have hmid : b % 2 ^ n < 2 ^ n := Nat.mod_lt _ (Nat.two_pow_pos n)
  rw [replace_field, Nat.testBit_two_pow_mul_add _ hlow, Nat.testBit_two_pow_mul_add _ hmid, bitOf_eq_testBit, bitOf_eq_testBit]
  by_cases h1 : i < p
  · rw [if_pos h1, if_neg (by omega)]
    simp [Nat.testBit_mod_two_pow, h1]
  · rw [if_neg h1]
    by_cases h2 : i - p < n
    · rw [if_pos h2, if_pos (by omega)]
      simp [Nat.testBit_mod_two_pow, h2]
    · rw [if_neg h2, if_neg (by omega), Nat.testBit_div_two_pow, Nat.testBit_div_two_pow]
      congr 1
      omega

/-! ### The funnel shift (R124) -/

/-- A bit of the 128-bit value {B, A}. -/
theorem testBit_wide {a b : Nat} (ha : a < 2 ^ 64) (i : Nat) :
    (b * 2 ^ 64 + a).testBit i = if i < 64 then bitOf a i else bitOf b (i - 64) := by
  rw [Nat.mul_comm, Nat.testBit_two_pow_mul_add _ ha, bitOf_eq_testBit, bitOf_eq_testBit]

theorem getLsbD_funnel {a b i : Nat} (ha : a < 2 ^ 64) (hb : b < 2 ^ 64) (c : Nat) (hi : i < 64) :
    (if 128 ≤ c then 0 else BitVec.ofNat 64 ((b * 2 ^ 64 + a) / 2 ^ c) : Word).getLsbD i =
      (decide (i + c < 128) && (if i + c < 64 then bitOf a (i + c) else bitOf b (i + c - 64))) := by
  split
  · simp [show ¬ i + c < 128 by omega]
  · rw [BitVec.getLsbD_ofNat, Nat.testBit_div_two_pow, testBit_wide ha]
    by_cases h : i + c < 128
    · simp [hi, h]
    · have htop : b.testBit (i + c - 64) = false :=
        Nat.testBit_lt_two_pow (Nat.lt_of_lt_of_le hb (Nat.pow_le_pow_right (by decide) (by omega)))
      simp [hi, h, show ¬ i + c < 64 by omega, bitOf_eq_testBit, htop]

/-- Settles O12: each form bit by bit, with no flag; `issueAlu` gives the frame. -/
theorem shiftsAndBitFields : Obligations.ShiftsAndBitFields := by
  intro t f s w a c bit A A' B C p n
  have hfield : ∀ l, fieldSpec (src64 s f l f.c.toNat) = (p l, n l) := fun l => fieldSpec_eq _
  refine ⟨?shl, ?shr, ?sar, ?rot, ?bfx, ?bfxSigned, ?bfi, ?shrf⟩
  case shl => exact (computesD_shiftLanes _ rfl).mono (fun _ _ _ ⟨hfl, hy⟩ =>
    ⟨hfl, fun k i hk hi => (hy k i hk hi).trans (bitOf_shlElem _ _ hi)⟩)
  case shr => exact (computesD_shiftLanes _ rfl).mono (fun _ _ _ ⟨hfl, hy⟩ =>
    ⟨hfl, fun k i hk hi => (hy k i hk hi).trans (bitOf_shrElem (srcAt_lt ..) _ _)⟩)
  case sar => exact (computesD_shiftLanes _ rfl).mono (fun _ _ _ ⟨hfl, hy⟩ =>
    ⟨hfl, fun k i hk hi => (hy k i hk hi).trans (bitOf_sarElem _ _ hi)⟩)
  case rot => exact (computesD_shiftLanes _ rfl).mono (fun _ _ _ ⟨hfl, hy⟩ =>
    ⟨hfl, fun k i hk hi => (hy k _ hk (Nat.mod_lt _ (ShTy.width_pos t))).trans (bitOf_rotElem (srcAt_lt ..) _ hi)⟩)
  case bfx =>
    refine computesD_of_issueAlu _ rfl (fun l => ⟨rfl, fun i hi => ?_⟩)
    simp only [bfxLane, hfield, Bool.false_eq_true, if_false]
    by_cases h0 : n l = 0
    · simp [h0]
    · rw [if_neg h0, BitVec.getLsbD_ofNat, testBit_field]
      simp only [hi, decide_true, Bool.true_and]
      rfl
  case bfxSigned =>
    refine computesD_of_issueAlu _ rfl (fun l => ⟨rfl, fun i hi => ?_⟩)
    simp only [bfxLane, hfield, if_true]
    by_cases h0 : n l = 0
    · simp [h0]
    · have hpos : 0 < n l := Nat.pos_of_ne_zero h0
      rw [if_neg h0, getLsbD_ofNat_wrapInt_sextInt hpos _ hi, testBit_field]
      simp only [hpos, show min i (n l - 1) < n l by omega, decide_true, Bool.true_and]
      rfl
  case bfi =>
    refine computesD_of_issueAlu _ rfl (fun l => ⟨rfl, fun i hi => ?_⟩)
    simp only [bfiLane, hfield]
    rw [BitVec.getLsbD_ofNat, testBit_replace_field]
    simp only [hi, decide_true, Bool.true_and]
    rfl
  case shrf => exact computesD_of_issueAlu _ rfl (fun l => ⟨rfl, fun i hi => getLsbD_funnel (BitVec.isLt _) (BitVec.isLt _) _ hi⟩)

end Sys2Proof.Machine
end

section
/-! PROOF. The frame of an instruction whose body writes registers, predicates or flags in its guard-true threads, and the
completion of the instructions that may set a slot (R68, R115). -/

namespace Sys2Proof.Machine

/-! ### From what a body writes to the effect of the instruction -/

/-- What the body of an instruction leaves before its threads move on: v registers, predicates and flags are written, and
nothing else has changed. -/
structure BodyWrites (h : Hdr) (s u : State) (x : Writes) : Prop where
  rest    : u = { s with threads := u.threads, vregs := u.vregs, warps := u.warps }
  vregs   : ∀ w l n, l < 32 → n < 512 →
    u.v w l n = if w = s.cur.warp ∧ l ∈ guarded h s then (x.vec l n).getD (s.v w l n) else s.v w l n
  noSca   : ∀ n, x.sca n = none
  warps   : ∀ w, u.warp w =
    if w = s.cur.warp then { s.warp w with flags := (s.warp w).flags ||| x.flg } else s.warp w
  threads : ∀ w l, l < 32 → u.thread w l =
    if w = s.cur.warp ∧ l ∈ guarded h s then { s.thread w l with preds := (u.thread w l).preds } else s.thread w l
  preds   : ∀ l p, l ∈ guarded h s → p < 8 →
    (u.thread s.cur.warp l).p p = (x.prd l p).getD ((s.thread s.cur.warp l).p p)

/-- Once the threads have moved past the instruction, its effect is what its body has written. -/
theorem BodyWrites.advance {h : Hdr} {s u : State} {x : Writes} (hi : Issues h s) (hg : guarded h s ≠ [])
    (hb : BodyWrites h s u x) : RegEffect h s (u.advance s.cur.warp (issuing s) s.cur.pc h.len) x := by
  have htick : u.tick = s.tick := by rw [hb.rest]
  have hpast : ∀ w l, l < 32 → (u.advance s.cur.warp (issuing s) s.cur.pc h.len).thread w l =
      if w = s.cur.warp ∧ l ∈ issuing s then (u.thread w l).past s.cur.pc h.len s.tick else s.thread w l := by
    intro w l hl
    rw [State.thread_advance _ _ _ _ _ hi.nodup_issuing hi.lt_issuing _ _ hl, htick]
    split
    · rename_i hc; rw [hc.1]
    · rename_i hc; rw [hb.threads w l hl, if_neg (fun hc' => hc ⟨hc'.1, (mem_guarded.1 hc'.2).1⟩)]
  refine { rest := ?_, vregs := fun w l n hl hn => ?_, wregs := fun w n _ => ?_, warps := fun w => ?_,
           threads := fun w l hl => ?_, preds := fun l p hl hp => ?_ }
  · rw [State.advance_eq, hb.rest]
  · rw [State.advance_eq]
    exact hb.vregs w l n hl hn
  · have hw : (u.advance s.cur.warp (issuing s) s.cur.pc h.len).w w n = s.w w n := by rw [State.advance_eq, hb.rest]; rfl
    simp [hw, hb.noSca]
  · have hw : (u.advance s.cur.warp (issuing s) s.cur.pc h.len).warp w = u.warp w := by rw [State.advance_eq]; rfl
    simp only [hw, hb.warps, hg, ne_eq, not_false_eq_true, and_true]
  · rw [hpast w l hl, hb.threads w l hl]
    split
    · split <;> rfl
    · rfl
  · have hl32 := hi.lt_issuing l hl
    rw [hpast _ l hl32, if_pos ⟨rfl, hl⟩]
    show (u.thread s.cur.warp l).p p = _
    split
    · exact hb.preds l p ‹_› hp
    · rename_i hng
      rw [hb.threads _ l hl32, if_neg (fun hc => hng hc.2)]

/-- A body that writes v registers and flags. -/
theorem bodyWrites_of_vregs {h : Hdr} {s u : State} (vec : Nat → Nat → Option Word) (fl : BitVec 9)
    (hrest : u = { s with vregs := u.vregs, warps := u.warps })
    (hv : ∀ w l n, l < 32 → n < 512 →
      u.v w l n = if w = s.cur.warp ∧ l ∈ guarded h s then (vec l n).getD (s.v w l n) else s.v w l n)
    (hw : ∀ w, u.warp w = if w = s.cur.warp then { s.warp w with flags := (s.warp w).flags ||| fl } else s.warp w) :
    BodyWrites h s u { vec := vec, flg := fl } := by
  have hth : ∀ w l, u.thread w l = s.thread w l := fun w l => by rw [hrest]; rfl
  refine { rest := ?_, vregs := hv, noSca := fun _ => rfl, warps := hw, threads := fun w l _ => ?_, preds := fun l p _ _ => ?_ }
  · rw [hrest]
  · rw [hth, ite_self]
  · rw [hth]; rfl

theorem warp_orFlags (s : State) (w v : Nat) (fl : BitVec 9) :
    (s.orFlags w fl).warp v = if v = w then { s.warp v with flags := (s.warp v).flags ||| fl } else s.warp v := by
  rw [State.orFlags, State.warp_setWarp]
  split
  · rename_i e; rw [e]
  · rfl

/-- A body that writes one predicate per guard-true thread, and flags. -/
theorem bodyWrites_writePreds {h : Hdr} {s : State} (hi : Issues h s) (d : Nat) (val : Nat → Bool) (fl : BitVec 9) :
    BodyWrites h s (writePreds (s.orFlags s.cur.warp fl) s.cur.warp d ((guarded h s).map (fun l => (l, val l))))
      { prd := toPred d val, flg := fl } := by
  generalize hu : writePreds (s.orFlags s.cur.warp fl) s.cur.warp d ((guarded h s).map (fun l => (l, val l))) = u
  have hrest : u = { s.orFlags s.cur.warp fl with threads := u.threads } := by rw [← hu]; exact writePreds_eq _ _ _ _
  have hth : ∀ w l, l < 32 → u.thread w l =
      if w = s.cur.warp ∧ l ∈ guarded h s then (s.thread w l).setP d (val l) else s.thread w l := by
    intro w l hl
    rw [← hu, thread_writePreds _ _ _ _ _ hi.nodup_guarded hi.lt_guarded _ _ hl]
    split
    · rename_i hc; rw [hc.1]; rfl
    · rfl
  refine { rest := ?_, vregs := fun w l n _ _ => ?_, noSca := fun _ => rfl, warps := fun w => ?_,
           threads := fun w l hl => ?_, preds := fun l p hl hp => ?_ }
  · rw [hrest]; rfl
  · have hv : u.v w l n = s.v w l n := by rw [hrest]; rfl
    simp [hv]
  · have hw : u.warp w = (s.orFlags s.cur.warp fl).warp w := by rw [hrest]; rfl
    rw [hw, warp_orFlags]
  · rw [hth w l hl]
    split
    · exact Thread.setP_eq _ _ _
    · rfl
  · rw [hth _ l (hi.lt_guarded l hl), if_pos ⟨rfl, hl⟩, Thread.p_setP _ _ _ _ hp]
    simp only [toPred]
    split <;> rfl

/-! ### Writes of several registers -/

/-- Steps that each change v registers only change v registers only. -/
theorem foldl_changes_vregs {α : Type} {g : State → α → State} (hg : ∀ s x, g s x = { s with vregs := (g s x).vregs })
    (xs : List α) (s : State) : xs.foldl g s = { s with vregs := (xs.foldl g s).vregs } := by
  induction xs generalizing s with
  | nil => rfl
  | cons x r ih =>
    rw [List.foldl_cons]
    exact (ih (g s x)).trans (by rw [hg s x])

theorem State.writeD_eq (s : State) (w l d : Nat) (x : Word) :
    s.writeD w l d x = { s with vregs := (s.writeD w l d x).vregs } := by
  unfold State.writeD
  split <;> rfl

/-- The registers that a list of numbers and values writes in one thread of the issuing warp. -/
def writeRegs (l : Nat) (s : State) (xs : List (Nat × Word)) : State :=
  xs.foldl (fun s x => s.writeD s.cur.warp l x.1 x.2) s

theorem writeRegs_eq (l : Nat) (s : State) (xs : List (Nat × Word)) :
    writeRegs l s xs = { s with vregs := (writeRegs l s xs).vregs } :=
  foldl_changes_vregs (fun s x => s.writeD_eq s.cur.warp l x.1 x.2) xs s

theorem writesOf_cons (x : Nat × Word) (r : List (Nat × Word)) (n : Nat) :
    writesOf (x :: r) n = if n = x.1 ∧ x.1 < 384 then some x.2 else writesOf r n := by
  simp only [writesOf, List.find?_cons]
  by_cases h : x.1 = n
  · subst h
    by_cases hx : x.1 < 384 <;> simp [hx]
  · simp [beq_false_of_ne h, Ne.symm h]

theorem writesOf_eq_none {xs : List (Nat × Word)} {n : Nat} (h : n ∉ xs.map (·.1)) : writesOf xs n = none := by
  induction xs with
  | nil => simp [writesOf]
  | cons x r ih =>
    obtain ⟨hx, hr⟩ := List.ne_and_not_mem_of_not_mem_cons (List.map_cons ▸ h)
    rw [writesOf_cons, if_neg (fun hc => hx hc.1), ih hr]

/-- A thread's registers after writes to different numbers. -/
theorem v_writeRegs {l : Nat} (hl : l < 32) {xs : List (Nat × Word)} (hxs : (xs.map (·.1)).Nodup) (s : State) (w l' n : Nat)
    (hl' : l' < 32) (hn : n < 512) : (writeRegs l s xs).v w l' n =
      if w = s.cur.warp ∧ l' = l then (writesOf xs n).getD (s.v w l' n) else s.v w l' n := by
  induction xs generalizing s with
  | nil => simp [writeRegs, writesOf]
  | cons x r ih =>
    obtain ⟨hnot, hr⟩ := List.nodup_cons.1 (List.map_cons ▸ hxs)
    have hcur : (s.writeD s.cur.warp l x.1 x.2).cur = s.cur := by rw [State.writeD_eq]
    show (writeRegs l (s.writeD s.cur.warp l x.1 x.2) r).v w l' n = _
    rw [ih hr, hcur, State.v_writeD _ _ _ _ _ _ _ _ hl hl' hn, writesOf_cons]
    by_cases hth : w = s.cur.warp ∧ l' = l
    · by_cases hreg : n = x.1 ∧ x.1 < 384
      · simp [hth, hreg, writesOf_eq_none hnot]
      · simp [hth, hreg]
    · simp only [if_neg hth]
      rw [if_neg (fun hc => hth ⟨hc.1, hc.2.1⟩)]

/-- The registers of all listed threads after each has written its own list. -/
theorem v_foldl_writeRegs {ls : List Nat} (hnd : ls.Nodup) (hls : ∀ l ∈ ls, l < 32) {val : Nat → List (Nat × Word)}
    (hval : ∀ l, ((val l).map (·.1)).Nodup) (s : State) (w l' n : Nat) (hl' : l' < 32) (hn : n < 512) :
    (ls.foldl (fun s l => writeRegs l s (val l)) s).v w l' n =
      if w = s.cur.warp ∧ l' ∈ ls then (writesOf (val l') n).getD (s.v w l' n) else s.v w l' n := by
  induction ls generalizing s with
  | nil => simp
  | cons l r ih =>
    obtain ⟨hnot, hr⟩ := List.nodup_cons.1 hnd
    have hcur : (writeRegs l s (val l)).cur = s.cur := by rw [writeRegs_eq]
    rw [List.foldl_cons, ih hr (fun k hk => hls k (by simp [hk])), hcur, v_writeRegs (hls l (by simp)) (hval l) _ _ _ _ hl' hn]
    by_cases he : l' = l
    · subst he; simp [hnot]
    · simp [he]

/-! ### Instructions with a slot (R68, R115, R116) -/

section
variable {u : WorkUnit} {i : Instr} {f : F64} {g : State → Nat → List (Nat × Word) × BitVec 9} {s : State}

/-- With SET = 0 the registers and the flags are written at once. -/
theorem issueSlotted_effect_now (hi : Issues (hdrOf i f) s) (hval : ∀ l, ((g s l).1.map (·.1)).Nodup) (hset : f.set = 0)
    (hfl : ∀ l ∈ guarded (hdrOf i f) s, (s.warp s.cur.warp).fen &&& (g s l).2 = 0) :
    RegEffect (hdrOf i f) s (issueSlotted i u f g s)
      { vec := fun l => writesOf (g s l).1, flg := unionFlags (guarded (hdrOf i f) s) (fun l => (g s l).2) } := by
  unfold issueSlotted
  rw [issue_of_issues hi rfl]
  by_cases hg : guarded (hdrOf i f) s = []
  · rw [if_pos hg]; exact regEffect_none hi _ hg
  · rw [if_neg hg]
    generalize hF : unionFlags (guarded (hdrOf i f) s) (fun l => (g s l).2) = fl
    generalize hu : (guarded (hdrOf i f) s).foldl (fun s' l => writeRegs l s' (g s l).1) (s.orFlags s.cur.warp fl) = t
    have hbody : slottedBody u f g s (guarded (hdrOf i f) s) = .next t := by
      unfold slottedBody
      simp only [hset, if_true, List.map_map, Function.comp_def]
      rw [withFlags_of_disabled _ _ _ (fun l => (g s l).2) _ hfl, hF, ← hu]
      simp only [List.flatMap_map, List.foldl_flatMap, List.foldl_map]
      rfl
    have hrest : t = { s.orFlags s.cur.warp fl with vregs := t.vregs } := by
      rw [← hu]
      exact foldl_changes_vregs (fun s' l => writeRegs_eq l s' _) _ _
    rw [hbody]
    refine (bodyWrites_of_vregs _ _ (by rw [hrest]; rfl) (fun w l n hl hn => ?_) (fun w => ?_)).advance hi hg
    · rw [← hu]
      exact v_foldl_writeRegs hi.nodup_guarded hi.lt_guarded hval _ _ _ _ hl hn
    · have hw : t.warp w = (s.orFlags s.cur.warp fl).warp w := by rw [hrest]; rfl
      rw [hw, warp_orFlags]

/-- What a started instruction leaves with its unit. -/
def pendingOf (s : State) (u : WorkUnit) (slot : Nat) (gl : List Nat) (fl : BitVec 9) (wk : Work) : Pending :=
  { pid := s.serial, unit := u, warp := s.cur.warp, lanes := gl, slot := slot, flags := fl, acq := none, work := wk }

/-- Starting the work of the guard-true threads and moving on (R68). -/
theorem startPending_effect {h : Hdr} (hi : Issues h s) (slot : Nat) (fl : BitVec 9) (wk : Work) :
    StartEffect h s ((startPending s u slot (guarded h s) fl wk).advance s.cur.warp (issuing s) s.cur.pc h.len)
      (pendingOf s u slot (guarded h s) fl wk) := by
  refine { rest := ?_, warp := rfl, lanes := rfl, threads := fun w l hl => ?_ }
  · rw [State.advance_eq]
    simp only [startPending]
    rw [State.onLanes_eq]
    rfl
  · have htick : (startPending s u slot (guarded h s) fl wk).tick = s.tick := by
      simp only [startPending]; rw [State.onLanes_eq]
    have hslot : ∀ v, (startPending s u slot (guarded h s) fl wk).thread v l =
        if v = s.cur.warp ∧ l ∈ guarded h s then (s.thread s.cur.warp l).slotSet slot else s.thread v l := fun v =>
      State.thread_onLanes s s.cur.warp (guarded h s) (fun _ t => t.slotSet slot) hi.nodup_guarded hi.lt_guarded v l hl
    rw [State.thread_advance _ _ _ _ _ hi.nodup_issuing hi.lt_issuing _ _ hl, htick]
    simp only [hslot, true_and]
    by_cases hw : w = s.cur.warp
    · subst hw
      by_cases hgl : l ∈ guarded h s
      · simp [hgl, (mem_guarded.1 hgl).1, pendingOf]
      · simp [hgl]
    · simp [hw]

/-- With a slot the registers and the flags wait whole for the unit. -/
theorem issueSlotted_effect_start (hi : Issues (hdrOf i f) s) (hset : f.set ≠ 0) (hg : guarded (hdrOf i f) s ≠ [])
    (hfl : ∀ l ∈ guarded (hdrOf i f) s, (s.warp s.cur.warp).fen &&& (g s l).2 = 0) :
    StartEffect (hdrOf i f) s (issueSlotted i u f g s)
      (pendingOf s u f.set.toNat (guarded (hdrOf i f) s) (unionFlags (guarded (hdrOf i f) s) (fun l => (g s l).2))
        (.writeRegs ((guarded (hdrOf i f) s).flatMap (fun l => (g s l).1.map (fun x => (l, x.1, x.2)))))) := by
  unfold issueSlotted
  rw [issue_of_issues hi rfl, if_neg hg]
  have hbody : slottedBody u f g s (guarded (hdrOf i f) s) =
      .next (startPending s u f.set.toNat (guarded (hdrOf i f) s) (unionFlags (guarded (hdrOf i f) s) (fun l => (g s l).2))
        (.writeRegs ((guarded (hdrOf i f) s).flatMap (fun l => (g s l).1.map (fun x => (l, x.1, x.2)))))) := by
    unfold slottedBody
    simp only [if_neg hset, List.map_map, Function.comp_def, List.flatMap_map]
    rw [allFlags_map _ (fun l => (g s l).2), and_unionFlags _ _ _ hfl]
    rfl
  rw [hbody]
  exact startPending_effect hi _ _ _

/-- The completion statement of an instruction of a unit, from what it computes in a lane. -/
theorem computesInUnit_of_issueSlotted {P : Nat → List (Nat × Word) → BitVec 9 → Prop}
    (g : State → Nat → List (Nat × Word) × BitVec 9) (hx : exec i s = .next (issueSlotted i u f g s))
    (hval : ∀ l, ((g s l).1.map (·.1)).Nodup) (hP : ∀ l, P l (g s l).1 (g s l).2) : ComputesInUnit u i f s P := by
  intro _ hi
  refine ⟨fun l => (g s l).1, fun l => (g s l).2, fun l _ => hP l, fun hfl => ⟨fun hset => ?_, fun hset hg => ?_⟩⟩
  · exact ⟨_, hx, issueSlotted_effect_now hi hval hset hfl⟩
  · exact ⟨_, _, hx, issueSlotted_effect_start hi hset hg hfl, rfl, rfl, rfl, rfl⟩

end

end Sys2Proof.Machine
end

section
/-! PROOF. Compares, selection and predicate logic (R125–R127), address formation and wide constants (R132, R133), and the
moves (R77). -/

namespace Sys2Proof.Machine

theorem holds_iff (cc : Cc) (a b : Int) : Cc.holds cc a b = true ↔ match cc with
    | .eq => a = b | .ne => a ≠ b | .lt => a < b | .le => a ≤ b | .gt => b < a | .ge => b ≤ a := by
  cases cc <;> simp [Cc.holds]

/-! ### Values of 64-bit instructions -/

theorem getLsbD_select (a b c : Word) (i : Nat) (hi : i < 64) :
    ((a &&& c) ||| (b &&& ~~~c)).getLsbD i = if c.getLsbD i then a.getLsbD i else b.getLsbD i := by
  rw [BitVec.getLsbD_or, BitVec.getLsbD_and, BitVec.getLsbD_and, BitVec.getLsbD_not]
  cases c.getLsbD i <;> simp [hi]

/-- An address is formed modulo 2^64 (R133). -/
theorem ofNat_add_mul_two_pow (a b : Word) (c : Nat) :
    BitVec.ofNat 64 (a.toNat + b.toNat * 2 ^ c) = a + b <<< c := by
  refine BitVec.eq_of_toNat_eq ?_
  simp [Nat.shiftLeft_eq]

/-- A wide constant is the literal over the low half of a register (R133). -/
theorem ofNat_literal_over_low (lit : BitVec 32) (a : Word) :
    BitVec.ofNat 64 (lit.toNat * 2 ^ 32 + a.toNat % 2 ^ 32) =
      (lit.zeroExtend 64 <<< 32) ||| ((a.truncate 32).zeroExtend 64) := by
  have hlow : a.toNat % 2 ^ 32 < 2 ^ 32 := Nat.mod_lt _ (by decide)
  have hlit : lit.toNat < 2 ^ 32 := lit.isLt
  refine BitVec.eq_of_toNat_eq ?_
  rw [← Nat.shiftLeft_eq, Nat.shiftLeft_add_eq_or_of_lt hlow]
  simp only [BitVec.toNat_or, BitVec.toNat_shiftLeft, BitVec.toNat_setWidth, BitVec.toNat_ofNat, Nat.shiftLeft_eq]
  rw [Nat.or_mod_two_pow, Nat.mod_eq_of_lt (by omega : lit.toNat < 2 ^ 64)]

/-! ### `mov` (R77) -/

/-- The 32-bit `mov` copies its operand. -/
theorem issue_movBody_effect {h : Hdr} {s : State} (hi : Issues h s) (hc : h.coll = false) (g : F32) :
    RegEffect h s (issue h (movBody g) s)
      { vec := toVec (g.body.toNat % 512) (fun l => opnd s s.cur.warp l none (g.body.toNat / 512)) } := by
  rw [issue_of_issues hi hc]
  by_cases hg : guarded h s = []
  · rw [if_pos hg]; exact regEffect_none hi _ hg
  · rw [if_neg hg]
    refine (bodyWrites_of_vregs _ _ ((writeLanes_eq _ _ _ _).trans ?_) (fun w l n hl hn => ?_) (fun w => ?_)).advance hi hg
    · rw [writeLanes_eq]
    · rw [v_writeLanes _ _ _ _ _ hi.nodup_guarded hi.lt_guarded _ _ _ hl hn]
      by_cases hth : w = s.cur.warp ∧ l ∈ guarded h s
      · by_cases hreg : n = g.body.toNat % 512 ∧ g.body.toNat % 512 < 384
        · simp [toVec, hth, hreg]
        · simp [toVec, hth, hreg]
      · rw [if_neg hth, if_neg (fun hc => hth ⟨hc.1, hc.2.1⟩)]
    · rw [writeLanes_eq]
      simp
      rfl

/-- The fields of a well-formed instruction may be used to say what it computes. -/
theorem ComputesD.of_wf {i : Instr} {f : F64} {s : State} {P : Nat → Word → BitVec 9 → Prop}
    (h : i.wf = true → ComputesD i f s P) : ComputesD i f s P := fun hwf => h hwf hwf

/-- The row of the literal `mov` asks for `%lit` as operand A. -/
theorem movTwinLit_a {f : F64} (hwf : (Instr.movTwinLit f).wf = true) : f.a.toNat = 449 := by
  have hrow : Row.ok { unRow 0x2C9 [0] .never with a := .litOnly, lit := .must } f = true := hwf
  simp only [Row.ok, FieldKind.ok, Bool.and_eq_true, beq_iff_eq] at hrow
  obtain ⟨⟨⟨⟨-, ha, -⟩, -⟩, -⟩, -⟩ := hrow
  exact ha

/-- Settles O13. -/
theorem comparesSelectsAndMoves : Obligations.ComparesSelectsAndMoves := by
  refine ⟨?_, ?_⟩
  · intro cc t f s a b p v
    refine ⟨?cmp, ?sel, ?selm, ?pand, ?por, ?pxor, ?pandn⟩
    case cmp => exact computesP_of_issuePred _ rfl (fun l => holds_iff cc _ _)
    case sel =>
      refine computesD_of_issueAlu _ rfl (fun l => ⟨rfl, ?_⟩)
      rw [apply_ite (BitVec.ofNat 64), ofNat_src64, ofNat_src64]
      rfl
    case selm => exact computesD_of_issueAlu _ rfl (fun l => ⟨rfl, fun i hi => getLsbD_select _ _ _ i hi⟩)
    case pand => exact computesP_of_issuePred _ rfl (fun _ => rfl)
    case por => exact computesP_of_issuePred _ rfl (fun _ => rfl)
    case pxor => exact computesP_of_issuePred _ rfl (fun _ => rfl)
    case pandn => exact computesP_of_issuePred _ rfl (fun _ => rfl)
  · intro f g s a b lit
    refine ⟨?lea, ?mvh, ?mvs, ?mov, ?movReg, ?movImm, ?movLit, ?mfsr⟩
    case lea => exact computesD_of_issueAlu _ rfl (fun l => ⟨rfl, ofNat_add_mul_two_pow _ _ _⟩)
    case mvh => exact computesD_of_issueAlu _ rfl (fun l => ⟨rfl, ofNat_literal_over_low _ _⟩)
    case mvs => exact computesD_of_issueAlu _ rfl (fun _ => ⟨rfl, rfl⟩)
    case mov =>
      intro _ hi
      refine ⟨_, fun _ => 0, fun _ _ => ⟨rfl, rfl⟩, fun _ => ⟨_, rfl, ?_⟩⟩
      have hz : unionFlags (guarded (hdrOf32 (.mov g) g) s) (fun _ => 0) = 0 := unionFlags_zero _
      rw [hz]
      exact issue_movBody_effect hi rfl g
    case movReg => exact computesD_of_issueAlu _ rfl (fun _ => ⟨rfl, rfl⟩)
    case movImm => exact computesD_of_issueAlu _ rfl (fun _ => ⟨rfl, rfl⟩)
    case movLit =>
      refine ComputesD.of_wf (fun hwf => computesD_of_issueAlu _ rfl (fun l => ⟨rfl, ?_⟩))
      simp only [movTwinLit_a hwf, opnd]
      rfl
    case mfsr => exact computesD_of_issueAlu _ rfl (fun _ => ⟨rfl, rfl⟩)

end Sys2Proof.Machine
end

section
/-! PROOF. The divider (R128–R131): each position's quotient, remainder and flags, packed, and written at once or by the
unit. -/

namespace Sys2Proof.Machine

/-! ### One division (R129) -/

theorem wrapInt_neg_one (w : Nat) : wrapInt w (-1) = 2 ^ w - 1 := by
  have hpos : 0 < 2 ^ w := Nat.two_pow_pos w
  unfold wrapInt
  rw [← Int.add_emod_right, Int.emod_eq_of_lt (by omega) (by omega)]
  omega

section
variable (signed : Bool) (w : Nat) (a b : Int)

theorem divElem_quotient : (divElem signed w a b).1 = wrapInt w (if b = 0 then -1
    else if decide (signed = true ∧ a = -(2 ^ (w - 1) : Nat) ∧ b = -1) then -(2 ^ (w - 1) : Nat) else Int.tdiv a b) := by
  unfold divElem
  by_cases hz : b = 0
  · simp only [if_pos hz, wrapInt_neg_one]
  · by_cases hovf : signed = true ∧ a = -(2 ^ (w - 1) : Nat) ∧ b = -1
    · simp only [if_neg hz, if_pos hovf, decide_eq_true hovf, if_true]
      rw [← hovf.2.1]
    · simp only [if_neg hz, if_neg hovf, decide_eq_false hovf, Bool.false_eq_true, if_false]

theorem divElem_remainder : (divElem signed w a b).2.1 = wrapInt w (if b = 0 then a
    else if decide (signed = true ∧ a = -(2 ^ (w - 1) : Nat) ∧ b = -1) then 0 else a - Int.tdiv a b * b) := by
  unfold divElem
  by_cases hz : b = 0
  · simp only [if_pos hz]
  · by_cases hovf : signed = true ∧ a = -(2 ^ (w - 1) : Nat) ∧ b = -1
    · simp only [if_neg hz, if_pos hovf, decide_eq_true hovf, if_true]
      rfl
    · simp only [if_neg hz, if_neg hovf, decide_eq_false hovf, Bool.false_eq_true, if_false]
      rw [Int.tmod_def, Int.mul_comm]

theorem divElem_flags : (divElem signed w a b).2.2 = if b = 0 then flagIdivzero
    else if decide (signed = true ∧ a = -(2 ^ (w - 1) : Nat) ∧ b = -1) then flagIdivovf else 0 := by
  unfold divElem
  split
  · rfl
  · split <;> simp_all

end

/-! ### The divisions of a thread -/

/-- Position `k` of the dividend and of the divisor. -/
def dividend (t : DivTy) (f : F64) (s : State) (l k : Nat) : Int :=
  extInt (DivTy.signed t) (DivTy.width t) (srcAt s f l (DivTy.width t) (64 / DivTy.width t) (t = .i64) f.a.toNat k)
def divisor (t : DivTy) (f : F64) (s : State) (l k : Nat) : Int :=
  extInt (DivTy.signed t) (DivTy.width t) (secondAt s f l (DivTy.width t) (64 / DivTy.width t) (t = .i64) k)

theorem divLane_eq (t : DivTy) (f : F64) (s : State) (l : Nat) :
    let r := fun k => divElem (DivTy.signed t) (DivTy.width t) (dividend t f s l k) (divisor t f s l k)
    let ks := List.range (64 / DivTy.width t)
    divLane t f s l = (packElems (DivTy.width t) (ks.map (fun k => (r k).1)), packElems (DivTy.width t) (ks.map (fun k => (r k).2.1)),
      unionFlags ks (fun k => (r k).2.2)) := by
  simp only [divLane, dividend, divisor, srcElems_eq_map, second_eq_map, List.zip_map', List.map_map, Function.comp_def,
    unionFlags, List.foldl_map]

section
variable (t : DivTy) (f : F64) (s : State) (l : Nat)

theorem divLane_flags : (divLane t f s l).2.2 = unionFlags (List.range (64 / DivTy.width t)) (fun k =>
    (divElem (DivTy.signed t) (DivTy.width t) (dividend t f s l k) (divisor t f s l k)).2.2) := by
  rw [divLane_eq]

theorem elem_divLane_quotient {k : Nat} (hk : k < 64 / DivTy.width t) : elem (DivTy.width t) (divLane t f s l).1 k =
    (divElem (DivTy.signed t) (DivTy.width t) (dividend t f s l k) (divisor t f s l k)).1 := by
  rw [divLane_eq, elem_packElems_map _ (Nat.mul_div_le 64 _) hk, divElem_quotient, wrapInt_mod]

theorem elem_divLane_remainder {k : Nat} (hk : k < 64 / DivTy.width t) : elem (DivTy.width t) (divLane t f s l).2.1 k =
    (divElem (DivTy.signed t) (DivTy.width t) (dividend t f s l k) (divisor t f s l k)).2.1 := by
  rw [divLane_eq, elem_packElems_map _ (Nat.mul_div_le 64 _) hk, divElem_remainder, wrapInt_mod]

end

/-- Settles O17: each form writes the packed quotients, remainders or both, at once or by the divider. -/
theorem division : Obligations.Division := by
  intro t f s w a b ovf q r fl holds
  have hfl : ∀ l, (divLane t f s l).2.2 = fl l := fun l => by
    rw [divLane_flags]
    simp only [divElem_flags]
    rfl
  have hq : ∀ l, holds (q l) (divLane t f s l).1 := fun l k hk =>
    (elem_divLane_quotient t f s l hk).trans (divElem_quotient ..)
  have hr : ∀ l, holds (r l) (divLane t f s l).2.1 := fun l k hk =>
    (elem_divLane_remainder t f s l hk).trans (divElem_remainder ..)
  refine ⟨?div, ?rem, ?divm⟩
  case div => exact computesInUnit_of_issueSlotted _ rfl (fun _ => by simp) (fun l => ⟨hfl l, _, rfl, hq l⟩)
  case rem => exact computesInUnit_of_issueSlotted _ rfl (fun _ => by simp) (fun l => ⟨hfl l, _, rfl, hr l⟩)
  case divm => exact computesInUnit_of_issueSlotted _ rfl (fun _ => by simp) (fun l => ⟨hfl l, _, _, rfl, hq l, hr l⟩)

end Sys2Proof.Machine
end

section
/-! PROOF. Floating-point arithmetic, classification and comparison (R134–R140), and what an instruction leaves that an
enabled flag makes trap (R102, R147). -/

namespace Sys2Proof.Machine

/-! ### The shapes of floating-point instructions -/

theorem FpTy.width_mul_count (t : FpTy) : (FpTy.fmt t).width * FpTy.count t ≤ 64 := by cases t <;> decide

theorem fBin_eq (t : Fmt) (n : Nat) (f : F64) (op : Nat → Nat → Nat × BitVec 9) (s : State) (l : Nat) :
    fBin t n f op s l = packRes t.width ((List.range n).map (fun k =>
      op (srcAt s f l t.width n false f.a.toNat k) (srcAt s f l t.width n false f.b.toNat k))) := by
  simp only [fBin, fSrc, srcElems_eq_map, List.zip_map', List.map_map, Function.comp_def]

theorem fTer_eq (t : Fmt) (n : Nat) (f : F64) (op : Nat → Nat → Nat → Nat × BitVec 9) (s : State) (l : Nat) :
    fTer t n f op s l = packRes t.width ((List.range n).map (fun k =>
      op (srcAt s f l t.width n false f.a.toNat k) (srcAt s f l t.width n false f.b.toNat k)
        (srcAt s f l t.width n false f.c.toNat k))) := by
  simp only [fTer, fSrc, srcElems_eq_map, List.zip_map', List.map_map, Function.comp_def]

section
variable {i : Instr} {t : Fmt} {n : Nat} {f : F64} {s : State}

/-- A binary floating-point instruction computes its operation at each position. -/
theorem computesD_fBin (op : Nat → Nat → Nat × BitVec 9) (hw : t.width * n ≤ 64)
    (hx : exec i s = .next (issueAlu i f (fBin t n f op) s)) :
    ComputesD i f s (fun l => FloatElems t.width n (fun k =>
      op (srcAt s f l t.width n false f.a.toNat k) (srcAt s f l t.width n false f.b.toNat k))) :=
  computesD_of_issueAlu _ hx (fun l => by rw [fBin_eq]; exact floatElems_packRes _ hw)

/-- A ternary floating-point instruction computes its operation at each position. -/
theorem computesD_fTer (op : Nat → Nat → Nat → Nat × BitVec 9) (hw : t.width * n ≤ 64)
    (hx : exec i s = .next (issueAlu i f (fTer t n f op) s)) :
    ComputesD i f s (fun l => FloatElems t.width n (fun k =>
      op (srcAt s f l t.width n false f.a.toNat k) (srcAt s f l t.width n false f.b.toNat k)
        (srcAt s f l t.width n false f.c.toNat k))) :=
  computesD_of_issueAlu _ hx (fun l => by rw [fTer_eq]; exact floatElems_packRes _ hw)

end

/-! ### What raising causes leaves (R84, R196) -/

theorem State.orCause_eq (s : State) (w bit : Nat) :
    s.orCause w bit = { s with warps := (s.orCause w bit).warps, launches := (s.orCause w bit).launches } := by
  unfold State.orCause
  dsimp only
  split <;> rfl

theorem warp_orCause (s : State) (w bit : Nat) :
    (s.orCause w bit).warp w = { s.warp w with cause := (s.warp w).cause ||| (1#32 <<< bit) } := by
  have hset : (s.orCause w bit).warp w = (s.setWarp w (fun x => { x with cause := x.cause ||| (1#32 <<< bit) })).warp w := by
    unfold State.orCause
    dsimp only
    split <;> rfl
  rw [hset, State.warp_setWarp, if_pos rfl]

/-- What one raised cause does to its thread. -/
def raisedThread (r : Raise) (t : Thread) : Thread :=
  { t with raised := true, faultVa := BitVec.ofNat 64 r.addr, code := r.code, wait := .ready }

/-- One raised cause. -/
def raiseOne (w : Nat) (s : State) (r : Raise) : State := (s.orCause w r.bit).setThread w r.lane (raisedThread r)

theorem raise_eq_foldl (s : State) (w : Nat) (rs : List Raise) :
    s.raise w rs = (rs.foldl (raiseOne w) s).setWarp w (fun x => { x with syncNew := true }) := rfl

@[simp] theorem vregs_raise (s : State) (w : Nat) (rs : List Raise) : (s.raise w rs).vregs = s.vregs := by
  rw [raise_eq_foldl, State.setWarp_vregs]
  induction rs generalizing s with
  | nil => rfl
  | cons r rest ih =>
    rw [List.foldl_cons, ih, raiseOne, State.setThread_vregs, State.orCause_eq]

/-- Raising causes leaves every thread's predicates and place. -/
theorem thread_raise (s : State) (w : Nat) {rs : List Raise} (hrs : ∀ r ∈ rs, r.lane < 32) (v : Nat) {l : Nat} (hl : l < 32) :
    ((s.raise w rs).thread v l).preds = (s.thread v l).preds ∧ ((s.raise w rs).thread v l).pc = (s.thread v l).pc := by
  rw [raise_eq_foldl, State.thread_setWarp]
  induction rs generalizing s with
  | nil => exact ⟨rfl, rfl⟩
  | cons r rest ih =>
    have hone : ((raiseOne w s r).thread v l).preds = (s.thread v l).preds ∧
        ((raiseOne w s r).thread v l).pc = (s.thread v l).pc := by
      have hor : ∀ v, (s.orCause w r.bit).thread v l = s.thread v l := fun v => by rw [State.orCause_eq]; rfl
      rw [raiseOne, State.thread_setThread _ _ _ _ _ _ (hrs r (by simp)) hl, hor]
      split
      · rename_i hc
        obtain ⟨rfl, rfl⟩ := hc
        rw [hor]
        exact ⟨rfl, rfl⟩
      · exact ⟨rfl, rfl⟩
    rw [List.foldl_cons]
    obtain ⟨hp, hpc⟩ := ih (raiseOne w s r) (fun k hk => hrs k (by simp [hk]))
    exact ⟨hp.trans hone.1, hpc.trans hone.2⟩

/-- Raising one cause, by whichever threads, records its bit in the warp. -/
theorem warp_raise (s : State) (w : Nat) {rs : List Raise} {bit : Nat} (hne : rs ≠ []) (hrs : ∀ r ∈ rs, r.bit = bit) :
    (s.raise w rs).warp w = { s.warp w with cause := (s.warp w).cause ||| (1#32 <<< bit), syncNew := true } := by
  have hone : ∀ (s : State) (r : Raise), r.bit = bit →
      (raiseOne w s r).warp w = { s.warp w with cause := (s.warp w).cause ||| (1#32 <<< bit) } := fun s r hr => by
    rw [raiseOne, State.warp_setThread, warp_orCause, hr]
  have hfold : ∀ (rest : List Raise) (s : State), (∀ r ∈ rest, r.bit = bit) →
      (s.warp w).cause ||| (1#32 <<< bit) = (s.warp w).cause → (rest.foldl (raiseOne w) s).warp w = s.warp w := by
    intro rest
    induction rest with
    | nil => intro s _ _; rfl
    | cons r rest ih =>
      intro s hbits hset
      have hw : (raiseOne w s r).warp w = s.warp w := by rw [hone s r (hbits r (by simp)), hset]
      rw [List.foldl_cons, ih _ (fun k hk => hbits k (by simp [hk])) (by rw [hw, hset]), hw]
  obtain ⟨r, rest, rfl⟩ := List.exists_cons_of_ne_nil hne
  have h1 := hone s r (hrs r (by simp))
  rw [raise_eq_foldl, State.warp_setWarp, if_pos rfl, List.foldl_cons,
    hfold rest _ (fun k hk => hrs k (by simp [hk])) (by rw [h1, BitVec.or_assoc, BitVec.or_self]), h1]

/-! ### The causes of enabled flags (R102) -/

section
variable {fen : BitVec 9} {ls : List Nat} {fl : Nat → BitVec 9}

theorem mem_flagRaises {r : Raise} : r ∈ flagRaises fen (ls.map (fun l => (l, fl l))) ↔
    ∃ l ∈ ls, ∃ i < 9, (fl l &&& fen).getLsbD i = true ∧ r = { lane := l, bit := flagCause i } := by
  simp only [flagRaises, List.mem_flatMap, List.mem_map, List.mem_filter, List.mem_range]
  constructor
  · rintro ⟨_, ⟨l, hl, rfl⟩, i, ⟨hi, hb⟩, rfl⟩
    exact ⟨l, hl, i, hi, hb, rfl⟩
  · rintro ⟨l, hl, i, hi, hb, rfl⟩
    exact ⟨_, ⟨l, hl, rfl⟩, i, ⟨hi, hb⟩, rfl⟩

/-- A flag that is raised and enabled raises its cause in some thread. -/
theorem flagRaises_ne_nil (h : fen &&& unionFlags ls fl ≠ 0) : flagRaises fen (ls.map (fun l => (l, fl l))) ≠ [] := by
  intro hnil
  refine h (and_unionFlags _ _ _ (fun l hl => BitVec.eq_of_getLsbD_eq (fun i hi => ?_)))
  by_contra hbit
  have hr : (fl l &&& fen).getLsbD i = true := by
    rw [BitVec.and_comm]
    simpa using hbit
  have hmem := mem_flagRaises.2 ⟨l, hl, i, hi, hr, rfl⟩
  rw [hnil] at hmem
  exact absurd hmem (List.not_mem_nil)

theorem eq_zero_of_getLsbD_flagInvalid {i : Nat} (h : flagInvalid.getLsbD i = true) : i = 0 := by
  simpa [flagInvalid] using h

/-- INVALID, where it is the only flag, raises its own cause alone. -/
theorem flagRaises_invalid (h : ∀ l ∈ ls, fl l = flagInvalid ∨ fl l = 0) {r : Raise}
    (hr : r ∈ flagRaises fen (ls.map (fun l => (l, fl l)))) : r.lane ∈ ls ∧ r.bit = 6 := by
  obtain ⟨l, hl, i, hi, hb, rfl⟩ := mem_flagRaises.1 hr
  rw [BitVec.getLsbD_and, Bool.and_eq_true] at hb
  have hi0 : i = 0 := by
    rcases h l hl with hf | hf
    · exact eq_zero_of_getLsbD_flagInvalid (hf ▸ hb.1)
    · simp [hf] at hb
  subst hi0
  exact ⟨hl, rfl⟩

end

/-! ### `fcmp` (R139) -/

/-- The INVALID that a comparison raises: on any NaN where the relation orders, else on a signalling one. -/
theorem fcmpRel_flags (t : Fmt) (cc a b : Nat) : (fcmpRel t cc a b).2 =
    if (if 2 ≤ cc ∧ cc ≤ 5 then isNanF t a || isNanF t b else isSnan t a || isSnan t b) then flagInvalid else 0 := by
  match cc with
  | 0 | 1 | 2 | 3 | 4 | 5 | 6 => rfl
  | n + 7 => simp [fcmpRel]

/-- What one lane of `fcmp` computes. -/
def fcmpLane (t : FcTy) (f : F64) (s : State) (l : Nat) : Bool × BitVec 9 :=
  fcmpRel (FcTy.fmt t) f.md.toNat (srcAt s f l (FcTy.fmt t).width 1 false f.a.toNat 0)
    (srcAt s f l (FcTy.fmt t).width 1 false f.b.toNat 0)

theorem fcmpBody_eq (t : FcTy) (f : F64) (s : State) (gl : List Nat) : fcmpBody t f s gl =
    withFlags s s.cur.warp (gl.map (fun l => (l, (fcmpLane t f s l).2)))
      (fun s' => .next (writePreds s' s.cur.warp (f.d.toNat % 8) (gl.map (fun l => (l, (fcmpLane t f s l).1))))) := by
  simp only [fcmpBody, List.map_map]
  rfl

section
variable {t : FcTy} {f : F64} {s : State}

/-- With no raised flag enabled, `fcmp` writes its predicates and flags. -/
theorem fcmp_effect (hi : Issues (hdrOf (.fcmp t f) f) s)
    (hfl : (s.warp s.cur.warp).fen &&& unionFlags (guarded (hdrOf (.fcmp t f) f) s) (fun l => (fcmpLane t f s l).2) = 0) :
    RegEffect (hdrOf (.fcmp t f) f) s (issue (hdrOf (.fcmp t f) f) (fcmpBody t f) s)
      { prd := toPred (f.d.toNat % 8) (fun l => (fcmpLane t f s l).1),
        flg := unionFlags (guarded (hdrOf (.fcmp t f) f) s) (fun l => (fcmpLane t f s l).2) } := by
  rw [issue_of_issues hi rfl]
  by_cases hg : guarded (hdrOf (.fcmp t f) f) s = []
  · rw [if_pos hg]; exact regEffect_none hi _ hg
  · rw [if_neg hg, fcmpBody_eq, withFlags, allFlags_map _ (fun l => (fcmpLane t f s l).2), hfl]
    exact (bodyWrites_writePreds hi _ _ _).advance hi hg

/-- With a raised flag enabled, `fcmp` has no effect but the cause (R102). -/
theorem fcmp_traps (hi : Issues (hdrOf (.fcmp t f) f) s)
    (hfl : (s.warp s.cur.warp).fen &&& unionFlags (guarded (hdrOf (.fcmp t f) f) s) (fun l => (fcmpLane t f s l).2) ≠ 0) :
    let u := issue (hdrOf (.fcmp t f) f) (fcmpBody t f) s
    u.vregs = s.vregs ∧
      (∀ l, l ∈ issuing s → (u.thread s.cur.warp l).preds = (s.thread s.cur.warp l).preds ∧
        (u.thread s.cur.warp l).pc = s.cur.pc) ∧
      u.warp s.cur.warp = { s.warp s.cur.warp with cause := (s.warp s.cur.warp).cause ||| (1#32 <<< 6), syncNew := true } := by
  have hg : guarded (hdrOf (.fcmp t f) f) s ≠ [] := by
    intro hg
    rw [hg] at hfl
    exact hfl (by simp [unionFlags])
  have hinv : ∀ l ∈ guarded (hdrOf (.fcmp t f) f) s, (fcmpLane t f s l).2 = flagInvalid ∨ (fcmpLane t f s l).2 = 0 :=
    fun l _ => by rw [fcmpLane, fcmpRel_flags]; exact ite_eq_or_eq _ _ _
  have hall : allFlags ((guarded (hdrOf (.fcmp t f) f) s).map (fun l => (l, (fcmpLane t f s l).2))) =
    unionFlags (guarded (hdrOf (.fcmp t f) f) s) (fun l => (fcmpLane t f s l).2) := allFlags_map _ _
  rw [issue_of_issues hi rfl, if_neg hg, fcmpBody_eq, withFlags_of_enabled _ _ _ _ (by rw [hall]; exact hfl)]
  refine ⟨vregs_raise _ _ _, fun l hl => ?_, warp_raise _ _ (flagRaises_ne_nil hfl) (fun r hr => (flagRaises_invalid hinv hr).2)⟩
  obtain ⟨-, -, hat, -⟩ := mem_issuing.1 hl
  obtain ⟨hpreds, hpc⟩ := thread_raise s s.cur.warp (fun r hr => hi.lt_guarded _ (flagRaises_invalid hinv hr).1) s.cur.warp
    (hi.lt_issuing l hl)
  exact ⟨hpreds, hpc.trans hat⟩

end

/-- Settles O14: arithmetic packs one result per position; `fcmp` writes its relation, or traps. -/
theorem floatArithmeticAndCompare : Obligations.FloatArithmeticAndCompare := by
  refine ⟨?_, ?_⟩
  · intro t g f s m n a b c
    have hw : m.width * n ≤ 64 := FpTy.width_mul_count t
    refine ⟨?add, ?sub, ?mul, ?fma, ?fnma, ?min, ?max, ?fclass⟩
    case add => exact computesD_fBin _ hw rfl
    case sub => exact computesD_fBin _ hw rfl
    case mul => exact computesD_fBin _ hw rfl
    case fma => exact computesD_fTer _ hw rfl
    case fnma => exact computesD_fTer _ hw rfl
    case min => exact computesD_fBin _ hw rfl
    case max => exact computesD_fBin _ hw rfl
    case fclass => exact computesD_of_issueAlu _ rfl (fun _ => ⟨rfl, rfl⟩)
  · intro t f s a b nan snan c rel inv h fl hi
    have hrel : (fun l => (fcmpLane t f s l).1) = rel := by
      funext l
      simp only [fcmpLane, rel]
      generalize f.md.toNat = cc
      match cc with
      | 0 | 1 | 2 | 3 | 4 | 5 | 6 => rfl
      | _ + 7 => rfl
    have hfl : unionFlags (guarded h s) (fun l => (fcmpLane t f s l).2) = fl := by
      simp only [fcmpLane, fcmpRel_flags]
      rfl
    refine ⟨fun hoff => ⟨_, rfl, ?_⟩, fun hon => ?_⟩
    · have heff := fcmp_effect hi (by rw [hfl]; exact hoff)
      rwa [hrel, hfl] at heff
    · obtain ⟨hv, hth, hwarp⟩ := fcmp_traps hi (by rw [hfl]; exact hon)
      exact ⟨_, rfl, hv, hth, by rw [hwarp], by rw [hwarp], by rw [hwarp]⟩

end Sys2Proof.Machine
end
